-- ==== Sys2Proof/Word.lean ====
section
/-! DEFINITION. The word types of the H24: bytes, 32-bit registers and masks, 64-bit instruction words and addresses. -/

namespace Sys2Proof

/-- One byte of memory. -/
abbrev Byte := BitVec 8

/-- A 32-bit register value (R26). -/
abbrev Word := BitVec 32

/-- A 32-bit thread mask: bit t belongs to thread t (R5). -/
abbrev Mask := BitVec 32

/-- A 64-bit value: an instruction word, a register pair, an address (R4). -/
abbrev DWord := BitVec 64

end Sys2Proof
end

