-- ==== Sys2Proof/Syntax.lean ====
section
/-! DEFINITION. The syntax of the H24's instructions (R57-R93) and of the events of its engines: one inductive,
one constructor per row of the opcode table. Operands are typed specifiers (R29), never raw fields. -/

namespace Sys2Proof

/-- The sixteen next-address selectors, in code order (R60). -/
inductive Nas where
  | next | goJ0 | goJ1 | callJ0 | callJ1 | ret | lend | exit
  | ifB0GoJ0 | ifB1GoJ0 | ifNotB0GoJ0 | ifNotB1GoJ0 | ifB0GoJ1 | ifB1GoJ1 | ifNoneGoJ1 | yield
  deriving DecidableEq, Repr

/-- A word guard (R59): none, or predicate/flag `n`, negated when `neg`. -/
inductive Guard where
  | always
  | on (n : Fin 7) (neg : Bool)
  deriving DecidableEq, Repr

/-- An operand specifier (R29). `rsv` keeps the ten bits of a reserved specifier. -/
inductive Opnd where
  | v (n : Fin 256)
  | k (n : Fin 64)
  | sp (i : Fin 64)
  | p (n : Fin 8)
  | b (n : Fin 4)
  | a (n : Fin 32)
  | lane
  | imm (i : BitVec 8)
  | rsv (raw : BitVec 10)
  deriving DecidableEq, Repr

/-- What every short-latency full-form word carries besides its operands: NAS and guard (R57). -/
structure Head where
  nas : Nas
  g : Guard
  deriving DecidableEq, Repr

/-- What every long-latency word carries: NAS, guard, lookahead and in-flight slot (R68, R69). -/
structure LHead where
  nas : Nas
  g : Guard
  la : Fin 16
  slot : Fin 8
  deriving DecidableEq, Repr

/-- Rounding modes X[10:9] (R72, R100). -/
inductive Rnd where
  | rne | rz | rup | rdn
  deriving DecidableEq, Repr

/-- Integer compare conditions (R341). -/
inductive ICond where
  | eq | ne | lt | le | gt | ge
  deriving DecidableEq, Repr

/-- Floating-point compare conditions (R318). -/
inductive FCond where
  | eq | ne | lt | le | gt | ge | num | nan
  deriving DecidableEq, Repr

/-- ISAT ranges (R344). -/
inductive SatRange where
  | s8 | s16 | u8 | u16
  deriving DecidableEq, Repr

/-- SHRR ranges (R384). -/
inductive ShrrRange where
  | s32 | s16 | s8 | u16
  deriving DecidableEq, Repr

/-- CVT types (R311), codes 0 to 12; the last two are destinations only. -/
inductive CvtType where
  | i32 | n32 | i16 | n16 | i8 | n8 | f32 | f16 | bf16 | e4m3 | e5m2 | bf16sr | f16sr
  deriving DecidableEq, Repr

/-- Scan and reduction operations (R52). -/
inductive ScanOp where
  | add | adds | min | max | fadd | fmin | fmax
  deriving DecidableEq, Repr

/-- VOTE operations (R403). -/
inductive VoteOp where
  | all | any | ballot | uni
  deriving DecidableEq, Repr

/-- AGET parts (R40). -/
inductive AgetPart where
  | base | stride | ovf
  deriving DecidableEq, Repr

/-- LD, ST and PFT spaces (R72). -/
inductive Space where
  | g | s | p
  deriving DecidableEq, Repr

/-- Memory access types (R72). -/
inductive MemType where
  | u8 | s8 | u16 | s16 | b32 | b64 | b128
  deriving DecidableEq, Repr

/-- ATOM operations, in code order (R299). -/
inductive AtomOp where
  | add | and | or | xor | min | max | umin | umax | exch | cas | fadd
  deriving DecidableEq, Repr

/-- Typed buffers (R125, R126). -/
inductive BufName where
  | w | x | c
  deriving DecidableEq, Repr

/-- Fence kinds (R181). -/
inductive FenceKind where
  | rel | acq | ar
  deriving DecidableEq, Repr

/-- Scopes (R169). -/
inductive Scope where
  | warp | core | clu | die | mod | sys
  deriving DecidableEq, Repr

/-- Paths (R167, R182). -/
inductive Path where
  | v | c | m | g | n
  deriving DecidableEq, Repr

/-- Row-request operations (R153); `axpby` belongs to glazes only (R144). -/
inductive RowOp where
  | addc | mulc | fmac | clmp | zero | axpby
  deriving DecidableEq, Repr

/-- Element types of a row (R143). -/
inductive Elt where
  | i32 | f32 | i16x2 | bf16x2
  deriving DecidableEq, Repr

/-- Copy spaces (R309). -/
inductive CpySpace where
  | g | s | w | x
  deriving DecidableEq, Repr

/-- The short-latency typed operations a paired-form slot can perform under some decode table (R76, R77),
the default short page's 24 first (R75, R95). -/
inductive SlotOp where
  | mov | iadd | isub | iand | ior | ixor | ishl | ishr | isra | imin | imax | fadd | fsub | fmul | fmin | fmax
  | imul | padd2 | psub2 | hadd2 | hmul2 | prom | iabs | clz
  | imad | imulh | icmp | isel | bfx | bfi | popc | iadc | shrr | isat | pack | ldi | ldih | cvt
  | ffma | fcmp | frnd | fscl | fgetx | fgetm | fclass | hfma2 | rbits | pmac2 | pmul2 | dot4
  | wrth | vsld | vscan | rdth | vred | vote | aget | aset
  deriving DecidableEq, Repr

/-- A paired slot's guard SP (R58, R59). -/
inductive SlotGuard where
  | always | on0 | on1 | not0
  deriving DecidableEq, Repr

/-- One slot of a paired word (R58): `d := d op s`, or `d := op s`. -/
structure PSlot where
  op : SlotOp
  sp : SlotGuard
  d : Opnd
  s : Opnd
  deriving DecidableEq, Repr

/-- Common fields of a matrix word (R223): NAS, guard, lookahead, slot, first tile, core mask. -/
structure MHead where
  nas : Nas
  g : Guard
  la : Fin 16
  slot : Fin 8
  c1 : Fin 4
  cm : BitVec 4
  deriving DecidableEq, Repr

/-- Registers written by firmware that have no row of their own (R3, R272, R276). -/
inductive FwReg where
  /-- A context descriptor (R272): context handle, VF context's die, system flag, descriptor bytes. -/
  | descriptor (ctx die : Nat) (system : Bool) (bytes : List Byte)
  /-- Event selector of counter `n` (16 to 31) of a context (R276). -/
  | counterSel (ctx n : Nat) (ev : BitVec 32)
  /-- The stack's temperature state as its sensor reports it (R18). -/
  | stackHot (die : Nat) (hot : Bool)
  /-- Firmware makes a context of its die resident (R271, R272), from its saved image if it has one. -/
  | restore (ctx : Nat)
  /-- A die with nothing to run goes to Idle, or leaves it (R285). -/
  | idle (die : Nat) (on : Bool)
  /-- The Tenant debug state of a die is entered, or left (R285). -/
  | tenantDebug (die : Nat) (on : Bool)
  /-- A die is put into reset (R23, R285). -/
  | dieReset (die : Nat)
  deriving DecidableEq, Repr

/-- The instructions and events of the opcode table: one constructor per row, in the table's order. `h` is the head of the
word, `d`, `a` and `b` its operand fields; the other arguments are the fields of X that the cited rule lays out. -/
inductive Instr where
  /-- R340: Varying integer add, wrapping or saturating with .sat, in each executed thread. -/
  | iaddV (h : Head) (d a b : Opnd) (sat : Bool)
  /-- R340: Uniform integer add into a k or b register. -/
  | iaddU (h : Head) (d a b : Opnd) (sat : Bool)
  /-- R36: Affine add of base and stride, with the O bit set on overflow. -/
  | iaddA (h : Head) (d a b : Opnd)
  /-- R340: Varying integer subtract. -/
  | isubV (h : Head) (d a b : Opnd) (sat : Bool)
  /-- R340: Uniform integer subtract. -/
  | isubU (h : Head) (d a b : Opnd) (sat : Bool)
  /-- R36: Affine subtract with overflow tracking. -/
  | isubA (h : Head) (d a b : Opnd)
  /-- R340: Varying integer multiply, low word. -/
  | imulV (h : Head) (d a b : Opnd) (sat : Bool)
  /-- R340: Uniform integer multiply, low word. -/
  | imulU (h : Head) (d a b : Opnd) (sat : Bool)
  /-- R36: Affine multiply in which at most one source is affine. -/
  | imulA (h : Head) (d a b : Opnd)
  /-- R340: Varying left shift. -/
  | ishlV (h : Head) (d a b : Opnd) (sat : Bool)
  /-- R340: Uniform left shift. -/
  | ishlU (h : Head) (d a b : Opnd) (sat : Bool)
  /-- R36: Affine left shift by a uniform amount. -/
  | ishlA (h : Head) (d a b : Opnd)
  /-- R360: Varying or predicate move, tagging the destination G. -/
  | movV (h : Head) (d a : Opnd)
  /-- R360: Uniform move into a k or b register. -/
  | movU (h : Head) (d a : Opnd)
  /-- R360: Affine move copying base, stride and O. -/
  | movA (h : Head) (d a : Opnd)
  /-- R350: Varying load of a 21-bit immediate. -/
  | ldiV (h : Head) (d : Opnd) (i : BitVec 21)
  /-- R350: Uniform load of a 21-bit immediate. -/
  | ldiU (h : Head) (d : Opnd) (i : BitVec 21)
  /-- R350: Affine load of an immediate base with stride 0. -/
  | ldiA (h : Head) (d : Opnd) (i : BitVec 21)
  /-- R342: Varying multiply-add A·B + D. -/
  | imadV (h : Head) (d a b : Opnd) (u sat : Bool)
  /-- R342: Uniform multiply-add. -/
  | imadU (h : Head) (d a b : Opnd) (u sat : Bool)
  /-- R343: Varying high word of the 64-bit product. -/
  | imulhV (h : Head) (d a b : Opnd) (u : Bool)
  /-- R343: Uniform high word of the 64-bit product. -/
  | imulhU (h : Head) (d a b : Opnd) (u : Bool)
  /-- R340: Varying logical right shift. -/
  | ishrV (h : Head) (d a b : Opnd)
  /-- R340: Uniform logical right shift. -/
  | ishrU (h : Head) (d a b : Opnd)
  /-- R340: Varying arithmetic right shift. -/
  | israV (h : Head) (d a b : Opnd)
  /-- R340: Uniform arithmetic right shift. -/
  | israU (h : Head) (d a b : Opnd)
  /-- R340: Varying bitwise and. -/
  | iandV (h : Head) (d a b : Opnd)
  /-- R340: Uniform bitwise and. -/
  | iandU (h : Head) (d a b : Opnd)
  /-- R340: Varying bitwise or. -/
  | iorV (h : Head) (d a b : Opnd)
  /-- R340: Uniform bitwise or. -/
  | iorU (h : Head) (d a b : Opnd)
  /-- R340: Varying bitwise exclusive or. -/
  | ixorV (h : Head) (d a b : Opnd)
  /-- R340: Uniform bitwise exclusive or. -/
  | ixorU (h : Head) (d a b : Opnd)
  /-- R340: Varying signed or unsigned minimum. -/
  | iminV (h : Head) (d a b : Opnd) (u : Bool)
  /-- R340: Uniform signed or unsigned minimum. -/
  | iminU (h : Head) (d a b : Opnd) (u : Bool)
  /-- R340: Varying signed or unsigned maximum. -/
  | imaxV (h : Head) (d a b : Opnd) (u : Bool)
  /-- R340: Uniform signed or unsigned maximum. -/
  | imaxU (h : Head) (d a b : Opnd) (u : Bool)
  /-- R338: Varying absolute value, optionally saturating. -/
  | iabsV (h : Head) (d a : Opnd) (sat : Bool)
  /-- R338: Uniform absolute value. -/
  | iabsU (h : Head) (d a : Opnd) (sat : Bool)
  /-- R341: Varying integer compare into a p or v register. -/
  | icmpV (h : Head) (d a b : Opnd) (u : Bool) (c : ICond)
  /-- R341: Uniform integer compare into a b or k register. -/
  | icmpU (h : Head) (d a b : Opnd) (u : Bool) (c : ICond)
  /-- R345: Varying select by a predicate. -/
  | iselV (h : Head) (d a b : Opnd) (neg : Bool) (n : Fin 8)
  /-- R345: Uniform select by a flag. -/
  | iselU (h : Head) (d a b : Opnd) (neg : Bool) (n : Fin 8)
  /-- R302: Varying bit-field extract. -/
  | bfxV (h : Head) (d a b : Opnd) (sx : Bool)
  /-- R302: Uniform bit-field extract. -/
  | bfxU (h : Head) (d a b : Opnd) (sx : Bool)
  /-- R301: Varying bit-field insert. -/
  | bfiV (h : Head) (d a b : Opnd)
  /-- R301: Uniform bit-field insert. -/
  | bfiU (h : Head) (d a b : Opnd)
  /-- R374: Varying population count. -/
  | popcV (h : Head) (d a : Opnd)
  /-- R374: Uniform population count. -/
  | popcU (h : Head) (d a : Opnd)
  /-- R308: Varying count of leading zeros. -/
  | clzV (h : Head) (d a : Opnd)
  /-- R308: Uniform count of leading zeros. -/
  | clzU (h : Head) (d a : Opnd)
  /-- R339: Varying add with a carry held in a predicate. -/
  | iadcV (h : Head) (d a b : Opnd) (ci : Bool) (n : Fin 8)
  /-- R339: Uniform add with a carry held in a flag. -/
  | iadcU (h : Head) (d a b : Opnd) (ci : Bool) (n : Fin 8)
  /-- R384: Varying rounding right shift with optional range clamp. -/
  | shrrV (h : Head) (d a b : Opnd) (r : Rnd) (sat : Bool) (rng : ShrrRange) (u : Bool)
  /-- R384: Uniform rounding right shift. -/
  | shrrU (h : Head) (d a b : Opnd) (r : Rnd) (sat : Bool) (rng : ShrrRange) (u : Bool)
  /-- R344: Varying clamp to an 8- or 16-bit range. -/
  | isatV (h : Head) (d a : Opnd) (rng : SatRange)
  /-- R344: Uniform clamp to an 8- or 16-bit range. -/
  | isatU (h : Head) (d a : Opnd) (rng : SatRange)
  /-- R368: Varying packed 16-bit add. -/
  | padd2V (h : Head) (d a b : Opnd) (u sat : Bool)
  /-- R368: Uniform packed 16-bit add. -/
  | padd2U (h : Head) (d a b : Opnd) (u sat : Bool)
  /-- R368: Varying packed 16-bit subtract. -/
  | psub2V (h : Head) (d a b : Opnd) (u sat : Bool)
  /-- R368: Uniform packed 16-bit subtract. -/
  | psub2U (h : Head) (d a b : Opnd) (u sat : Bool)
  /-- R367: Varying packing of two halves. -/
  | packV (h : Head) (d a b : Opnd) (sat hi : Bool)
  /-- R367: Uniform packing of two halves. -/
  | packU (h : Head) (d a b : Opnd) (sat hi : Bool)
  /-- R351: Varying write of the high 16 bits from an immediate. -/
  | ldihV (h : Head) (d : Opnd) (i : BitVec 16)
  /-- R351: Uniform write of the high 16 bits from an immediate. -/
  | ldihU (h : Head) (d : Opnd) (i : BitVec 16)
  /-- R311: Varying format conversion, including stochastic rounding. -/
  | cvtV (h : Head) (d a b : Opnd) (r : Rnd) (sat : Bool) (dt st : CvtType)
  /-- R311: Uniform format conversion. -/
  | cvtU (h : Head) (d a b : Opnd) (r : Rnd) (sat : Bool) (dt st : CvtType)
  /-- R316: Varying FP32 add. -/
  | faddV (h : Head) (d a b : Opnd) (r : Rnd)
  /-- R316: Uniform FP32 add. -/
  | faddU (h : Head) (d a b : Opnd) (r : Rnd)
  /-- R316: Varying FP32 subtract. -/
  | fsubV (h : Head) (d a b : Opnd) (r : Rnd)
  /-- R316: Uniform FP32 subtract. -/
  | fsubU (h : Head) (d a b : Opnd) (r : Rnd)
  /-- R316: Varying FP32 multiply. -/
  | fmulV (h : Head) (d a b : Opnd) (r : Rnd)
  /-- R316: Uniform FP32 multiply. -/
  | fmulU (h : Head) (d a b : Opnd) (r : Rnd)
  /-- R321: Varying fused multiply-add with one rounding. -/
  | ffmaV (h : Head) (d a b : Opnd) (r : Rnd) (horner : Bool)
  /-- R321: Uniform fused multiply-add. -/
  | ffmaU (h : Head) (d a b : Opnd) (r : Rnd) (horner : Bool)
  /-- R324: Varying FP32 minimum. -/
  | fminV (h : Head) (d a b : Opnd)
  /-- R324: Uniform FP32 minimum. -/
  | fminU (h : Head) (d a b : Opnd)
  /-- R324: Varying FP32 maximum. -/
  | fmaxV (h : Head) (d a b : Opnd)
  /-- R324: Uniform FP32 maximum. -/
  | fmaxU (h : Head) (d a b : Opnd)
  /-- R318: Varying floating-point compare. -/
  | fcmpV (h : Head) (d a b : Opnd) (c : FCond)
  /-- R318: Uniform floating-point compare. -/
  | fcmpU (h : Head) (d a b : Opnd) (c : FCond)
  /-- R326: Varying rounding to an integral FP32. -/
  | frndV (h : Head) (d a : Opnd) (r : Rnd)
  /-- R326: Uniform rounding to an integral FP32. -/
  | frndU (h : Head) (d a : Opnd) (r : Rnd)
  /-- R327: Varying scaling by a power of two. -/
  | fsclV (h : Head) (d a b : Opnd) (r : Rnd)
  /-- R327: Uniform scaling by a power of two. -/
  | fsclU (h : Head) (d a b : Opnd) (r : Rnd)
  /-- R323: Varying extraction of the unbiased exponent. -/
  | fgetxV (h : Head) (d a : Opnd)
  /-- R323: Uniform extraction of the unbiased exponent. -/
  | fgetxU (h : Head) (d a : Opnd)
  /-- R322: Varying extraction of the significand. -/
  | fgetmV (h : Head) (d a : Opnd)
  /-- R322: Uniform extraction of the significand. -/
  | fgetmU (h : Head) (d a : Opnd)
  /-- R317: Varying classification of a floating-point value. -/
  | fclassV (h : Head) (d a : Opnd)
  /-- R317: Uniform classification of a floating-point value. -/
  | fclassU (h : Head) (d a : Opnd)
  /-- R337: Varying packed 16-bit floating-point fused multiply-add. -/
  | hfma2V (h : Head) (d a b : Opnd) (r : Rnd) (bf : Bool)
  /-- R337: Uniform packed 16-bit floating-point fused multiply-add. -/
  | hfma2U (h : Head) (d a b : Opnd) (r : Rnd) (bf : Bool)
  /-- R337: Varying packed 16-bit floating-point add. -/
  | hadd2V (h : Head) (d a b : Opnd) (r : Rnd) (bf : Bool)
  /-- R337: Uniform packed 16-bit floating-point add. -/
  | hadd2U (h : Head) (d a b : Opnd) (r : Rnd) (bf : Bool)
  /-- R337: Varying packed 16-bit floating-point multiply. -/
  | hmul2V (h : Head) (d a b : Opnd) (r : Rnd) (bf : Bool)
  /-- R337: Uniform packed 16-bit floating-point multiply. -/
  | hmul2U (h : Head) (d a b : Opnd) (r : Rnd) (bf : Bool)
  /-- R376: Varying Philox random bits per executed thread. -/
  | rbitsV (h : Head) (d a b : Opnd)
  /-- R376: Uniform Philox random bits. -/
  | rbitsU (h : Head) (d a b : Opnd)
  /-- R373: Packed multiply-accumulate that saturates at each step. -/
  | pmac2 (h : Head) (d a b : Opnd) (ua ub : Bool)
  /-- R368: Packed 16-bit multiply, class V only. -/
  | pmul2 (h : Head) (d a b : Opnd) (u sat : Bool)
  /-- R314: Four-way byte dot product accumulated into D. -/
  | dot4 (h : Head) (d a b : Opnd) (ua ub sat : Bool)
  /-- R411: Writes a uniform value into one thread of a varying register. -/
  | wrth (h : Head) (d a b : Opnd)
  /-- R407: Slides a register across threads with a fill value. -/
  | vsld (h : Head) (d a b : Opnd) (half down : Bool) (n : Fin 32)
  /-- R406: Prefix operation over the executed threads in thread order. -/
  | vscan (h : Head) (d a b : Opnd) (op : ScanOp) (ex : Bool)
  /-- R404: Long-latency gather from a snapshot of the warp. -/
  | vperm (h : LHead) (d a b : Opnd)
  /-- R375: Promotes a uniform or affine value into a varying register. -/
  | promV (h : Head) (d a : Opnd) (chk : Bool)
  /-- R375: Promotes a uniform value into an affine register with stride 0. -/
  | promA (h : Head) (d a : Opnd)
  /-- R377: Reads one thread's value into a uniform register. -/
  | rdth (h : Head) (d a b : Opnd)
  /-- R405: Reduces a varying register across EXM into a k register. -/
  | vred (h : Head) (d a b : Opnd) (op : ScanOp)
  /-- R403: Combines a predicate across the warp. -/
  | vote (h : Head) (d a : Opnd) (op : VoteOp) (neg : Bool)
  /-- R296: Reads the base, stride or O bit of an affine register. -/
  | aget (h : Head) (d a : Opnd) (part : AgetPart)
  /-- R297: Builds an affine register from a uniform base and stride. -/
  | aset (h : Head) (d a b : Opnd)
  /-- R347: Varying load from global, scratch or private space. -/
  | ldV (h : LHead) (d a b : Opnd) (spc : Space) (ty : MemType) (pw nc chk : Bool)
  /-- R347: Uniform load into k registers. -/
  | ldU (h : LHead) (d a b : Opnd) (spc : Space) (ty : MemType) (pw nc chk : Bool)
  /-- R386: Varying store. -/
  | stV (h : LHead) (d a b : Opnd) (spc : Space) (ty : MemType) (nc chk : Bool)
  /-- R386: Uniform store, run once as thread 0. -/
  | stU (h : LHead) (d a b : Opnd) (spc : Space) (ty : MemType) (nc chk : Bool)
  /-- R298: Varying atomic read-modify-write, performed in thread order. -/
  | atomV (h : LHead) (d a b : Opnd) (scr : Bool) (op : AtomOp) (wide chk : Bool)
  /-- R298: Uniform atomic read-modify-write. -/
  | atomU (h : LHead) (d a b : Opnd) (scr : Bool) (op : AtomOp) (wide chk : Bool)
  /-- R379: Varying reduction to memory without a return value. -/
  | redV (h : LHead) (d a b : Opnd) (scr : Bool) (op : AtomOp) (wide chk : Bool)
  /-- R379: Uniform reduction to memory. -/
  | redU (h : LHead) (d a b : Opnd) (scr : Bool) (op : AtomOp) (wide chk : Bool)
  /-- R372: Varying prefetch into the caches. -/
  | pftV (h : LHead) (a b : Opnd) (spc : Space) (ty : MemType) (nc chk : Bool)
  /-- R372: Uniform prefetch into the caches. -/
  | pftU (h : LHead) (a b : Opnd) (spc : Space) (ty : MemType) (nc chk : Bool)
  /-- R305: Loads from the X- or C-buffer. -/
  | bld (h : LHead) (d a : Opnd) (buf : BufName) (ty : MemType)
  /-- R306: Stores to a typed buffer and marks the granules it writes RAW. -/
  | bst (h : LHead) (d a : Opnd) (buf : BufName) (ty : MemType)
  /-- R73: Issues a paired-form word whose two short-page slots act together. -/
  | pairedWord (nas : Nas) (s1 s2 : PSlot)
  /-- R365: Does nothing except carry its NAS. -/
  | nop (h : Head)
  /-- R363: Pushes a mask-stack entry and restricts EXM by a predicate. -/
  | mskif (h : Head) (a : Opnd) (neg : Bool)
  /-- R363: Switches EXM to the top entry's else threads. -/
  | mskelse (h : Head)
  /-- R363: Pops the top entry and restores its outer mask. -/
  | mskend (h : Head)
  /-- R363: Removes threads from n levels of divergent regions. -/
  | mskbrk (h : Head) (a : Opnd) (neg : Bool) (n : Fin 16)
  /-- R352: Loads a jump register with a PC-relative target. -/
  | ldj (h : Head) (j1 : Bool) (i : BitVec 21)
  /-- R353: Opens a zero-overhead counted loop level, or skips its body. -/
  | loop (h : Head) (a : Opnd) (len : BitVec 8)
  /-- R408: Holds issue until the named slots are complete. -/
  | waitop (h : Head) (m : BitVec 8)
  /-- R320: V-path memory fence of a given kind and scope. -/
  | fence (h : Head) (kind : FenceKind) (sc : Scope)
  /-- R412: Cross-path fence from path p to path q. -/
  | xfence (h : Head) (p q : Path) (sc : Scope)
  /-- R303: Adds a region binding to the warp's binding table. -/
  | bind (h : Head) (a b : Opnd) (rs os cl : Bool)
  /-- R402: Removes one binding, or all of them. -/
  | unbind (h : Head) (a : Opnd) (rs all : Bool)
  /-- R295: Requests an exclusive or shared acquire at the object's home and holds issue. -/
  | acq (h : Head) (a : Opnd) (sh os : Bool)
  /-- R381: Publishes writes and releases a held object after its waits. -/
  | rel (h : Head) (a : Opnd) (os : Bool)
  /-- R307: Group barrier: release, arrival, wait and shared acquire. -/
  | clasp (h : Head) (a : Opnd)
  /-- R307: Clasp release and arrival only. -/
  | claspa (h : Head) (a : Opnd)
  /-- R307: Clasp wait and shared acquire only. -/
  | claspw (h : Head) (a : Opnd)
  /-- R325: Queues a matrix-sequencer program on the warp's cluster. -/
  | fork (h : LHead) (a b : Opnd) (n : Fin 4) (grp : Bool)
  /-- R378: Joins the next rendezvous meeting with a sequencer program. -/
  | rdv (h : LHead) (a : Opnd)
  /-- R398: Marks the warp as triggered for early release of successors. -/
  | trig (h : Head)
  /-- R383: Initialises a range counter of the die's range unit. -/
  | rinit (h : Head) (a b : Opnd)
  /-- R382: Takes a chunk of items from a range counter. -/
  | rget (h : LHead) (d a : Opnd)
  /-- R399: Posts a task record to the ready queues of the warp's own virtual device. -/
  | tspawn (h : Head) (a : Opnd)
  /-- R390: Reads the 64-bit nanosecond count into a k pair. -/
  | time (h : Head) (d : Opnd)
  /-- R385: Holds the warp until the count reaches a given instant. -/
  | sleepat (h : Head) (a : Opnd)
  /-- R395: Writes a kind-1 trace record. -/
  | trace (h : Head) (a b : Opnd)
  /-- R354: Reads a die mailbox, with acquire ordering. -/
  | mbxr (h : LHead) (d a : Opnd)
  /-- R355: Performs a release fence, then writes a die mailbox. -/
  | mbxw (h : Head) (a b : Opnd)
  /-- R334: Registers a glaze region from a descriptor, or refuses it. -/
  | gzreg (h : LHead) (d a : Opnd)
  /-- R331: Removes a glaze region. -/
  | gzdel (h : LHead) (a : Opnd)
  /-- R335: Queues a one-time row request on a bank row. -/
  | gzreq (h : LHead) (d a b : Opnd) (op : RowOp) (elt : Elt) (sat now : Bool)
  /-- R332: Holds or resumes a glaze region. -/
  | gzhold (h : LHead) (a : Opnd) (res : Bool)
  /-- R333: Samples a bank's sweep position and the time of its last wrap. -/
  | gzpos (h : LHead) (d a : Opnd)
  /-- R309: Starts a detached copy from a descriptor on path C. -/
  | cpy (h : LHead) (a : Opnd) (src dst : CpySpace)
  /-- R392: Loads tensor chunks into a W- or X-buffer. -/
  | tload (h : LHead) (a b : Opnd) (x t : Bool) (n : Fin 8) (core : Fin 4)
  /-- R400: Stores a C tile to memory in the entry's format. -/
  | tstor (h : LHead) (a : Opnd) (tile core : Fin 4)
  /-- R389: Writes a tensor identifier entry from sixteen k registers. -/
  | tidset (h : Head) (a b : Opnd)
  /-- R388: Reads one word of a tensor identifier entry. -/
  | tidget (h : Head) (d a b : Opnd)
  /-- R357: Matrix multiply-accumulate into a C tile. -/
  | mmac (h : MHead) (a b : Opnd) (t : Bool) (src : Fin 4) (rm : Bool) (n : Fin 8)
  /-- R358: Paired matrix multiply-accumulate sharing one weight read. -/
  | mmap (h : MHead) (c2 : Fin 4) (a b : Opnd) (src : Fin 4) (rm : Bool) (n : Fin 8)
  /-- R359: Dual backward product into dX and dW tiles. -/
  | mmd2 (h : MHead) (c2 : Fin 4) (a b : Opnd) (src : Fin 4) (rm : Bool)
  /-- R329: Guidance combine of two C tiles. -/
  | gcmb (h : MHead) (c2 : Fin 4) (a : Opnd) (solo : Bool)
  /-- R364: Clears a C tile and its poison. -/
  | mzero (h : MHead)
  /-- R361: Quantises C tiles into a buffer chunk. -/
  | mqnt (h : MHead) (a : Opnd) (x sat : Bool) (n : Fin 4)
  /-- R362: Scales a C tile by an FP32 scalar. -/
  | mscl (h : MHead) (a : Opnd)
  /-- R396: Software trap with cause 0x0B. -/
  | trap (h : Head) (a : Opnd)
  /-- R397: Returns from a handler, replaying the captured words. -/
  | tret (h : Head)
  /-- R409: Writes a writable special register. -/
  | wrs (h : Head) (d a : Opnd)
  /-- R391: Invalidates translations on every die of the virtual device. -/
  | tlbi (h : Head) (a b : Opnd) (all : Bool)
  /-- R315: Loads the context's decode table from an image. -/
  | dtld (h : LHead) (a : Opnd)
  /-- R304: Breakpoint trap with cause 0x1A. -/
  | bkpt (h : Head)
  /-- R330: Ends a group and its launch. -/
  | gend (h : Head) (a : Opnd)
  /-- R369: Writes the warp's park image and frees its residency. -/
  | park (h : Head) (a : Opnd)
  /-- R313: Reads and clears 64 bits of the die's dirty array. -/
  | dirty (h : Head) (d a : Opnd)
  /-- R370: Stops a tenant context and writes its image to the save area. -/
  | pctlStop (h : Head) (a b : Opnd)
  /-- R370: Makes a saved context resident again. -/
  | pctlResume (h : Head) (a b : Opnd)
  /-- R370: Performs a partition reset of a tenant context. -/
  | pctlReset (h : Head) (a b : Opnd)
  /-- R346: Arms an arrival slot with a record and a tag. -/
  | larm (h : Head) (a b : Opnd) (tag : BitVec 8)
  /-- R70: A long-latency word's thread part or whole completes, setting its slot bits and writing its destination. -/
  | slotCompletion (ag slot upto : Nat)
  /-- R61: A warp with no live threads retires once its named slots complete. -/
  | warpRetire (ag : Nat)
  /-- R239: A pair-weight load is performed once its partner's matching load issues or the partner dies. -/
  | pwLoadMatch (ag slot : Nat)
  /-- R273: Write of a task record address to a VF's SUBMIT register. -/
  | submit (vf : Nat) (addr : DWord)
  /-- R202: The dispatcher takes a ready record, checks it and dispatches or rejects it. -/
  | taskDispatch (vf die : Nat)
  /-- R202: A record that has been ready for 1 ms moves to the next higher queue. -/
  | recordAgeing (addr : Nat)
  /-- R205: Admits a warp or group onto a core when resources free. -/
  | warpAdmit (launch die core : Nat)
  /-- R206: A launch retires, writes its completion word and releases its successors. -/
  | launchRetire (launch : Nat)
  /-- R207: Releases the successors once every warp has triggered or exited and the writes are visible. -/
  | triggerRelease (launch : Nat)
  /-- R286: A copy finishes its last block, or ends at a faulting block. -/
  | copyComplete (copy : Nat)
  /-- R209: An 8-byte write to an arrival slot address, matched by tag: by a network card. -/
  | arrival (die : Nat) (addr value : DWord)
  /-- R209: An 8-byte write to an arrival slot address, matched by tag: by the Evofisal peer `sender`. -/
  | evofisalArrival (die sender : Nat) (addr value : DWord)
  /-- R175: The object's home grants a waiting acquire. -/
  | acqGrant (ag : Nat)
  /-- R177: All live members have arrived and the shared acquires are granted together. -/
  | claspRoundComplete (launch g : Nat)
  /-- R214: A queued sequencer program starts once the forking warp's earlier operations are visible. -/
  | seqProgramStart (ag : Nat)
  /-- R218: A faulting program ends and its fault is delivered to a party. -/
  | seqProgramFault (ag : Nat)
  /-- R215: A rendezvous meeting completes when every party has reached it. -/
  | rdvMeetingComplete (ag : Nat)
  /-- R222: An accepted matrix operation starts in the array after its operand checks. -/
  | matrixOpStart (op : Nat)
  /-- R219: A matrix operation finishes in every core of its mask. -/
  | matrixOpComplete (op : Nat)
  /-- R213: The range unit serves an RGET first come, first served. -/
  | rgetServe (ag slot : Nat)
  /-- R193: A determinate launch commits a quantum's buffered writes. -/
  | quantumCommit (launch : Nat)
  /-- R141: A bank restores a row at or after its nominal visit, applying requests and glazes. -/
  | rowRestore (die bank : Nat)
  /-- R154: A row request enters its bank queue and reserves a budget unit. -/
  | requestAccept (ag slot : Nat)
  /-- R155: A demand activation of a row applies its pending requests. -/
  | demandActivation (die bank row : Nat)
  /-- R254: At a word boundary the warp settles, writes its frame and enters the handler. -/
  | trapEntry (ag : Nat)
  /-- R260: The driver restores a park image and the warp is readmitted. -/
  | parkRestore (ag core : Nat)
  /-- R262: Evicts preemptible units so that a higher-priority record can be placed. -/
  | partialEviction (ag : Nat)
  /-- R263: An evicted warp is readmitted and performs the steps of TRET. -/
  | warpReadmit (ag core : Nat)
  /-- R265: Stops dispatch and saves a context's preemptible launches. -/
  | fullSave (ctx : Nat)
  /-- R236: The die's sequencers stop and the arrays drain before an exchange. -/
  | locketExchangeRequest (die : Nat)
  /-- R16: Atomic 1,536-cycle exchange of the active and locket contexts. -/
  | locketExchange (die : Nat)
  /-- R266: First expiry of a launch's progress timer signals cause 0x19. -/
  | watchdogExpiry (launch : Nat)
  /-- R266: Second expiry without progress resets the context. -/
  | watchdogSecondExpiry (launch : Nat)
  /-- R283: A PCTL operation ends, writes its completion word and posts a notice. -/
  | pctlComplete (op : Nat)
  /-- R273: Posts a 16-byte entry to the notice queue, waiting for room. -/
  | noticePost (ctx : Nat)
  /-- R275: A mesh access is checked by both bezels and performed or denied. -/
  | meshAccess (src : Nat) (write : Bool) (pa : Nat) (value : Byte)
  /-- R275: An incoming Evofisal access is checked by the bezel. -/
  | evofisalAccess (die sender : Nat) (write : Bool) (pa : Nat) (value : Byte)
  /-- R274: Firmware writes a bezel register; writes from other agents are dropped. -/
  | bezelWrite (die : Nat) (firmware : Bool) (off : Nat) (value : DWord)
  /-- R3: Write to a register with no row of its own. -/
  | registerWrite (r : FwReg)
  /-- R278: A sleeping warp becomes ready when the count reaches its instant. -/
  | sleepWake (ag : Nat)
  /-- R277: A firmware-ordered forward step of the time count. -/
  | servoStep (ns : Nat)
  /-- R23: Firmware releases a compute die from reset. -/
  | dieResetRelease (die : Nat)
  /-- R23: The next core of a die is enabled after 256 cycles. -/
  | coreEnable (die : Nat)
  /-- R24: A matrix array enables its next 32 rows after 256 cycles. -/
  | arrayRampStep (die core : Nat)
  /-- R21: The current limiter withholds issue when the die would exceed its cap. -/
  | currentLimit (die cycles : Nat)
  /-- R22: A junction at 110 °C stops the die clock and places the partition in Partition-off. -/
  | thermalTrip (die : Nat)
  /-- R284: At power-up the boot ROM verifies the firmware under both signatures. -/
  | bootVerify (rsa slh : Bool)
  /-- R285: A verified signed unlock token enters Vendor debug after zeroisation. -/
  | debugUnlock (die : Nat) (verified : Bool)
  /-- R136: The buddy module acknowledges a mirrored write, or fails to, which ends the wait of a REL, a .mod/.sys fence or a CPY/TSTOR slot, or
  raises cause 0x0F there. -/
  | mirrorAcknowledgement (write : Nat) (ok : Bool)
  /-- R167: A write from a PCIe peer through a root port or the endpoint enters the module through the bezel windows on path N. -/
  | pciePeerWrite (die pa : Nat) (bytes : List Byte)
  /-- R23: A partition leaves Partition-off, and its cores are re-enabled in ascending order, one every 256 cycles. -/
  | partitionOffExit (die : Nat)
  /-- R285: The module enters Module-standby: compute dies go off, the stacks keep sweeping and the endpoint goes to L1. -/
  | moduleStandbyEntry
  /-- R285: The module leaves Module-standby and its compute dies return to Run. -/
  | moduleStandbyExit
  /-- R273: An entry of a full notice queue is taken by the driver, which frees room so that a waiting poster can post. -/
  | noticeQueueRoom (ctx : Nat)
  deriving DecidableEq, Repr

end Sys2Proof
end

