-- ==== Sys2Proof/Decode.lean ====
section
/-! DEFINITION. The decoder: a 64-bit word under a decode table to an instruction, or the reason it is none (R57-R59,
R68-R79, R91-R96, R298-R412); then the encoder and the names for the opcode table's rows. Checks that need the issuing engine, its mode or
operand values are the machine's (R78 puts them after those made here). -/

namespace Sys2Proof

/-! ## Fields -/

/-- The fields of a full-form word (R57). -/
structure Fields where
  nas : Nat
  op : Nat
  la : Nat
  pred : Nat
  pn : Nat
  d : Nat
  a : Nat
  b : Nat
  x : Nat
  deriving DecidableEq, Repr

/-- Bits `lo` to `lo + n - 1` of `w`. -/
def fld (w lo n : Nat) : Nat := w / 2 ^ lo % 2 ^ n

/-- Bit `i` of `w`. -/
def bit (w i : Nat) : Bool := fld w i 1 == 1

/-- The fields of a word in full form (R57). -/
def Fields.ofWord (w : Nat) : Fields :=
  { nas := fld w 60 4, op := fld w 49 10, la := fld w 45 4, pred := fld w 42 3, pn := fld w 41 1, d := fld w 31 10,
    a := fld w 21 10, b := fld w 11 10, x := fld w 0 11 }

/-- The word in full form with these fields (R57). -/
def Fields.toWord (f : Fields) : Nat :=
  f.nas * 2 ^ 60 + f.op * 2 ^ 49 + f.la * 2 ^ 45 + f.pred * 2 ^ 42 + f.pn * 2 ^ 41 + f.d * 2 ^ 31 + f.a * 2 ^ 21 +
    f.b * 2 ^ 11 + f.x

/-! ## Codes -/

/-- NAS codes (R60). -/
def Nas.code : Nas → Nat
  | .next => 0
  | .goJ0 => 1
  | .goJ1 => 2
  | .callJ0 => 3
  | .callJ1 => 4
  | .ret => 5
  | .lend => 6
  | .exit => 7
  | .ifB0GoJ0 => 8
  | .ifB1GoJ0 => 9
  | .ifNotB0GoJ0 => 10
  | .ifNotB1GoJ0 => 11
  | .ifB0GoJ1 => 12
  | .ifB1GoJ1 => 13
  | .ifNoneGoJ1 => 14
  | .yield => 15

def Nas.ofCode : Nat → Nas
  | 0 => .next
  | 1 => .goJ0
  | 2 => .goJ1
  | 3 => .callJ0
  | 4 => .callJ1
  | 5 => .ret
  | 6 => .lend
  | 7 => .exit
  | 8 => .ifB0GoJ0
  | 9 => .ifB1GoJ0
  | 10 => .ifNotB0GoJ0
  | 11 => .ifNotB1GoJ0
  | 12 => .ifB0GoJ1
  | 13 => .ifB1GoJ1
  | 14 => .ifNoneGoJ1
  | _ => .yield

/-- Rounding codes (R72). -/
def Rnd.code : Rnd → Nat
  | .rne => 0
  | .rz => 1
  | .rup => 2
  | .rdn => 3

def Rnd.ofCode : Nat → Rnd
  | 0 => .rne
  | 1 => .rz
  | 2 => .rup
  | _ => .rdn

/-- Compare conditions (R341); 110 and 111 are no conditions. -/
def ICond.code : ICond → Nat
  | .eq => 0
  | .ne => 1
  | .lt => 2
  | .le => 3
  | .gt => 4
  | .ge => 5

def ICond.ofCode : Nat → Option ICond
  | 0 => some .eq
  | 1 => some .ne
  | 2 => some .lt
  | 3 => some .le
  | 4 => some .gt
  | 5 => some .ge
  | _ => none

/-- Compare conditions (R318). -/
def FCond.code : FCond → Nat
  | .eq => 0
  | .ne => 1
  | .lt => 2
  | .le => 3
  | .gt => 4
  | .ge => 5
  | .num => 6
  | .nan => 7

def FCond.ofCode : Nat → FCond
  | 0 => .eq
  | 1 => .ne
  | 2 => .lt
  | 3 => .le
  | 4 => .gt
  | 5 => .ge
  | 6 => .num
  | _ => .nan

/-- ISAT ranges (R344). -/
def SatRange.code : SatRange → Nat
  | .s8 => 0
  | .s16 => 1
  | .u8 => 2
  | .u16 => 3

def SatRange.ofCode : Nat → SatRange
  | 0 => .s8
  | 1 => .s16
  | 2 => .u8
  | _ => .u16

/-- SHRR ranges (R384). -/
def ShrrRange.code : ShrrRange → Nat
  | .s32 => 0
  | .s16 => 1
  | .s8 => 2
  | .u16 => 3

def ShrrRange.ofCode : Nat → ShrrRange
  | 0 => .s32
  | 1 => .s16
  | 2 => .s8
  | _ => .u16

/-- CVT type codes (R311). -/
def CvtType.code : CvtType → Nat
  | .i32 => 0
  | .n32 => 1
  | .i16 => 2
  | .n16 => 3
  | .i8 => 4
  | .n8 => 5
  | .f32 => 6
  | .f16 => 7
  | .bf16 => 8
  | .e4m3 => 9
  | .e5m2 => 10
  | .bf16sr => 11
  | .f16sr => 12

def CvtType.ofCode : Nat → Option CvtType
  | 0 => some .i32
  | 1 => some .n32
  | 2 => some .i16
  | 3 => some .n16
  | 4 => some .i8
  | 5 => some .n8
  | 6 => some .f32
  | 7 => some .f16
  | 8 => some .bf16
  | 9 => some .e4m3
  | 10 => some .e5m2
  | 11 => some .bf16sr
  | 12 => some .f16sr
  | _ => none

/-- Scan operations (R52). -/
def ScanOp.code : ScanOp → Nat
  | .add => 0
  | .adds => 1
  | .min => 2
  | .max => 3
  | .fadd => 4
  | .fmin => 5
  | .fmax => 6

def ScanOp.ofCode : Nat → Option ScanOp
  | 0 => some .add
  | 1 => some .adds
  | 2 => some .min
  | 3 => some .max
  | 4 => some .fadd
  | 5 => some .fmin
  | 6 => some .fmax
  | _ => none

/-- VOTE operations (R403). -/
def VoteOp.code : VoteOp → Nat
  | .all => 0
  | .any => 1
  | .ballot => 2
  | .uni => 3

def VoteOp.ofCode : Nat → VoteOp
  | 0 => .all
  | 1 => .any
  | 2 => .ballot
  | _ => .uni

/-- AGET parts (R40). -/
def AgetPart.code : AgetPart → Nat
  | .base => 0
  | .stride => 1
  | .ovf => 2

def AgetPart.ofCode : Nat → Option AgetPart
  | 0 => some .base
  | 1 => some .stride
  | 2 => some .ovf
  | _ => none

/-- Spaces (R72). -/
def Space.code : Space → Nat
  | .g => 0
  | .s => 1
  | .p => 2

def Space.ofCode : Nat → Option Space
  | 0 => some .g
  | 1 => some .s
  | 2 => some .p
  | _ => none

/-- Memory types (R72). -/
def MemType.code : MemType → Nat
  | .u8 => 0
  | .s8 => 1
  | .u16 => 2
  | .s16 => 3
  | .b32 => 4
  | .b64 => 5
  | .b128 => 6

def MemType.ofCode : Nat → Option MemType
  | 0 => some .u8
  | 1 => some .s8
  | 2 => some .u16
  | 3 => some .s16
  | 4 => some .b32
  | 5 => some .b64
  | 6 => some .b128
  | _ => none

/-- ATOM operations (R299). -/
def AtomOp.code : AtomOp → Nat
  | .add => 0
  | .and => 1
  | .or => 2
  | .xor => 3
  | .min => 4
  | .max => 5
  | .umin => 6
  | .umax => 7
  | .exch => 8
  | .cas => 9
  | .fadd => 10

def AtomOp.ofCode : Nat → Option AtomOp
  | 0 => some .add
  | 1 => some .and
  | 2 => some .or
  | 3 => some .xor
  | 4 => some .min
  | 5 => some .max
  | 6 => some .umin
  | 7 => some .umax
  | 8 => some .exch
  | 9 => some .cas
  | 10 => some .fadd
  | _ => none

/-- Buffers (R126). -/
def BufName.code : BufName → Nat
  | .w => 0
  | .x => 1
  | .c => 2

def BufName.ofCode : Nat → Option BufName
  | 0 => some .w
  | 1 => some .x
  | 2 => some .c
  | _ => none

/-- Fence kinds (R181). -/
def FenceKind.code : FenceKind → Nat
  | .rel => 1
  | .acq => 2
  | .ar => 3

def FenceKind.ofCode : Nat → Option FenceKind
  | 1 => some .rel
  | 2 => some .acq
  | 3 => some .ar
  | _ => none

/-- Scopes (R169). -/
def Scope.code : Scope → Nat
  | .warp => 0
  | .core => 1
  | .clu => 2
  | .die => 3
  | .mod => 4
  | .sys => 5

def Scope.ofCode : Nat → Option Scope
  | 0 => some .warp
  | 1 => some .core
  | 2 => some .clu
  | 3 => some .die
  | 4 => some .mod
  | 5 => some .sys
  | _ => none

/-- Paths (R182). -/
def Path.code : Path → Nat
  | .v => 0
  | .c => 1
  | .m => 2
  | .g => 3
  | .n => 4

def Path.ofCode : Nat → Option Path
  | 0 => some .v
  | 1 => some .c
  | 2 => some .m
  | 3 => some .g
  | 4 => some .n
  | _ => none

/-- Request operations (R153); `axpby` has no code there. -/
def RowOp.code : RowOp → Nat
  | .addc => 1
  | .mulc => 2
  | .fmac => 3
  | .clmp => 4
  | .zero => 5
  | .axpby => 6

def RowOp.ofCode : Nat → Option RowOp
  | 1 => some .addc
  | 2 => some .mulc
  | 3 => some .fmac
  | 4 => some .clmp
  | 5 => some .zero
  | _ => none

/-- Element types (R153). -/
def Elt.code : Elt → Nat
  | .i32 => 0
  | .f32 => 1
  | .i16x2 => 2
  | .bf16x2 => 3

def Elt.ofCode : Nat → Elt
  | 0 => .i32
  | 1 => .f32
  | 2 => .i16x2
  | _ => .bf16x2

/-- Copy spaces (R309). -/
def CpySpace.code : CpySpace → Nat
  | .g => 0
  | .s => 1
  | .w => 2
  | .x => 3

def CpySpace.ofCode : Nat → CpySpace
  | 0 => .g
  | 1 => .s
  | 2 => .w
  | _ => .x

/-- Operand specifiers (R29). -/
def opnd (n : Nat) : Opnd :=
  if n < 0x100 then .v (Fin.ofNat 256 n)
  else if n < 0x140 then .k (Fin.ofNat 64 n)
  else if n < 0x180 then .sp (Fin.ofNat 64 n)
  else if n < 0x188 then .p (Fin.ofNat 8 n)
  else if n < 0x18C then .b (Fin.ofNat 4 n)
  else if n < 0x200 then .rsv (BitVec.ofNat 10 n)
  else if n < 0x220 then .a (Fin.ofNat 32 n)
  else if n = 0x220 then .lane
  else if n < 0x300 then .rsv (BitVec.ofNat 10 n)
  else .imm (BitVec.ofNat 8 n)

/-- The specifier of an operand (R29). -/
def Opnd.code : Opnd → Nat
  | .v n => n.val
  | .k n => 0x100 + n.val
  | .sp i => 0x140 + i.val
  | .p n => 0x180 + n.val
  | .b n => 0x188 + n.val
  | .a n => 0x200 + n.val
  | .lane => 0x220
  | .imm i => 0x300 + i.toNat
  | .rsv r => r.toNat

/-- An affine operand: an a register or a.lane. -/
def Opnd.isAffine : Opnd → Bool
  | .a _ | .lane => true
  | _ => false

/-- Slot guards (R58). -/
def SlotGuard.code : SlotGuard → Nat
  | .always => 0
  | .on0 => 1
  | .on1 => 2
  | .not0 => 3

def SlotGuard.ofCode : Nat → SlotGuard
  | 0 => .always
  | 1 => .on0
  | 2 => .on1
  | _ => .not0

/-- The typed operation byte of a slot operation (R92, R95). -/
def SlotOp.byte : SlotOp → Nat
  | .mov => 0x20
  | .iadd => 0x01
  | .isub => 0x02
  | .iand => 0x09
  | .ior => 0x0A
  | .ixor => 0x0B
  | .ishl => 0x06
  | .ishr => 0x07
  | .isra => 0x08
  | .imin => 0x0C
  | .imax => 0x0D
  | .fadd => 0x30
  | .fsub => 0x31
  | .fmul => 0x32
  | .fmin => 0x34
  | .fmax => 0x35
  | .imul => 0x03
  | .padd2 => 0x19
  | .psub2 => 0x1A
  | .hadd2 => 0x3D
  | .hmul2 => 0x3E
  | .prom => 0x23
  | .iabs => 0x0E
  | .clz => 0x14
  | .imad => 0x04
  | .imulh => 0x05
  | .icmp => 0x0F
  | .isel => 0x10
  | .bfx => 0x11
  | .bfi => 0x12
  | .popc => 0x13
  | .iadc => 0x15
  | .shrr => 0x16
  | .isat => 0x17
  | .pack => 0x1C
  | .ldi => 0x21
  | .ldih => 0x22
  | .cvt => 0x29
  | .ffma => 0x33
  | .fcmp => 0x36
  | .frnd => 0x37
  | .fscl => 0x38
  | .fgetx => 0x39
  | .fgetm => 0x3A
  | .fclass => 0x3B
  | .hfma2 => 0x3C
  | .rbits => 0x44
  | .pmac2 => 0x18
  | .pmul2 => 0x1B
  | .dot4 => 0x1D
  | .wrth => 0x25
  | .vsld => 0x40
  | .vscan => 0x41
  | .rdth => 0x24
  | .vred => 0x26
  | .vote => 0x27
  | .aget => 0x2A
  | .aset => 0x2B

/-- The short-latency typed operations by operation byte (R92). -/
def SlotOp.ofByte : Nat → Option SlotOp
  | 0x20 => some .mov
  | 0x01 => some .iadd
  | 0x02 => some .isub
  | 0x09 => some .iand
  | 0x0A => some .ior
  | 0x0B => some .ixor
  | 0x06 => some .ishl
  | 0x07 => some .ishr
  | 0x08 => some .isra
  | 0x0C => some .imin
  | 0x0D => some .imax
  | 0x30 => some .fadd
  | 0x31 => some .fsub
  | 0x32 => some .fmul
  | 0x34 => some .fmin
  | 0x35 => some .fmax
  | 0x03 => some .imul
  | 0x19 => some .padd2
  | 0x1A => some .psub2
  | 0x3D => some .hadd2
  | 0x3E => some .hmul2
  | 0x23 => some .prom
  | 0x0E => some .iabs
  | 0x14 => some .clz
  | 0x04 => some .imad
  | 0x05 => some .imulh
  | 0x0F => some .icmp
  | 0x10 => some .isel
  | 0x11 => some .bfx
  | 0x12 => some .bfi
  | 0x13 => some .popc
  | 0x15 => some .iadc
  | 0x16 => some .shrr
  | 0x17 => some .isat
  | 0x1C => some .pack
  | 0x21 => some .ldi
  | 0x22 => some .ldih
  | 0x29 => some .cvt
  | 0x33 => some .ffma
  | 0x36 => some .fcmp
  | 0x37 => some .frnd
  | 0x38 => some .fscl
  | 0x39 => some .fgetx
  | 0x3A => some .fgetm
  | 0x3B => some .fclass
  | 0x3C => some .hfma2
  | 0x44 => some .rbits
  | 0x18 => some .pmac2
  | 0x1B => some .pmul2
  | 0x1D => some .dot4
  | 0x25 => some .wrth
  | 0x40 => some .vsld
  | 0x41 => some .vscan
  | 0x24 => some .rdth
  | 0x26 => some .vred
  | 0x27 => some .vote
  | 0x2A => some .aget
  | 0x2B => some .aset
  | _ => none

/-- The typed operation bytes (R92). -/
def typedBytes : List Nat :=
  [0x01, 0x02, 0x03, 0x04, 0x05, 0x06, 0x07, 0x08, 0x09, 0x0A, 0x0B, 0x0C, 0x0D, 0x0E, 0x0F, 0x10, 0x11, 0x12, 0x13, 0x14,
   0x15, 0x16, 0x17, 0x18, 0x19, 0x1A, 0x1B, 0x1C, 0x1D, 0x20, 0x21, 0x22, 0x23, 0x24, 0x25, 0x26, 0x27, 0x29, 0x2A, 0x2B,
   0x30, 0x31, 0x32, 0x33, 0x34, 0x35, 0x36, 0x37, 0x38, 0x39, 0x3A, 0x3B, 0x3C, 0x3D, 0x3E, 0x40, 0x41, 0x42, 0x44, 0x50,
   0x51, 0x52, 0x53, 0x54, 0x55, 0x56]

/-- The bytes of the class-X page (R93). -/
def xBytes : List Nat :=
  [0x00, 0x01, 0x02, 0x03, 0x04, 0x05, 0x06, 0x07, 0x10, 0x11, 0x12, 0x13, 0x14, 0x15, 0x18, 0x19, 0x1A, 0x1B, 0x1C, 0x1D,
   0x1E, 0x1F, 0x20, 0x21, 0x22, 0x23, 0x24, 0x25, 0x30, 0x31, 0x32, 0x33, 0x34, 0x40, 0x41, 0x42, 0x43, 0x44, 0x60, 0x61,
   0x62, 0x63, 0x64, 0x65, 0x66, 0x80, 0x81, 0x82, 0x83, 0x84, 0x85, 0x86, 0x87, 0x88, 0x89, 0x8A]

/-- The default short page: operation byte of each index (R75, R95). -/
def shortPage : List Nat :=
  [0x20, 0x01, 0x02, 0x09, 0x0A, 0x0B, 0x06, 0x07, 0x08, 0x0C, 0x0D, 0x30, 0x31, 0x32, 0x34, 0x35, 0x03, 0x19, 0x1A, 0x3D,
   0x3E, 0x23, 0x0E, 0x14]

/-- An opcode the default table assigns (R91, R93). -/
def assigned (op : Nat) : Bool :=
  if op < 0x300 then typedBytes.contains (op % 256) else op < 0x400 && xBytes.contains (op % 256)

/-! ## The decode table (R76) -/

/-- A decode table: none is the default table; otherwise its 1,088 entries in order. -/
abbrev Table := Option (List (BitVec 16))

/-- The opcode a word's opcode is mapped to, if the table assigns it. -/
def Table.opcode (t : Table) (i : Nat) : Option Nat :=
  match t with
  | none => if assigned i then some i else none
  | some l => if bit (l.getD i 0).toNat 15 then some (fld (l.getD i 0).toNat 0 10) else none

/-- The operation a short-page index is mapped to, if the table assigns it. -/
def Table.short (t : Table) (j : Nat) : Option SlotOp :=
  match t with
  | none => (shortPage[j]?).bind SlotOp.ofByte
  | some l =>
    if bit (l.getD (1024 + j) 0).toNat 15 then SlotOp.ofByte (fld (l.getD (1024 + j) 0).toNat 0 8) else none

/-! ## What the decoder refuses -/

/-- Why a word is no instruction. Every reason but the last raises cause 0x01 (R78). -/
inductive DecErr where
  /-- the opcode or short-page index is unassigned -/
  | unassigned
  /-- a reserved bit is set or a reserved code is used -/
  | reserved
  /-- PRED 4-6 outside class V, or PN = 1 with PRED = 7 (R59) -/
  | badGuard
  /-- LA ≠ 0 on a short-latency word (R68) -/
  | lookahead
  /-- an unused operand field is not 0x000 (R30) -/
  | unusedField
  /-- both slots of a paired word have one destination (R73) -/
  | equalDests
  /-- the operation does not admit the class (R91): cause 0x02; `trapSpecial` when a source names special 0x30-0x37 -/
  | classForbidden (trapSpecial : Bool)
  deriving DecidableEq, Repr

/-- The value, or the error. -/
def need {α : Type} (o : Option α) (e : DecErr) : Except DecErr α :=
  match o with
  | some a => .ok a
  | none => .error e

/-- Refuse unless `b`. -/
def check (b : Bool) (e : DecErr) : Except DecErr Unit := if b then .ok () else .error e

/-- Refuse unless the field is 0. -/
def need0 (n : Nat) (e : DecErr) : Except DecErr Unit := check (n == 0) e

/-- A source field that names a special of the trap frame, 0x30 to 0x37 (R33). -/
def trapSpecial (n : Nat) : Bool := decide (0x170 ≤ n) && decide (n < 0x178)

/-- The guard, of which predicates or flags 0 to `most - 1` may be named (R59). -/
def Fields.guard (f : Fields) (most : Nat) : Except DecErr Guard :=
  if f.pred = 7 then if f.pn = 1 then .error .badGuard else .ok .always
  else if f.pred < most then .ok (.on (Fin.ofNat 7 f.pred) (f.pn == 1))
  else .error .badGuard

/-- Guard of a class-V word: p0 to p6. -/
def Fields.guardV (f : Fields) : Except DecErr Guard := f.guard 7

/-- Guard of a word of class U, A or X: b0 to b3. -/
def Fields.guardS (f : Fields) : Except DecErr Guard := f.guard 4

/-- The head of a short-latency word, given its guard. -/
def Fields.head (f : Fields) (g : Except DecErr Guard) : Except DecErr Head := do
  let g ← g
  need0 f.la .lookahead
  .ok { nas := .ofCode f.nas, g := g }

def Fields.headV (f : Fields) : Except DecErr Head := f.head f.guardV

def Fields.headS (f : Fields) : Except DecErr Head := f.head f.guardS

/-- The head of a long-latency word whose slot stands in X[5:3] (R68). -/
def Fields.lhead (f : Fields) (g : Except DecErr Guard) : Except DecErr LHead := do
  let g ← g
  .ok { nas := .ofCode f.nas, g := g, la := Fin.ofNat 16 f.la, slot := Fin.ofNat 8 (fld f.x 3 3) }

def Fields.lheadV (f : Fields) : Except DecErr LHead := f.lhead f.guardV

def Fields.lheadS (f : Fields) : Except DecErr LHead := f.lhead f.guardS

/-- The head of a matrix word (R223). -/
def Fields.mhead (f : Fields) : Except DecErr MHead := do
  let g ← f.guardS
  .ok { nas := .ofCode f.nas, g := g, la := Fin.ofNat 16 f.la, slot := Fin.ofNat 8 (fld f.d 7 3),
        c1 := Fin.ofNat 4 (fld f.d 0 2), cm := BitVec.ofNat 4 (fld f.x 7 4) }

/-! ## Combinations that raise cause 0x01 -/

/-- R341: `.u` with eq or ne. -/
def okIcmp (u : Bool) (c : ICond) : Bool := !(u && (c == .eq || c == .ne))

/-- R339, R345: flags 4-7 do not exist. -/
def okFlag (n : Fin 8) : Bool := n.val < 4

/-- R384: a range needs SAT. -/
def okShrr (sat : Bool) (rng : ShrrRange) : Bool := sat || rng == .s32

/-- R368: U needs SAT. -/
def okPacked (u sat : Bool) : Bool := !u || sat

/-- R367: not both. -/
def okPack (sat hi : Bool) : Bool := !(sat && hi)

/-- R39, R119: CHK needs an affine source. -/
def okChk (chk : Bool) (a : Opnd) : Bool := !chk || a.isAffine

/-- The stochastic destination types of CVT (R311). -/
def CvtType.isSr : CvtType → Bool
  | .bf16sr | .f16sr => true
  | _ => false

/-- R311: the type pairs, the rounding field of a stochastic conversion and its B. -/
def okCvt (r : Rnd) (dt st : CvtType) (b : Opnd) : Bool :=
  !st.isSr && !(dt == st) && (if dt.isSr then st == .f32 && r == .rne else b == .v 0)

/-- R51: distance 0. -/
def okDist (n : Fin 32) : Bool := !(n.val == 0)

/-- R120, R348: PW only in class V and space G; no space P in class U. -/
def okLd (classV : Bool) (spc : Space) (pw : Bool) : Bool :=
  (classV || !(spc == .p)) && (!pw || (classV && spc == .g))

/-- R386: no sign-extending store types; no space P in class U. -/
def okSt (classV : Bool) (spc : Space) (ty : MemType) : Bool :=
  (classV || !(spc == .p)) && !(ty == .s8) && !(ty == .s16)

/-- R372: PFT has no space S. -/
def okPft (spc : Space) : Bool := !(spc == .s)

/-- R119: B is 0x000 outside space G. -/
def okBase (spc : Space) (b : Opnd) : Bool := spc == .g || b == .v 0

/-- R298: B is 0x000 in space S. -/
def okScrBase (scr : Bool) (b : Opnd) : Bool := !scr || b == .v 0

/-- R299: FADD is b32 only. -/
def okAtom (op : AtomOp) (wide : Bool) : Bool := !(op == .fadd && wide)

/-- R379: RED has no EXCH and no CAS. -/
def okRed (op : AtomOp) (wide : Bool) : Bool := okAtom op wide && !(op == .exch) && !(op == .cas)

/-- R126: typed-buffer accesses are b32, b64 or b128. -/
def okBufType (ty : MemType) : Bool := ty == .b32 || ty == .b64 || ty == .b128

/-- R71: a zero mask. -/
def okMask (m : BitVec 8) : Bool := !(m == 0)

/-- R182: q is not N, and p = q only for C. -/
def okXfence (p q : Path) : Bool := !(q == .n) && (!(p == q) || p == .c)

/-- R172: not CL with OS. -/
def okBind (os cl : Bool) : Bool := !(os && cl)

/-- R172: not ALL with a non-zero A or RS. -/
def okUnbind (a : Opnd) (rs all : Bool) : Bool := !all || (a == .v 0 && !rs)

/-- R391: A and B are 0x000 with ALL. -/
def okTlbi (a b : Opnd) (all : Bool) : Bool := !all || (a == .v 0 && b == .v 0)

/-- R153: no AXPBY request; SAT only with integer elements; B is 0x000 for ZERO. -/
def okGzreq (op : RowOp) (elt : Elt) (sat : Bool) (b : Opnd) : Bool :=
  !(op == .axpby) && (!sat || elt == .i32 || elt == .i16x2) && (!(op == .zero) || b == .v 0)

/-- R224: SRC needs RM. -/
def okSrc (src : Fin 4) (rm : Bool) : Bool := rm || src.val == 0

/-! ## The decoder -/

/-- Class V, by operation byte (R92). -/
def Fields.decodeV (f : Fields) (byte : Nat) : Except DecErr Instr :=
  match byte with
  | 0x01 => do
      let h ← f.headV; need0 (fld f.x 0 8) .reserved; need0 (fld f.x 9 2) .reserved
      .ok (.iaddV h (opnd f.d) (opnd f.a) (opnd f.b) (bit f.x 8))
  | 0x02 => do
      let h ← f.headV; need0 (fld f.x 0 8) .reserved; need0 (fld f.x 9 2) .reserved
      .ok (.isubV h (opnd f.d) (opnd f.a) (opnd f.b) (bit f.x 8))
  | 0x03 => do
      let h ← f.headV; need0 (fld f.x 0 8) .reserved; need0 (fld f.x 9 2) .reserved
      .ok (.imulV h (opnd f.d) (opnd f.a) (opnd f.b) (bit f.x 8))
  | 0x04 => do
      let h ← f.headV; need0 (fld f.x 1 7) .reserved; need0 (fld f.x 9 2) .reserved
      .ok (.imadV h (opnd f.d) (opnd f.a) (opnd f.b) (bit f.x 0) (bit f.x 8))
  | 0x05 => do
      let h ← f.headV; need0 (fld f.x 1 10) .reserved
      .ok (.imulhV h (opnd f.d) (opnd f.a) (opnd f.b) (bit f.x 0))
  | 0x06 => do
      let h ← f.headV; need0 (fld f.x 0 8) .reserved; need0 (fld f.x 9 2) .reserved
      .ok (.ishlV h (opnd f.d) (opnd f.a) (opnd f.b) (bit f.x 8))
  | 0x07 => do
      let h ← f.headV; need0 (fld f.x 0 11) .reserved; .ok (.ishrV h (opnd f.d) (opnd f.a) (opnd f.b))
  | 0x08 => do
      let h ← f.headV; need0 (fld f.x 0 11) .reserved; .ok (.israV h (opnd f.d) (opnd f.a) (opnd f.b))
  | 0x09 => do
      let h ← f.headV; need0 (fld f.x 0 11) .reserved; .ok (.iandV h (opnd f.d) (opnd f.a) (opnd f.b))
  | 0x0A => do
      let h ← f.headV; need0 (fld f.x 0 11) .reserved; .ok (.iorV h (opnd f.d) (opnd f.a) (opnd f.b))
  | 0x0B => do
      let h ← f.headV; need0 (fld f.x 0 11) .reserved; .ok (.ixorV h (opnd f.d) (opnd f.a) (opnd f.b))
  | 0x0C => do
      let h ← f.headV; need0 (fld f.x 1 10) .reserved
      .ok (.iminV h (opnd f.d) (opnd f.a) (opnd f.b) (bit f.x 0))
  | 0x0D => do
      let h ← f.headV; need0 (fld f.x 1 10) .reserved
      .ok (.imaxV h (opnd f.d) (opnd f.a) (opnd f.b) (bit f.x 0))
  | 0x0E => do
      let h ← f.headV; need0 f.b .unusedField; need0 (fld f.x 0 8) .reserved; need0 (fld f.x 9 2) .reserved
      .ok (.iabsV h (opnd f.d) (opnd f.a) (bit f.x 8))
  | 0x0F => do
      let h ← f.headV; need0 (fld f.x 4 7) .reserved; let c ← need (ICond.ofCode (fld f.x 0 3)) .reserved
      check (okIcmp (bit f.x 3) c) .reserved; .ok (.icmpV h (opnd f.d) (opnd f.a) (opnd f.b) (bit f.x 3) c)
  | 0x10 => do
      let h ← f.headV; need0 (fld f.x 4 7) .reserved
      .ok (.iselV h (opnd f.d) (opnd f.a) (opnd f.b) (bit f.x 3) (Fin.ofNat 8 (fld f.x 0 3)))
  | 0x11 => do
      let h ← f.headV; need0 (fld f.x 1 10) .reserved
      .ok (.bfxV h (opnd f.d) (opnd f.a) (opnd f.b) (bit f.x 0))
  | 0x12 => do
      let h ← f.headV; need0 (fld f.x 0 11) .reserved; .ok (.bfiV h (opnd f.d) (opnd f.a) (opnd f.b))
  | 0x13 => do
      let h ← f.headV; need0 f.b .unusedField; need0 (fld f.x 0 11) .reserved
      .ok (.popcV h (opnd f.d) (opnd f.a))
  | 0x14 => do
      let h ← f.headV; need0 f.b .unusedField; need0 (fld f.x 0 11) .reserved
      .ok (.clzV h (opnd f.d) (opnd f.a))
  | 0x15 => do
      let h ← f.headV; need0 (fld f.x 4 7) .reserved
      .ok (.iadcV h (opnd f.d) (opnd f.a) (opnd f.b) (bit f.x 3) (Fin.ofNat 8 (fld f.x 0 3)))
  | 0x16 => do
      let h ← f.headV; need0 (fld f.x 1 5) .reserved
      check (okShrr (bit f.x 8) (ShrrRange.ofCode (fld f.x 6 2))) .reserved
      .ok (.shrrV h (opnd f.d) (opnd f.a) (opnd f.b) (Rnd.ofCode (fld f.x 9 2)) (bit f.x 8) (ShrrRange.ofCode (fld f.x 6 2)) (bit f.x 0))
  | 0x17 => do
      let h ← f.headV; need0 f.b .unusedField; need0 (fld f.x 0 6) .reserved; need0 (fld f.x 8 3) .reserved
      .ok (.isatV h (opnd f.d) (opnd f.a) (SatRange.ofCode (fld f.x 6 2)))
  | 0x18 => do
      let h ← f.headV; need0 (fld f.x 2 9) .reserved
      .ok (.pmac2 h (opnd f.d) (opnd f.a) (opnd f.b) (bit f.x 1) (bit f.x 0))
  | 0x19 => do
      let h ← f.headV; need0 (fld f.x 1 7) .reserved; need0 (fld f.x 9 2) .reserved
      check (okPacked (bit f.x 0) (bit f.x 8)) .reserved
      .ok (.padd2V h (opnd f.d) (opnd f.a) (opnd f.b) (bit f.x 0) (bit f.x 8))
  | 0x1A => do
      let h ← f.headV; need0 (fld f.x 1 7) .reserved; need0 (fld f.x 9 2) .reserved
      check (okPacked (bit f.x 0) (bit f.x 8)) .reserved
      .ok (.psub2V h (opnd f.d) (opnd f.a) (opnd f.b) (bit f.x 0) (bit f.x 8))
  | 0x1B => do
      let h ← f.headV; need0 (fld f.x 1 7) .reserved; need0 (fld f.x 9 2) .reserved
      check (okPacked (bit f.x 0) (bit f.x 8)) .reserved
      .ok (.pmul2 h (opnd f.d) (opnd f.a) (opnd f.b) (bit f.x 0) (bit f.x 8))
  | 0x1C => do
      let h ← f.headV; need0 (fld f.x 1 7) .reserved; need0 (fld f.x 9 2) .reserved
      check (okPack (bit f.x 8) (bit f.x 0)) .reserved
      .ok (.packV h (opnd f.d) (opnd f.a) (opnd f.b) (bit f.x 8) (bit f.x 0))
  | 0x1D => do
      let h ← f.headV; need0 (fld f.x 2 6) .reserved; need0 (fld f.x 9 2) .reserved
      .ok (.dot4 h (opnd f.d) (opnd f.a) (opnd f.b) (bit f.x 1) (bit f.x 0) (bit f.x 8))
  | 0x20 => do
      let h ← f.headV; need0 f.b .unusedField; need0 (fld f.x 0 11) .reserved
      .ok (.movV h (opnd f.d) (opnd f.a))
  | 0x21 => do
      let h ← f.headV; need0 f.a .unusedField; .ok (.ldiV h (opnd f.d) (BitVec.ofNat 21 (f.b * 2048 + f.x)))
  | 0x22 => do
      let h ← f.headV; need0 f.a .unusedField; need0 (fld f.b 5 5) .reserved
      .ok (.ldihV h (opnd f.d) (BitVec.ofNat 16 (f.b * 2048 + f.x)))
  | 0x23 => do
      let h ← f.headV; need0 f.b .unusedField; need0 (fld f.x 1 10) .reserved
      check (okChk (bit f.x 0) (opnd f.a)) .reserved; .ok (.promV h (opnd f.d) (opnd f.a) (bit f.x 0))
  | 0x24 => do
      let _ ← f.headV; need0 (fld f.x 0 11) .reserved
      .error (.classForbidden (trapSpecial f.a || trapSpecial f.b))
  | 0x25 => do
      let h ← f.headV; need0 (fld f.x 0 11) .reserved; .ok (.wrth h (opnd f.d) (opnd f.a) (opnd f.b))
  | 0x26 => do
      let _ ← f.headV; need0 (fld f.x 0 8) .reserved; let _ ← need (ScanOp.ofCode (fld f.x 8 3)) .reserved
      .error (.classForbidden (trapSpecial f.a || trapSpecial f.b))
  | 0x27 => do
      let _ ← f.headV; need0 f.b .unusedField; need0 (fld f.x 3 8) .reserved
      .error (.classForbidden (trapSpecial f.a))
  | 0x29 => do
      let h ← f.headV; let dt ← need (CvtType.ofCode (fld f.x 4 4)) .reserved
      let st ← need (CvtType.ofCode (fld f.x 0 4)) .reserved
      check (okCvt (Rnd.ofCode (fld f.x 9 2)) dt st (opnd f.b)) .reserved
      .ok (.cvtV h (opnd f.d) (opnd f.a) (opnd f.b) (Rnd.ofCode (fld f.x 9 2)) (bit f.x 8) dt st)
  | 0x2A => do
      let _ ← f.headV; need0 f.b .unusedField; need0 (fld f.x 2 9) .reserved
      let _ ← need (AgetPart.ofCode (fld f.x 0 2)) .reserved; .error (.classForbidden (trapSpecial f.a))
  | 0x2B => do
      let _ ← f.headV; need0 (fld f.x 0 11) .reserved
      .error (.classForbidden (trapSpecial f.a || trapSpecial f.b))
  | 0x30 => do
      let h ← f.headV; need0 (fld f.x 0 9) .reserved
      .ok (.faddV h (opnd f.d) (opnd f.a) (opnd f.b) (Rnd.ofCode (fld f.x 9 2)))
  | 0x31 => do
      let h ← f.headV; need0 (fld f.x 0 9) .reserved
      .ok (.fsubV h (opnd f.d) (opnd f.a) (opnd f.b) (Rnd.ofCode (fld f.x 9 2)))
  | 0x32 => do
      let h ← f.headV; need0 (fld f.x 0 9) .reserved
      .ok (.fmulV h (opnd f.d) (opnd f.a) (opnd f.b) (Rnd.ofCode (fld f.x 9 2)))
  | 0x33 => do
      let h ← f.headV; need0 (fld f.x 1 8) .reserved
      .ok (.ffmaV h (opnd f.d) (opnd f.a) (opnd f.b) (Rnd.ofCode (fld f.x 9 2)) (bit f.x 0))
  | 0x34 => do
      let h ← f.headV; need0 (fld f.x 0 11) .reserved; .ok (.fminV h (opnd f.d) (opnd f.a) (opnd f.b))
  | 0x35 => do
      let h ← f.headV; need0 (fld f.x 0 11) .reserved; .ok (.fmaxV h (opnd f.d) (opnd f.a) (opnd f.b))
  | 0x36 => do
      let h ← f.headV; need0 (fld f.x 3 8) .reserved
      .ok (.fcmpV h (opnd f.d) (opnd f.a) (opnd f.b) (FCond.ofCode (fld f.x 0 3)))
  | 0x37 => do
      let h ← f.headV; need0 f.b .unusedField; need0 (fld f.x 0 9) .reserved
      .ok (.frndV h (opnd f.d) (opnd f.a) (Rnd.ofCode (fld f.x 9 2)))
  | 0x38 => do
      let h ← f.headV; need0 (fld f.x 0 9) .reserved
      .ok (.fsclV h (opnd f.d) (opnd f.a) (opnd f.b) (Rnd.ofCode (fld f.x 9 2)))
  | 0x39 => do
      let h ← f.headV; need0 f.b .unusedField; need0 (fld f.x 0 11) .reserved
      .ok (.fgetxV h (opnd f.d) (opnd f.a))
  | 0x3A => do
      let h ← f.headV; need0 f.b .unusedField; need0 (fld f.x 0 11) .reserved
      .ok (.fgetmV h (opnd f.d) (opnd f.a))
  | 0x3B => do
      let h ← f.headV; need0 f.b .unusedField; need0 (fld f.x 0 11) .reserved
      .ok (.fclassV h (opnd f.d) (opnd f.a))
  | 0x3C => do
      let h ← f.headV; need0 (fld f.x 0 7) .reserved; need0 (fld f.x 8 1) .reserved
      .ok (.hfma2V h (opnd f.d) (opnd f.a) (opnd f.b) (Rnd.ofCode (fld f.x 9 2)) (bit f.x 7))
  | 0x3D => do
      let h ← f.headV; need0 (fld f.x 0 7) .reserved; need0 (fld f.x 8 1) .reserved
      .ok (.hadd2V h (opnd f.d) (opnd f.a) (opnd f.b) (Rnd.ofCode (fld f.x 9 2)) (bit f.x 7))
  | 0x3E => do
      let h ← f.headV; need0 (fld f.x 0 7) .reserved; need0 (fld f.x 8 1) .reserved
      .ok (.hmul2V h (opnd f.d) (opnd f.a) (opnd f.b) (Rnd.ofCode (fld f.x 9 2)) (bit f.x 7))
  | 0x40 => do
      let h ← f.headV; need0 (fld f.x 7 4) .reserved; check (okDist (Fin.ofNat 32 (fld f.x 0 5))) .reserved
      .ok (.vsld h (opnd f.d) (opnd f.a) (opnd f.b) (bit f.x 6) (bit f.x 5) (Fin.ofNat 32 (fld f.x 0 5)))
  | 0x41 => do
      let h ← f.headV; need0 (fld f.x 0 7) .reserved; let op ← need (ScanOp.ofCode (fld f.x 8 3)) .reserved
      .ok (.vscan h (opnd f.d) (opnd f.a) (opnd f.b) op (bit f.x 7))
  | 0x42 => do
      let h ← f.lheadV; need0 (fld f.x 0 3) .reserved; need0 (fld f.x 6 5) .reserved
      .ok (.vperm h (opnd f.d) (opnd f.a) (opnd f.b))
  | 0x44 => do
      let h ← f.headV; need0 (fld f.x 0 11) .reserved; .ok (.rbitsV h (opnd f.d) (opnd f.a) (opnd f.b))
  | 0x50 => do
      let h ← f.lheadV; let spc ← need (Space.ofCode (fld f.x 9 2)) .reserved
      let ty ← need (MemType.ofCode (fld f.x 6 3)) .reserved; check (okLd true spc (bit f.x 2)) .reserved
      check (okBase spc (opnd f.b)) .reserved; check (okChk (bit f.x 0) (opnd f.a)) .reserved
      .ok (.ldV h (opnd f.d) (opnd f.a) (opnd f.b) spc ty (bit f.x 2) (bit f.x 1) (bit f.x 0))
  | 0x51 => do
      let h ← f.lheadV; need0 (fld f.x 2 1) .reserved; let spc ← need (Space.ofCode (fld f.x 9 2)) .reserved
      let ty ← need (MemType.ofCode (fld f.x 6 3)) .reserved; check (okSt true spc ty) .reserved
      check (okBase spc (opnd f.b)) .reserved; check (okChk (bit f.x 0) (opnd f.a)) .reserved
      .ok (.stV h (opnd f.d) (opnd f.a) (opnd f.b) spc ty (bit f.x 1) (bit f.x 0))
  | 0x52 => do
      let h ← f.lheadV; need0 (fld f.x 1 1) .reserved; let op ← need (AtomOp.ofCode (fld f.x 6 4)) .reserved
      check (okAtom op (bit f.x 2)) .reserved; check (okScrBase (bit f.x 10) (opnd f.b)) .reserved
      check (okChk (bit f.x 0) (opnd f.a)) .reserved
      .ok (.atomV h (opnd f.d) (opnd f.a) (opnd f.b) (bit f.x 10) op (bit f.x 2) (bit f.x 0))
  | 0x53 => do
      let h ← f.lheadV; need0 (fld f.x 1 1) .reserved; let op ← need (AtomOp.ofCode (fld f.x 6 4)) .reserved
      check (okRed op (bit f.x 2)) .reserved; check (okScrBase (bit f.x 10) (opnd f.b)) .reserved
      check (okChk (bit f.x 0) (opnd f.a)) .reserved
      .ok (.redV h (opnd f.d) (opnd f.a) (opnd f.b) (bit f.x 10) op (bit f.x 2) (bit f.x 0))
  | 0x54 => do
      let h ← f.lheadV; need0 f.d .unusedField; need0 (fld f.x 2 1) .reserved
      let spc ← need (Space.ofCode (fld f.x 9 2)) .reserved
      let ty ← need (MemType.ofCode (fld f.x 6 3)) .reserved; check (okPft spc) .reserved
      check (okBase spc (opnd f.b)) .reserved; check (okChk (bit f.x 0) (opnd f.a)) .reserved
      .ok (.pftV h (opnd f.a) (opnd f.b) spc ty (bit f.x 1) (bit f.x 0))
  | 0x55 => do
      let h ← f.lheadV; need0 f.b .unusedField; need0 (fld f.x 0 3) .reserved
      let buf ← need (BufName.ofCode (fld f.x 9 2)) .reserved
      let ty ← need (MemType.ofCode (fld f.x 6 3)) .reserved; check (okBufType ty) .reserved
      .ok (.bld h (opnd f.d) (opnd f.a) buf ty)
  | 0x56 => do
      let h ← f.lheadV; need0 f.b .unusedField; need0 (fld f.x 0 3) .reserved
      let buf ← need (BufName.ofCode (fld f.x 9 2)) .reserved
      let ty ← need (MemType.ofCode (fld f.x 6 3)) .reserved; check (okBufType ty) .reserved
      .ok (.bst h (opnd f.d) (opnd f.a) buf ty)
  | _ => .error .unassigned

/-- Class U, by operation byte (R92). -/
def Fields.decodeU (f : Fields) (byte : Nat) : Except DecErr Instr :=
  match byte with
  | 0x01 => do
      let h ← f.headS; need0 (fld f.x 0 8) .reserved; need0 (fld f.x 9 2) .reserved
      .ok (.iaddU h (opnd f.d) (opnd f.a) (opnd f.b) (bit f.x 8))
  | 0x02 => do
      let h ← f.headS; need0 (fld f.x 0 8) .reserved; need0 (fld f.x 9 2) .reserved
      .ok (.isubU h (opnd f.d) (opnd f.a) (opnd f.b) (bit f.x 8))
  | 0x03 => do
      let h ← f.headS; need0 (fld f.x 0 8) .reserved; need0 (fld f.x 9 2) .reserved
      .ok (.imulU h (opnd f.d) (opnd f.a) (opnd f.b) (bit f.x 8))
  | 0x04 => do
      let h ← f.headS; need0 (fld f.x 1 7) .reserved; need0 (fld f.x 9 2) .reserved
      .ok (.imadU h (opnd f.d) (opnd f.a) (opnd f.b) (bit f.x 0) (bit f.x 8))
  | 0x05 => do
      let h ← f.headS; need0 (fld f.x 1 10) .reserved
      .ok (.imulhU h (opnd f.d) (opnd f.a) (opnd f.b) (bit f.x 0))
  | 0x06 => do
      let h ← f.headS; need0 (fld f.x 0 8) .reserved; need0 (fld f.x 9 2) .reserved
      .ok (.ishlU h (opnd f.d) (opnd f.a) (opnd f.b) (bit f.x 8))
  | 0x07 => do
      let h ← f.headS; need0 (fld f.x 0 11) .reserved; .ok (.ishrU h (opnd f.d) (opnd f.a) (opnd f.b))
  | 0x08 => do
      let h ← f.headS; need0 (fld f.x 0 11) .reserved; .ok (.israU h (opnd f.d) (opnd f.a) (opnd f.b))
  | 0x09 => do
      let h ← f.headS; need0 (fld f.x 0 11) .reserved; .ok (.iandU h (opnd f.d) (opnd f.a) (opnd f.b))
  | 0x0A => do
      let h ← f.headS; need0 (fld f.x 0 11) .reserved; .ok (.iorU h (opnd f.d) (opnd f.a) (opnd f.b))
  | 0x0B => do
      let h ← f.headS; need0 (fld f.x 0 11) .reserved; .ok (.ixorU h (opnd f.d) (opnd f.a) (opnd f.b))
  | 0x0C => do
      let h ← f.headS; need0 (fld f.x 1 10) .reserved
      .ok (.iminU h (opnd f.d) (opnd f.a) (opnd f.b) (bit f.x 0))
  | 0x0D => do
      let h ← f.headS; need0 (fld f.x 1 10) .reserved
      .ok (.imaxU h (opnd f.d) (opnd f.a) (opnd f.b) (bit f.x 0))
  | 0x0E => do
      let h ← f.headS; need0 f.b .unusedField; need0 (fld f.x 0 8) .reserved; need0 (fld f.x 9 2) .reserved
      .ok (.iabsU h (opnd f.d) (opnd f.a) (bit f.x 8))
  | 0x0F => do
      let h ← f.headS; need0 (fld f.x 4 7) .reserved; let c ← need (ICond.ofCode (fld f.x 0 3)) .reserved
      check (okIcmp (bit f.x 3) c) .reserved; .ok (.icmpU h (opnd f.d) (opnd f.a) (opnd f.b) (bit f.x 3) c)
  | 0x10 => do
      let h ← f.headS; need0 (fld f.x 4 7) .reserved; check (okFlag (Fin.ofNat 8 (fld f.x 0 3))) .reserved
      .ok (.iselU h (opnd f.d) (opnd f.a) (opnd f.b) (bit f.x 3) (Fin.ofNat 8 (fld f.x 0 3)))
  | 0x11 => do
      let h ← f.headS; need0 (fld f.x 1 10) .reserved
      .ok (.bfxU h (opnd f.d) (opnd f.a) (opnd f.b) (bit f.x 0))
  | 0x12 => do
      let h ← f.headS; need0 (fld f.x 0 11) .reserved; .ok (.bfiU h (opnd f.d) (opnd f.a) (opnd f.b))
  | 0x13 => do
      let h ← f.headS; need0 f.b .unusedField; need0 (fld f.x 0 11) .reserved
      .ok (.popcU h (opnd f.d) (opnd f.a))
  | 0x14 => do
      let h ← f.headS; need0 f.b .unusedField; need0 (fld f.x 0 11) .reserved
      .ok (.clzU h (opnd f.d) (opnd f.a))
  | 0x15 => do
      let h ← f.headS; need0 (fld f.x 4 7) .reserved; check (okFlag (Fin.ofNat 8 (fld f.x 0 3))) .reserved
      .ok (.iadcU h (opnd f.d) (opnd f.a) (opnd f.b) (bit f.x 3) (Fin.ofNat 8 (fld f.x 0 3)))
  | 0x16 => do
      let h ← f.headS; need0 (fld f.x 1 5) .reserved
      check (okShrr (bit f.x 8) (ShrrRange.ofCode (fld f.x 6 2))) .reserved
      .ok (.shrrU h (opnd f.d) (opnd f.a) (opnd f.b) (Rnd.ofCode (fld f.x 9 2)) (bit f.x 8) (ShrrRange.ofCode (fld f.x 6 2)) (bit f.x 0))
  | 0x17 => do
      let h ← f.headS; need0 f.b .unusedField; need0 (fld f.x 0 6) .reserved; need0 (fld f.x 8 3) .reserved
      .ok (.isatU h (opnd f.d) (opnd f.a) (SatRange.ofCode (fld f.x 6 2)))
  | 0x18 => do
      let _ ← f.headS; need0 (fld f.x 2 9) .reserved
      .error (.classForbidden (trapSpecial f.d || trapSpecial f.a || trapSpecial f.b))
  | 0x19 => do
      let h ← f.headS; need0 (fld f.x 1 7) .reserved; need0 (fld f.x 9 2) .reserved
      check (okPacked (bit f.x 0) (bit f.x 8)) .reserved
      .ok (.padd2U h (opnd f.d) (opnd f.a) (opnd f.b) (bit f.x 0) (bit f.x 8))
  | 0x1A => do
      let h ← f.headS; need0 (fld f.x 1 7) .reserved; need0 (fld f.x 9 2) .reserved
      check (okPacked (bit f.x 0) (bit f.x 8)) .reserved
      .ok (.psub2U h (opnd f.d) (opnd f.a) (opnd f.b) (bit f.x 0) (bit f.x 8))
  | 0x1B => do
      let _ ← f.headS; need0 (fld f.x 1 7) .reserved; need0 (fld f.x 9 2) .reserved
      check (okPacked (bit f.x 0) (bit f.x 8)) .reserved
      .error (.classForbidden (trapSpecial f.a || trapSpecial f.b))
  | 0x1C => do
      let h ← f.headS; need0 (fld f.x 1 7) .reserved; need0 (fld f.x 9 2) .reserved
      check (okPack (bit f.x 8) (bit f.x 0)) .reserved
      .ok (.packU h (opnd f.d) (opnd f.a) (opnd f.b) (bit f.x 8) (bit f.x 0))
  | 0x1D => do
      let _ ← f.headS; need0 (fld f.x 2 6) .reserved; need0 (fld f.x 9 2) .reserved
      .error (.classForbidden (trapSpecial f.d || trapSpecial f.a || trapSpecial f.b))
  | 0x20 => do
      let h ← f.headS; need0 f.b .unusedField; need0 (fld f.x 0 11) .reserved
      .ok (.movU h (opnd f.d) (opnd f.a))
  | 0x21 => do
      let h ← f.headS; need0 f.a .unusedField; .ok (.ldiU h (opnd f.d) (BitVec.ofNat 21 (f.b * 2048 + f.x)))
  | 0x22 => do
      let h ← f.headS; need0 f.a .unusedField; need0 (fld f.b 5 5) .reserved
      .ok (.ldihU h (opnd f.d) (BitVec.ofNat 16 (f.b * 2048 + f.x)))
  | 0x23 => do
      let _ ← f.headS; need0 f.b .unusedField; need0 (fld f.x 1 10) .reserved
      check (okChk (bit f.x 0) (opnd f.a)) .reserved; .error (.classForbidden (trapSpecial f.a))
  | 0x24 => do
      let h ← f.headS; need0 (fld f.x 0 11) .reserved; .ok (.rdth h (opnd f.d) (opnd f.a) (opnd f.b))
  | 0x25 => do
      let _ ← f.headS; need0 (fld f.x 0 11) .reserved
      .error (.classForbidden (trapSpecial f.a || trapSpecial f.b))
  | 0x26 => do
      let h ← f.headS; need0 (fld f.x 0 8) .reserved; let op ← need (ScanOp.ofCode (fld f.x 8 3)) .reserved
      .ok (.vred h (opnd f.d) (opnd f.a) (opnd f.b) op)
  | 0x27 => do
      let h ← f.headS; need0 f.b .unusedField; need0 (fld f.x 3 8) .reserved
      .ok (.vote h (opnd f.d) (opnd f.a) (VoteOp.ofCode (fld f.x 0 2)) (bit f.x 2))
  | 0x29 => do
      let h ← f.headS; let dt ← need (CvtType.ofCode (fld f.x 4 4)) .reserved
      let st ← need (CvtType.ofCode (fld f.x 0 4)) .reserved
      check (okCvt (Rnd.ofCode (fld f.x 9 2)) dt st (opnd f.b)) .reserved
      .ok (.cvtU h (opnd f.d) (opnd f.a) (opnd f.b) (Rnd.ofCode (fld f.x 9 2)) (bit f.x 8) dt st)
  | 0x2A => do
      let h ← f.headS; need0 f.b .unusedField; need0 (fld f.x 2 9) .reserved
      let part ← need (AgetPart.ofCode (fld f.x 0 2)) .reserved; .ok (.aget h (opnd f.d) (opnd f.a) part)
  | 0x2B => do
      let _ ← f.headS; need0 (fld f.x 0 11) .reserved
      .error (.classForbidden (trapSpecial f.a || trapSpecial f.b))
  | 0x30 => do
      let h ← f.headS; need0 (fld f.x 0 9) .reserved
      .ok (.faddU h (opnd f.d) (opnd f.a) (opnd f.b) (Rnd.ofCode (fld f.x 9 2)))
  | 0x31 => do
      let h ← f.headS; need0 (fld f.x 0 9) .reserved
      .ok (.fsubU h (opnd f.d) (opnd f.a) (opnd f.b) (Rnd.ofCode (fld f.x 9 2)))
  | 0x32 => do
      let h ← f.headS; need0 (fld f.x 0 9) .reserved
      .ok (.fmulU h (opnd f.d) (opnd f.a) (opnd f.b) (Rnd.ofCode (fld f.x 9 2)))
  | 0x33 => do
      let h ← f.headS; need0 (fld f.x 1 8) .reserved
      .ok (.ffmaU h (opnd f.d) (opnd f.a) (opnd f.b) (Rnd.ofCode (fld f.x 9 2)) (bit f.x 0))
  | 0x34 => do
      let h ← f.headS; need0 (fld f.x 0 11) .reserved; .ok (.fminU h (opnd f.d) (opnd f.a) (opnd f.b))
  | 0x35 => do
      let h ← f.headS; need0 (fld f.x 0 11) .reserved; .ok (.fmaxU h (opnd f.d) (opnd f.a) (opnd f.b))
  | 0x36 => do
      let h ← f.headS; need0 (fld f.x 3 8) .reserved
      .ok (.fcmpU h (opnd f.d) (opnd f.a) (opnd f.b) (FCond.ofCode (fld f.x 0 3)))
  | 0x37 => do
      let h ← f.headS; need0 f.b .unusedField; need0 (fld f.x 0 9) .reserved
      .ok (.frndU h (opnd f.d) (opnd f.a) (Rnd.ofCode (fld f.x 9 2)))
  | 0x38 => do
      let h ← f.headS; need0 (fld f.x 0 9) .reserved
      .ok (.fsclU h (opnd f.d) (opnd f.a) (opnd f.b) (Rnd.ofCode (fld f.x 9 2)))
  | 0x39 => do
      let h ← f.headS; need0 f.b .unusedField; need0 (fld f.x 0 11) .reserved
      .ok (.fgetxU h (opnd f.d) (opnd f.a))
  | 0x3A => do
      let h ← f.headS; need0 f.b .unusedField; need0 (fld f.x 0 11) .reserved
      .ok (.fgetmU h (opnd f.d) (opnd f.a))
  | 0x3B => do
      let h ← f.headS; need0 f.b .unusedField; need0 (fld f.x 0 11) .reserved
      .ok (.fclassU h (opnd f.d) (opnd f.a))
  | 0x3C => do
      let h ← f.headS; need0 (fld f.x 0 7) .reserved; need0 (fld f.x 8 1) .reserved
      .ok (.hfma2U h (opnd f.d) (opnd f.a) (opnd f.b) (Rnd.ofCode (fld f.x 9 2)) (bit f.x 7))
  | 0x3D => do
      let h ← f.headS; need0 (fld f.x 0 7) .reserved; need0 (fld f.x 8 1) .reserved
      .ok (.hadd2U h (opnd f.d) (opnd f.a) (opnd f.b) (Rnd.ofCode (fld f.x 9 2)) (bit f.x 7))
  | 0x3E => do
      let h ← f.headS; need0 (fld f.x 0 7) .reserved; need0 (fld f.x 8 1) .reserved
      .ok (.hmul2U h (opnd f.d) (opnd f.a) (opnd f.b) (Rnd.ofCode (fld f.x 9 2)) (bit f.x 7))
  | 0x40 => do
      let _ ← f.headS; need0 (fld f.x 7 4) .reserved; check (okDist (Fin.ofNat 32 (fld f.x 0 5))) .reserved
      .error (.classForbidden (trapSpecial f.a || trapSpecial f.b))
  | 0x41 => do
      let _ ← f.headS; need0 (fld f.x 0 7) .reserved; let _ ← need (ScanOp.ofCode (fld f.x 8 3)) .reserved
      .error (.classForbidden (trapSpecial f.a || trapSpecial f.b))
  | 0x42 => do
      let _ ← f.guardS; need0 (fld f.x 0 3) .reserved; need0 (fld f.x 6 5) .reserved
      .error (.classForbidden (trapSpecial f.a || trapSpecial f.b))
  | 0x44 => do
      let h ← f.headS; need0 (fld f.x 0 11) .reserved; .ok (.rbitsU h (opnd f.d) (opnd f.a) (opnd f.b))
  | 0x50 => do
      let h ← f.lheadS; let spc ← need (Space.ofCode (fld f.x 9 2)) .reserved
      let ty ← need (MemType.ofCode (fld f.x 6 3)) .reserved; check (okLd false spc (bit f.x 2)) .reserved
      check (okBase spc (opnd f.b)) .reserved; check (okChk (bit f.x 0) (opnd f.a)) .reserved
      .ok (.ldU h (opnd f.d) (opnd f.a) (opnd f.b) spc ty (bit f.x 2) (bit f.x 1) (bit f.x 0))
  | 0x51 => do
      let h ← f.lheadS; need0 (fld f.x 2 1) .reserved; let spc ← need (Space.ofCode (fld f.x 9 2)) .reserved
      let ty ← need (MemType.ofCode (fld f.x 6 3)) .reserved; check (okSt false spc ty) .reserved
      check (okBase spc (opnd f.b)) .reserved; check (okChk (bit f.x 0) (opnd f.a)) .reserved
      .ok (.stU h (opnd f.d) (opnd f.a) (opnd f.b) spc ty (bit f.x 1) (bit f.x 0))
  | 0x52 => do
      let h ← f.lheadS; need0 (fld f.x 1 1) .reserved; let op ← need (AtomOp.ofCode (fld f.x 6 4)) .reserved
      check (okAtom op (bit f.x 2)) .reserved; check (okScrBase (bit f.x 10) (opnd f.b)) .reserved
      check (okChk (bit f.x 0) (opnd f.a)) .reserved
      .ok (.atomU h (opnd f.d) (opnd f.a) (opnd f.b) (bit f.x 10) op (bit f.x 2) (bit f.x 0))
  | 0x53 => do
      let h ← f.lheadS; need0 (fld f.x 1 1) .reserved; let op ← need (AtomOp.ofCode (fld f.x 6 4)) .reserved
      check (okRed op (bit f.x 2)) .reserved; check (okScrBase (bit f.x 10) (opnd f.b)) .reserved
      check (okChk (bit f.x 0) (opnd f.a)) .reserved
      .ok (.redU h (opnd f.d) (opnd f.a) (opnd f.b) (bit f.x 10) op (bit f.x 2) (bit f.x 0))
  | 0x54 => do
      let h ← f.lheadS; need0 f.d .unusedField; need0 (fld f.x 2 1) .reserved
      let spc ← need (Space.ofCode (fld f.x 9 2)) .reserved
      let ty ← need (MemType.ofCode (fld f.x 6 3)) .reserved; check (okPft spc) .reserved
      check (okBase spc (opnd f.b)) .reserved; check (okChk (bit f.x 0) (opnd f.a)) .reserved
      .ok (.pftU h (opnd f.a) (opnd f.b) spc ty (bit f.x 1) (bit f.x 0))
  | 0x55 => do
      let _ ← f.guardS; need0 f.b .unusedField; need0 (fld f.x 0 3) .reserved
      let _ ← need (BufName.ofCode (fld f.x 9 2)) .reserved
      let ty ← need (MemType.ofCode (fld f.x 6 3)) .reserved; check (okBufType ty) .reserved
      .error (.classForbidden (trapSpecial f.a))
  | 0x56 => do
      let _ ← f.guardS; need0 f.b .unusedField; need0 (fld f.x 0 3) .reserved
      let _ ← need (BufName.ofCode (fld f.x 9 2)) .reserved
      let ty ← need (MemType.ofCode (fld f.x 6 3)) .reserved; check (okBufType ty) .reserved
      .error (.classForbidden (trapSpecial f.d || trapSpecial f.a))
  | _ => .error .unassigned

/-- Class A, by operation byte (R36, R92). -/
def Fields.decodeA (f : Fields) (byte : Nat) : Except DecErr Instr :=
  match byte with
  | 0x01 => do
      let h ← f.headS; need0 (fld f.x 0 11) .reserved; .ok (.iaddA h (opnd f.d) (opnd f.a) (opnd f.b))
  | 0x02 => do
      let h ← f.headS; need0 (fld f.x 0 11) .reserved; .ok (.isubA h (opnd f.d) (opnd f.a) (opnd f.b))
  | 0x03 => do
      let h ← f.headS; need0 (fld f.x 0 11) .reserved; .ok (.imulA h (opnd f.d) (opnd f.a) (opnd f.b))
  | 0x04 => do
      let _ ← f.headS; need0 (fld f.x 0 11) .reserved
      .error (.classForbidden (trapSpecial f.d || trapSpecial f.a || trapSpecial f.b))
  | 0x05 => do
      let _ ← f.headS; need0 (fld f.x 0 11) .reserved
      .error (.classForbidden (trapSpecial f.a || trapSpecial f.b))
  | 0x06 => do
      let h ← f.headS; need0 (fld f.x 0 11) .reserved; .ok (.ishlA h (opnd f.d) (opnd f.a) (opnd f.b))
  | 0x07 => do
      let _ ← f.headS; need0 (fld f.x 0 11) .reserved
      .error (.classForbidden (trapSpecial f.a || trapSpecial f.b))
  | 0x08 => do
      let _ ← f.headS; need0 (fld f.x 0 11) .reserved
      .error (.classForbidden (trapSpecial f.a || trapSpecial f.b))
  | 0x09 => do
      let _ ← f.headS; need0 (fld f.x 0 11) .reserved
      .error (.classForbidden (trapSpecial f.a || trapSpecial f.b))
  | 0x0A => do
      let _ ← f.headS; need0 (fld f.x 0 11) .reserved
      .error (.classForbidden (trapSpecial f.a || trapSpecial f.b))
  | 0x0B => do
      let _ ← f.headS; need0 (fld f.x 0 11) .reserved
      .error (.classForbidden (trapSpecial f.a || trapSpecial f.b))
  | 0x0C => do
      let _ ← f.headS; need0 (fld f.x 0 11) .reserved
      .error (.classForbidden (trapSpecial f.a || trapSpecial f.b))
  | 0x0D => do
      let _ ← f.headS; need0 (fld f.x 0 11) .reserved
      .error (.classForbidden (trapSpecial f.a || trapSpecial f.b))
  | 0x0E => do
      let _ ← f.headS; need0 f.b .unusedField; need0 (fld f.x 0 11) .reserved
      .error (.classForbidden (trapSpecial f.a))
  | 0x0F => do
      let _ ← f.headS; need0 (fld f.x 0 11) .reserved
      .error (.classForbidden (trapSpecial f.a || trapSpecial f.b))
  | 0x10 => do
      let _ ← f.headS; need0 (fld f.x 0 11) .reserved
      .error (.classForbidden (trapSpecial f.a || trapSpecial f.b))
  | 0x11 => do
      let _ ← f.headS; need0 (fld f.x 0 11) .reserved
      .error (.classForbidden (trapSpecial f.a || trapSpecial f.b))
  | 0x12 => do
      let _ ← f.headS; need0 (fld f.x 0 11) .reserved
      .error (.classForbidden (trapSpecial f.d || trapSpecial f.a || trapSpecial f.b))
  | 0x13 => do
      let _ ← f.headS; need0 f.b .unusedField; need0 (fld f.x 0 11) .reserved
      .error (.classForbidden (trapSpecial f.a))
  | 0x14 => do
      let _ ← f.headS; need0 f.b .unusedField; need0 (fld f.x 0 11) .reserved
      .error (.classForbidden (trapSpecial f.a))
  | 0x15 => do
      let _ ← f.headS; need0 (fld f.x 0 11) .reserved
      .error (.classForbidden (trapSpecial f.a || trapSpecial f.b))
  | 0x16 => do
      let _ ← f.headS; need0 (fld f.x 0 11) .reserved
      .error (.classForbidden (trapSpecial f.a || trapSpecial f.b))
  | 0x17 => do
      let _ ← f.headS; need0 f.b .unusedField; need0 (fld f.x 0 11) .reserved
      .error (.classForbidden (trapSpecial f.a))
  | 0x18 => do
      let _ ← f.headS; need0 (fld f.x 0 11) .reserved
      .error (.classForbidden (trapSpecial f.d || trapSpecial f.a || trapSpecial f.b))
  | 0x19 => do
      let _ ← f.headS; need0 (fld f.x 0 11) .reserved
      .error (.classForbidden (trapSpecial f.a || trapSpecial f.b))
  | 0x1A => do
      let _ ← f.headS; need0 (fld f.x 0 11) .reserved
      .error (.classForbidden (trapSpecial f.a || trapSpecial f.b))
  | 0x1B => do
      let _ ← f.headS; need0 (fld f.x 0 11) .reserved
      .error (.classForbidden (trapSpecial f.a || trapSpecial f.b))
  | 0x1C => do
      let _ ← f.headS; need0 (fld f.x 0 11) .reserved
      .error (.classForbidden (trapSpecial f.a || trapSpecial f.b))
  | 0x1D => do
      let _ ← f.headS; need0 (fld f.x 0 11) .reserved
      .error (.classForbidden (trapSpecial f.d || trapSpecial f.a || trapSpecial f.b))
  | 0x20 => do
      let h ← f.headS; need0 f.b .unusedField; need0 (fld f.x 0 11) .reserved
      .ok (.movA h (opnd f.d) (opnd f.a))
  | 0x21 => do
      let h ← f.headS; need0 f.a .unusedField; .ok (.ldiA h (opnd f.d) (BitVec.ofNat 21 (f.b * 2048 + f.x)))
  | 0x22 => do
      let _ ← f.headS; need0 f.a .unusedField; need0 (fld f.b 5 5) .reserved
      .error (.classForbidden (trapSpecial f.d))
  | 0x23 => do
      let h ← f.headS; need0 f.b .unusedField; need0 (fld f.x 0 11) .reserved
      .ok (.promA h (opnd f.d) (opnd f.a))
  | 0x24 => do
      let _ ← f.headS; need0 (fld f.x 0 11) .reserved
      .error (.classForbidden (trapSpecial f.a || trapSpecial f.b))
  | 0x25 => do
      let _ ← f.headS; need0 (fld f.x 0 11) .reserved
      .error (.classForbidden (trapSpecial f.a || trapSpecial f.b))
  | 0x26 => do
      let _ ← f.headS; need0 (fld f.x 0 11) .reserved
      .error (.classForbidden (trapSpecial f.a || trapSpecial f.b))
  | 0x27 => do
      let _ ← f.headS; need0 f.b .unusedField; need0 (fld f.x 0 11) .reserved
      .error (.classForbidden (trapSpecial f.a))
  | 0x29 => do
      let _ ← f.headS; need0 (fld f.x 0 11) .reserved
      .error (.classForbidden (trapSpecial f.a || trapSpecial f.b))
  | 0x2A => do
      let _ ← f.headS; need0 f.b .unusedField; need0 (fld f.x 0 11) .reserved
      .error (.classForbidden (trapSpecial f.a))
  | 0x2B => do
      let h ← f.headS; need0 (fld f.x 0 11) .reserved; .ok (.aset h (opnd f.d) (opnd f.a) (opnd f.b))
  | 0x30 => do
      let _ ← f.headS; need0 (fld f.x 0 11) .reserved
      .error (.classForbidden (trapSpecial f.a || trapSpecial f.b))
  | 0x31 => do
      let _ ← f.headS; need0 (fld f.x 0 11) .reserved
      .error (.classForbidden (trapSpecial f.a || trapSpecial f.b))
  | 0x32 => do
      let _ ← f.headS; need0 (fld f.x 0 11) .reserved
      .error (.classForbidden (trapSpecial f.a || trapSpecial f.b))
  | 0x33 => do
      let _ ← f.headS; need0 (fld f.x 0 11) .reserved
      .error (.classForbidden (trapSpecial f.d || trapSpecial f.a || trapSpecial f.b))
  | 0x34 => do
      let _ ← f.headS; need0 (fld f.x 0 11) .reserved
      .error (.classForbidden (trapSpecial f.a || trapSpecial f.b))
  | 0x35 => do
      let _ ← f.headS; need0 (fld f.x 0 11) .reserved
      .error (.classForbidden (trapSpecial f.a || trapSpecial f.b))
  | 0x36 => do
      let _ ← f.headS; need0 (fld f.x 0 11) .reserved
      .error (.classForbidden (trapSpecial f.a || trapSpecial f.b))
  | 0x37 => do
      let _ ← f.headS; need0 f.b .unusedField; need0 (fld f.x 0 11) .reserved
      .error (.classForbidden (trapSpecial f.a))
  | 0x38 => do
      let _ ← f.headS; need0 (fld f.x 0 11) .reserved
      .error (.classForbidden (trapSpecial f.a || trapSpecial f.b))
  | 0x39 => do
      let _ ← f.headS; need0 f.b .unusedField; need0 (fld f.x 0 11) .reserved
      .error (.classForbidden (trapSpecial f.a))
  | 0x3A => do
      let _ ← f.headS; need0 f.b .unusedField; need0 (fld f.x 0 11) .reserved
      .error (.classForbidden (trapSpecial f.a))
  | 0x3B => do
      let _ ← f.headS; need0 f.b .unusedField; need0 (fld f.x 0 11) .reserved
      .error (.classForbidden (trapSpecial f.a))
  | 0x3C => do
      let _ ← f.headS; need0 (fld f.x 0 11) .reserved
      .error (.classForbidden (trapSpecial f.d || trapSpecial f.a || trapSpecial f.b))
  | 0x3D => do
      let _ ← f.headS; need0 (fld f.x 0 11) .reserved
      .error (.classForbidden (trapSpecial f.a || trapSpecial f.b))
  | 0x3E => do
      let _ ← f.headS; need0 (fld f.x 0 11) .reserved
      .error (.classForbidden (trapSpecial f.a || trapSpecial f.b))
  | 0x40 => do
      let _ ← f.headS; need0 (fld f.x 0 11) .reserved
      .error (.classForbidden (trapSpecial f.a || trapSpecial f.b))
  | 0x41 => do
      let _ ← f.headS; need0 (fld f.x 0 11) .reserved
      .error (.classForbidden (trapSpecial f.a || trapSpecial f.b))
  | 0x42 => do
      let _ ← f.guardS; need0 (fld f.x 0 11) .reserved
      .error (.classForbidden (trapSpecial f.a || trapSpecial f.b))
  | 0x44 => do
      let _ ← f.headS; need0 (fld f.x 0 11) .reserved
      .error (.classForbidden (trapSpecial f.d || trapSpecial f.a || trapSpecial f.b))
  | 0x50 => do
      let _ ← f.guardS; need0 (fld f.x 0 11) .reserved
      .error (.classForbidden (trapSpecial f.a || trapSpecial f.b))
  | 0x51 => do
      let _ ← f.guardS; need0 (fld f.x 0 11) .reserved
      .error (.classForbidden (trapSpecial f.d || trapSpecial f.a || trapSpecial f.b))
  | 0x52 => do
      let _ ← f.guardS; need0 (fld f.x 0 11) .reserved
      .error (.classForbidden (trapSpecial f.d || trapSpecial f.a || trapSpecial f.b))
  | 0x53 => do
      let _ ← f.guardS; need0 (fld f.x 0 11) .reserved
      .error (.classForbidden (trapSpecial f.d || trapSpecial f.a || trapSpecial f.b))
  | 0x54 => do
      let _ ← f.guardS; need0 f.d .unusedField; need0 (fld f.x 0 11) .reserved
      .error (.classForbidden (trapSpecial f.a || trapSpecial f.b))
  | 0x55 => do
      let _ ← f.guardS; need0 f.b .unusedField; need0 (fld f.x 0 11) .reserved
      .error (.classForbidden (trapSpecial f.a))
  | 0x56 => do
      let _ ← f.guardS; need0 f.b .unusedField; need0 (fld f.x 0 11) .reserved
      .error (.classForbidden (trapSpecial f.d || trapSpecial f.a))
  | _ => .error .unassigned

/-- The class-X page, by byte (R93). -/
def Fields.decodeX (f : Fields) (byte : Nat) : Except DecErr Instr :=
  match byte with
  | 0x00 => do
      let h ← f.headS; need0 f.d .unusedField; need0 f.a .unusedField; need0 f.b .unusedField
      need0 (fld f.x 0 11) .reserved; .ok (.nop h)
  | 0x01 => do
      let h ← f.headS; need0 f.d .unusedField; need0 f.b .unusedField; need0 (fld f.x 1 10) .reserved
      .ok (.mskif h (opnd f.a) (bit f.x 0))
  | 0x02 => do
      let h ← f.headS; need0 f.d .unusedField; need0 f.a .unusedField; need0 f.b .unusedField
      need0 (fld f.x 0 11) .reserved; .ok (.mskelse h)
  | 0x03 => do
      let h ← f.headS; need0 f.d .unusedField; need0 f.a .unusedField; need0 f.b .unusedField
      need0 (fld f.x 0 11) .reserved; .ok (.mskend h)
  | 0x04 => do
      let h ← f.headS; need0 f.d .unusedField; need0 f.b .unusedField; need0 (fld f.x 5 6) .reserved
      .ok (.mskbrk h (opnd f.a) (bit f.x 0) (Fin.ofNat 16 (fld f.x 1 4)))
  | 0x05 => do
      let h ← f.headS; need0 f.a .unusedField; check (decide (f.d < 2)) .reserved
      .ok (.ldj h (f.d == 1) (BitVec.ofNat 21 (f.b * 2048 + f.x)))
  | 0x06 => do
      let h ← f.headS; need0 f.d .unusedField; need0 f.b .unusedField; need0 (fld f.x 8 3) .reserved
      .ok (.loop h (opnd f.a) (BitVec.ofNat 8 (fld f.x 0 8)))
  | 0x07 => do
      let h ← f.headS; need0 f.d .unusedField; need0 f.a .unusedField; need0 f.b .unusedField
      need0 (fld f.x 8 3) .reserved; check (okMask (BitVec.ofNat 8 (fld f.x 0 8))) .reserved
      .ok (.waitop h (BitVec.ofNat 8 (fld f.x 0 8)))
  | 0x10 => do
      let h ← f.headS; need0 f.d .unusedField; need0 f.a .unusedField; need0 f.b .unusedField
      need0 (fld f.x 5 6) .reserved; let kind ← need (FenceKind.ofCode (fld f.x 3 2)) .reserved
      let sc ← need (Scope.ofCode (fld f.x 0 3)) .reserved; .ok (.fence h kind sc)
  | 0x11 => do
      let h ← f.headS; need0 f.d .unusedField; need0 f.a .unusedField; need0 f.b .unusedField
      need0 (fld f.x 9 2) .reserved; let p ← need (Path.ofCode (fld f.x 0 3)) .reserved
      let q ← need (Path.ofCode (fld f.x 3 3)) .reserved; let sc ← need (Scope.ofCode (fld f.x 6 3)) .reserved
      check (okXfence p q) .reserved; .ok (.xfence h p q sc)
  | 0x12 => do
      let h ← f.headS; need0 f.d .unusedField; need0 (fld f.x 3 8) .reserved
      check (okBind (bit f.x 1) (bit f.x 2)) .reserved
      .ok (.bind h (opnd f.a) (opnd f.b) (bit f.x 0) (bit f.x 1) (bit f.x 2))
  | 0x13 => do
      let h ← f.headS; need0 f.d .unusedField; need0 f.b .unusedField; need0 (fld f.x 1 2) .reserved
      need0 (fld f.x 4 7) .reserved; check (okUnbind (opnd f.a) (bit f.x 0) (bit f.x 3)) .reserved
      .ok (.unbind h (opnd f.a) (bit f.x 0) (bit f.x 3))
  | 0x14 => do
      let h ← f.headS; need0 f.d .unusedField; need0 f.b .unusedField; need0 (fld f.x 2 9) .reserved
      .ok (.acq h (opnd f.a) (bit f.x 0) (bit f.x 1))
  | 0x15 => do
      let h ← f.headS; need0 f.d .unusedField; need0 f.b .unusedField; need0 (fld f.x 0 1) .reserved
      need0 (fld f.x 2 9) .reserved; .ok (.rel h (opnd f.a) (bit f.x 1))
  | 0x18 => do
      let h ← f.headS; need0 f.d .unusedField; need0 f.b .unusedField; need0 (fld f.x 0 11) .reserved
      .ok (.clasp h (opnd f.a))
  | 0x19 => do
      let h ← f.headS; need0 f.d .unusedField; need0 f.b .unusedField; need0 (fld f.x 0 11) .reserved
      .ok (.claspa h (opnd f.a))
  | 0x1A => do
      let h ← f.headS; need0 f.d .unusedField; need0 f.b .unusedField; need0 (fld f.x 0 11) .reserved
      .ok (.claspw h (opnd f.a))
  | 0x1B => do
      let h ← f.lheadS; need0 f.d .unusedField; need0 (fld f.x 0 3) .reserved; need0 (fld f.x 9 2) .reserved
      .ok (.fork h (opnd f.a) (opnd f.b) (Fin.ofNat 4 (fld f.x 7 2)) (bit f.x 6))
  | 0x1C => do
      let h ← f.lheadS; need0 f.d .unusedField; need0 f.b .unusedField; need0 (fld f.x 0 3) .reserved
      need0 (fld f.x 6 5) .reserved; .ok (.rdv h (opnd f.a))
  | 0x1D => do
      let h ← f.headS; need0 f.d .unusedField; need0 f.a .unusedField; need0 f.b .unusedField
      need0 (fld f.x 0 11) .reserved; .ok (.trig h)
  | 0x1E => do
      let h ← f.headS; need0 f.d .unusedField; need0 (fld f.x 0 11) .reserved
      .ok (.rinit h (opnd f.a) (opnd f.b))
  | 0x1F => do
      let h ← f.lheadS; need0 f.b .unusedField; need0 (fld f.x 0 3) .reserved; need0 (fld f.x 6 5) .reserved
      .ok (.rget h (opnd f.d) (opnd f.a))
  | 0x20 => do
      let h ← f.headS; need0 f.d .unusedField; need0 f.b .unusedField; need0 (fld f.x 0 11) .reserved
      .ok (.tspawn h (opnd f.a))
  | 0x21 => do
      let h ← f.headS; need0 f.a .unusedField; need0 f.b .unusedField; need0 (fld f.x 0 11) .reserved
      .ok (.time h (opnd f.d))
  | 0x22 => do
      let h ← f.headS; need0 f.d .unusedField; need0 f.b .unusedField; need0 (fld f.x 0 11) .reserved
      .ok (.sleepat h (opnd f.a))
  | 0x23 => do
      let h ← f.headS; need0 f.d .unusedField; need0 (fld f.x 0 11) .reserved
      .ok (.trace h (opnd f.a) (opnd f.b))
  | 0x24 => do
      let h ← f.lheadS; need0 f.b .unusedField; need0 (fld f.x 0 3) .reserved; need0 (fld f.x 6 5) .reserved
      .ok (.mbxr h (opnd f.d) (opnd f.a))
  | 0x25 => do
      let h ← f.headS; need0 f.d .unusedField; need0 (fld f.x 0 11) .reserved
      .ok (.mbxw h (opnd f.a) (opnd f.b))
  | 0x30 => do
      let h ← f.lheadS; need0 f.b .unusedField; need0 (fld f.x 0 3) .reserved; need0 (fld f.x 6 5) .reserved
      .ok (.gzreg h (opnd f.d) (opnd f.a))
  | 0x31 => do
      let h ← f.lheadS; need0 f.d .unusedField; need0 f.b .unusedField; need0 (fld f.x 0 3) .reserved
      need0 (fld f.x 6 5) .reserved; .ok (.gzdel h (opnd f.a))
  | 0x32 => do
      let h ← f.lheadS; need0 (fld f.x 0 1) .reserved; let op ← need (RowOp.ofCode (fld f.x 8 3)) .reserved
      check (okGzreq op (Elt.ofCode (fld f.x 6 2)) (bit f.x 2) (opnd f.b)) .reserved
      .ok (.gzreq h (opnd f.d) (opnd f.a) (opnd f.b) op (Elt.ofCode (fld f.x 6 2)) (bit f.x 2) (bit f.x 1))
  | 0x33 => do
      let h ← f.lheadS; need0 f.d .unusedField; need0 f.b .unusedField; need0 (fld f.x 1 2) .reserved
      need0 (fld f.x 6 5) .reserved; .ok (.gzhold h (opnd f.a) (bit f.x 0))
  | 0x34 => do
      let h ← f.lheadS; need0 f.b .unusedField; need0 (fld f.x 0 3) .reserved; need0 (fld f.x 6 5) .reserved
      .ok (.gzpos h (opnd f.d) (opnd f.a))
  | 0x40 => do
      let h ← f.lheadS; need0 f.d .unusedField; need0 f.b .unusedField; need0 (fld f.x 0 3) .reserved
      need0 (fld f.x 6 1) .reserved
      .ok (.cpy h (opnd f.a) (CpySpace.ofCode (fld f.x 9 2)) (CpySpace.ofCode (fld f.x 7 2)))
  | 0x41 => do
      let h ← f.lheadS; need0 f.d .unusedField; need0 (fld f.x 0 1) .reserved
      .ok (.tload h (opnd f.a) (opnd f.b) (bit f.x 10) (bit f.x 9) (Fin.ofNat 8 (fld f.x 6 3)) (Fin.ofNat 4 (fld f.x 1 2)))
  | 0x42 => do
      let h ← f.lheadS; need0 f.d .unusedField; need0 f.b .unusedField; need0 (fld f.x 0 1) .reserved
      need0 (fld f.x 8 3) .reserved
      .ok (.tstor h (opnd f.a) (Fin.ofNat 4 (fld f.x 6 2)) (Fin.ofNat 4 (fld f.x 1 2)))
  | 0x43 => do
      let h ← f.headS; need0 f.d .unusedField; need0 (fld f.x 0 11) .reserved
      .ok (.tidset h (opnd f.a) (opnd f.b))
  | 0x44 => do
      let h ← f.headS; need0 (fld f.x 0 11) .reserved; .ok (.tidget h (opnd f.d) (opnd f.a) (opnd f.b))
  | 0x60 => do
      let h ← f.mhead; need0 (fld f.d 4 3) .reserved; need0 (fld f.d 2 2) .reserved
      check (!(fld f.x 7 4 == 0)) .reserved; check (okSrc (Fin.ofNat 4 (fld f.x 4 2)) (bit f.x 3)) .reserved
      .ok (.mmac h (opnd f.a) (opnd f.b) (bit f.x 6) (Fin.ofNat 4 (fld f.x 4 2)) (bit f.x 3) (Fin.ofNat 8 (fld f.x 0 3)))
  | 0x61 => do
      let h ← f.mhead; need0 (fld f.d 4 3) .reserved; check (!(fld f.x 7 4 == 0)) .reserved
      need0 (fld f.x 6 1) .reserved; check (okSrc (Fin.ofNat 4 (fld f.x 4 2)) (bit f.x 3)) .reserved
      .ok (.mmap h (Fin.ofNat 4 (fld f.d 2 2)) (opnd f.a) (opnd f.b) (Fin.ofNat 4 (fld f.x 4 2)) (bit f.x 3) (Fin.ofNat 8 (fld f.x 0 3)))
  | 0x62 => do
      let h ← f.mhead; need0 (fld f.d 4 3) .reserved; check (!(fld f.x 7 4 == 0)) .reserved
      need0 (fld f.x 0 3) .reserved; need0 (fld f.x 6 1) .reserved
      check (okSrc (Fin.ofNat 4 (fld f.x 4 2)) (bit f.x 3)) .reserved
      .ok (.mmd2 h (Fin.ofNat 4 (fld f.d 2 2)) (opnd f.a) (opnd f.b) (Fin.ofNat 4 (fld f.x 4 2)) (bit f.x 3))
  | 0x63 => do
      let h ← f.mhead; need0 f.b .unusedField; need0 (fld f.d 4 3) .reserved
      check (!(fld f.x 7 4 == 0)) .reserved; need0 (fld f.x 1 6) .reserved
      .ok (.gcmb h (Fin.ofNat 4 (fld f.d 2 2)) (opnd f.a) (bit f.x 0))
  | 0x64 => do
      let h ← f.mhead; need0 f.a .unusedField; need0 f.b .unusedField; need0 (fld f.d 4 3) .reserved
      need0 (fld f.d 2 2) .reserved; check (!(fld f.x 7 4 == 0)) .reserved; need0 (fld f.x 0 7) .reserved
      .ok (.mzero h)
  | 0x65 => do
      let h ← f.mhead; need0 f.b .unusedField; need0 (fld f.d 4 3) .reserved; need0 (fld f.d 2 2) .reserved
      check (!(fld f.x 7 4 == 0)) .reserved; need0 (fld f.x 4 3) .reserved
      .ok (.mqnt h (opnd f.a) (bit f.x 3) (bit f.x 2) (Fin.ofNat 4 (fld f.x 0 2)))
  | 0x66 => do
      let h ← f.mhead; need0 f.b .unusedField; need0 (fld f.d 4 3) .reserved; need0 (fld f.d 2 2) .reserved
      check (!(fld f.x 7 4 == 0)) .reserved; need0 (fld f.x 0 7) .reserved; .ok (.mscl h (opnd f.a))
  | 0x80 => do
      let h ← f.headS; need0 f.d .unusedField; need0 f.b .unusedField; need0 (fld f.x 0 11) .reserved
      .ok (.trap h (opnd f.a))
  | 0x81 => do
      let h ← f.headS; need0 f.d .unusedField; need0 f.a .unusedField; need0 f.b .unusedField
      need0 (fld f.x 0 11) .reserved; .ok (.tret h)
  | 0x82 => do
      let h ← f.headS; need0 f.b .unusedField; need0 (fld f.x 0 11) .reserved
      .ok (.wrs h (opnd f.d) (opnd f.a))
  | 0x83 => do
      let h ← f.headS; need0 f.d .unusedField; need0 (fld f.x 1 10) .reserved
      check (okTlbi (opnd f.a) (opnd f.b) (bit f.x 0)) .reserved
      .ok (.tlbi h (opnd f.a) (opnd f.b) (bit f.x 0))
  | 0x84 => do
      let h ← f.lheadS; need0 f.d .unusedField; need0 f.b .unusedField; need0 (fld f.x 0 3) .reserved
      need0 (fld f.x 6 5) .reserved; .ok (.dtld h (opnd f.a))
  | 0x85 => do
      let h ← f.headS; need0 f.d .unusedField; need0 f.a .unusedField; need0 f.b .unusedField
      need0 (fld f.x 0 11) .reserved; .ok (.bkpt h)
  | 0x86 => do
      let h ← f.headS; need0 f.d .unusedField; need0 f.b .unusedField; need0 (fld f.x 0 11) .reserved
      .ok (.gend h (opnd f.a))
  | 0x87 => do
      let h ← f.headS; need0 f.d .unusedField; need0 f.b .unusedField; need0 (fld f.x 0 11) .reserved
      .ok (.park h (opnd f.a))
  | 0x88 => do
      let h ← f.headS; need0 f.b .unusedField; need0 (fld f.x 0 11) .reserved
      .ok (.dirty h (opnd f.d) (opnd f.a))
  | 0x89 => do
      let h ← f.headS; need0 f.d .unusedField; need0 (fld f.x 2 9) .reserved
      match fld f.x 0 2 with
      | 0 => .ok (.pctlStop h (opnd f.a) (opnd f.b))
      | 1 => .ok (.pctlResume h (opnd f.a) (opnd f.b))
      | 2 => .ok (.pctlReset h (opnd f.a) (opnd f.b))
      | _ => .error .reserved
  | 0x8A => do
      let h ← f.headS; need0 f.d .unusedField; need0 (fld f.x 8 3) .reserved
      .ok (.larm h (opnd f.a) (opnd f.b) (BitVec.ofNat 8 (fld f.x 0 8)))
  | _ => .error .unassigned

/-- A full-form word under a table (R57, R76). -/
def decodeFull (t : Table) (f : Fields) : Except DecErr Instr :=
  match t.opcode f.op with
  | none => .error .unassigned
  | some op =>
    match op / 256 with
    | 0 => f.decodeV (op % 256)
    | 1 => f.decodeU (op % 256)
    | 2 => f.decodeA (op % 256)
    | _ => f.decodeX (op % 256)

/-- A slot of a paired word, given its 28 bits (R58). -/
def decodeSlot (t : Table) (w : Nat) : Except DecErr PSlot := do
  let op ← need (t.short (fld w 22 6)) .unassigned
  .ok { op := op, sp := .ofCode (fld w 20 2), d := opnd (fld w 10 10), s := opnd (fld w 0 10) }

/-- A paired word under a table (R58, R73). -/
def decodePaired (t : Table) (w : Nat) : Except DecErr Instr := do
  need0 (fld w 0 3) .reserved
  let s1 ← decodeSlot t (fld w 31 28)
  let s2 ← decodeSlot t (fld w 3 28)
  check (!(fld w 41 10 == fld w 13 10)) .equalDests
  .ok (.pairedWord (.ofCode (fld w 60 4)) s1 s2)

/-- A 64-bit word under a decode table (R57, R58). -/
def decode (t : Table) (w : Nat) : Except DecErr Instr :=
  if fld w 59 1 = 1 then decodePaired t w else decodeFull t (Fields.ofWord w)

/-- The instruction of an opcode-table row's bits, under the default table. -/
def decodeTableWord (nbits w : Nat) : Option Instr :=
  match decode none (w % 2 ^ nbits) with
  | .ok i => some i
  | .error _ => none

/-! ## The encoder -/

/-- PRED of a guard (R57, R59). -/
def Guard.pred : Guard → Nat
  | .always => 7
  | .on n _ => n.val

/-- PN of a guard. -/
def Guard.pn : Guard → Nat
  | .always => 0
  | .on _ neg => neg.toNat

/-- A short-latency word. -/
def wordOf (h : Head) (op d a b x : Nat) : Nat :=
  Fields.toWord { nas := h.nas.code, op := op, la := 0, pred := h.g.pred, pn := h.g.pn, d := d, a := a, b := b, x := x }

/-- A long-latency word; `x` without its slot. -/
def lwordOf (h : LHead) (op d a b x : Nat) : Nat :=
  Fields.toWord { nas := h.nas.code, op := op, la := h.la.val, pred := h.g.pred, pn := h.g.pn, d := d, a := a, b := b,
                  x := x + h.slot.val * 8 }

/-- A matrix word. -/
def mwordOf (h : MHead) (op d a b x : Nat) : Nat :=
  Fields.toWord { nas := h.nas.code, op := op, la := h.la.val, pred := h.g.pred, pn := h.g.pn, d := d, a := a, b := b,
                  x := x }

/-- The short-page index of an operation in the default table (R75). -/
def SlotOp.sop (o : SlotOp) : Option Nat :=
  if shortPage.contains o.byte then some (shortPage.idxOf o.byte) else none

/-- The 28 bits of a slot whose index is `sop` (R58). -/
def PSlot.bits (s : PSlot) (sop : Nat) : Nat :=
  sop * 2 ^ 22 + s.sp.code * 2 ^ 20 + s.d.code * 2 ^ 10 + s.s.code

/-- A paired word under the default table. -/
def pairedWordOf (nas : Nas) (s1 s2 : PSlot) : Option Nat :=
  match s1.op.sop, s2.op.sop with
  | some i, some j => some (nas.code * 2 ^ 60 + 2 ^ 59 + s1.bits i * 2 ^ 31 + s2.bits j * 2 ^ 3)
  | _, _ => none

/-- The word of an instruction under the default table; an event has none. -/
def encode : Instr → Option Nat
  | .iaddV h d a b sat => some (wordOf h 0x1 d.code a.code b.code (sat.toNat * 256))
  | .iaddU h d a b sat => some (wordOf h 0x101 d.code a.code b.code (sat.toNat * 256))
  | .iaddA h d a b => some (wordOf h 0x201 d.code a.code b.code 0)
  | .isubV h d a b sat => some (wordOf h 0x2 d.code a.code b.code (sat.toNat * 256))
  | .isubU h d a b sat => some (wordOf h 0x102 d.code a.code b.code (sat.toNat * 256))
  | .isubA h d a b => some (wordOf h 0x202 d.code a.code b.code 0)
  | .imulV h d a b sat => some (wordOf h 0x3 d.code a.code b.code (sat.toNat * 256))
  | .imulU h d a b sat => some (wordOf h 0x103 d.code a.code b.code (sat.toNat * 256))
  | .imulA h d a b => some (wordOf h 0x203 d.code a.code b.code 0)
  | .ishlV h d a b sat => some (wordOf h 0x6 d.code a.code b.code (sat.toNat * 256))
  | .ishlU h d a b sat => some (wordOf h 0x106 d.code a.code b.code (sat.toNat * 256))
  | .ishlA h d a b => some (wordOf h 0x206 d.code a.code b.code 0)
  | .movV h d a => some (wordOf h 0x20 d.code a.code 0 0)
  | .movU h d a => some (wordOf h 0x120 d.code a.code 0 0)
  | .movA h d a => some (wordOf h 0x220 d.code a.code 0 0)
  | .ldiV h d i => some (wordOf h 0x21 d.code 0 (i.toNat / 2048) (i.toNat % 2048))
  | .ldiU h d i => some (wordOf h 0x121 d.code 0 (i.toNat / 2048) (i.toNat % 2048))
  | .ldiA h d i => some (wordOf h 0x221 d.code 0 (i.toNat / 2048) (i.toNat % 2048))
  | .imadV h d a b u sat => some (wordOf h 0x4 d.code a.code b.code (u.toNat + sat.toNat * 256))
  | .imadU h d a b u sat => some (wordOf h 0x104 d.code a.code b.code (u.toNat + sat.toNat * 256))
  | .imulhV h d a b u => some (wordOf h 0x5 d.code a.code b.code (u.toNat))
  | .imulhU h d a b u => some (wordOf h 0x105 d.code a.code b.code (u.toNat))
  | .ishrV h d a b => some (wordOf h 0x7 d.code a.code b.code 0)
  | .ishrU h d a b => some (wordOf h 0x107 d.code a.code b.code 0)
  | .israV h d a b => some (wordOf h 0x8 d.code a.code b.code 0)
  | .israU h d a b => some (wordOf h 0x108 d.code a.code b.code 0)
  | .iandV h d a b => some (wordOf h 0x9 d.code a.code b.code 0)
  | .iandU h d a b => some (wordOf h 0x109 d.code a.code b.code 0)
  | .iorV h d a b => some (wordOf h 0xA d.code a.code b.code 0)
  | .iorU h d a b => some (wordOf h 0x10A d.code a.code b.code 0)
  | .ixorV h d a b => some (wordOf h 0xB d.code a.code b.code 0)
  | .ixorU h d a b => some (wordOf h 0x10B d.code a.code b.code 0)
  | .iminV h d a b u => some (wordOf h 0xC d.code a.code b.code (u.toNat))
  | .iminU h d a b u => some (wordOf h 0x10C d.code a.code b.code (u.toNat))
  | .imaxV h d a b u => some (wordOf h 0xD d.code a.code b.code (u.toNat))
  | .imaxU h d a b u => some (wordOf h 0x10D d.code a.code b.code (u.toNat))
  | .iabsV h d a sat => some (wordOf h 0xE d.code a.code 0 (sat.toNat * 256))
  | .iabsU h d a sat => some (wordOf h 0x10E d.code a.code 0 (sat.toNat * 256))
  | .icmpV h d a b u c => some (wordOf h 0xF d.code a.code b.code (u.toNat * 8 + c.code))
  | .icmpU h d a b u c => some (wordOf h 0x10F d.code a.code b.code (u.toNat * 8 + c.code))
  | .iselV h d a b neg n => some (wordOf h 0x10 d.code a.code b.code (neg.toNat * 8 + n.val))
  | .iselU h d a b neg n => some (wordOf h 0x110 d.code a.code b.code (neg.toNat * 8 + n.val))
  | .bfxV h d a b sx => some (wordOf h 0x11 d.code a.code b.code (sx.toNat))
  | .bfxU h d a b sx => some (wordOf h 0x111 d.code a.code b.code (sx.toNat))
  | .bfiV h d a b => some (wordOf h 0x12 d.code a.code b.code 0)
  | .bfiU h d a b => some (wordOf h 0x112 d.code a.code b.code 0)
  | .popcV h d a => some (wordOf h 0x13 d.code a.code 0 0)
  | .popcU h d a => some (wordOf h 0x113 d.code a.code 0 0)
  | .clzV h d a => some (wordOf h 0x14 d.code a.code 0 0)
  | .clzU h d a => some (wordOf h 0x114 d.code a.code 0 0)
  | .iadcV h d a b ci n => some (wordOf h 0x15 d.code a.code b.code (ci.toNat * 8 + n.val))
  | .iadcU h d a b ci n => some (wordOf h 0x115 d.code a.code b.code (ci.toNat * 8 + n.val))
  | .shrrV h d a b r sat rng u =>
    some (wordOf h 0x16 d.code a.code b.code (r.code * 512 + sat.toNat * 256 + rng.code * 64 + u.toNat))
  | .shrrU h d a b r sat rng u =>
    some (wordOf h 0x116 d.code a.code b.code (r.code * 512 + sat.toNat * 256 + rng.code * 64 + u.toNat))
  | .isatV h d a rng => some (wordOf h 0x17 d.code a.code 0 (rng.code * 64))
  | .isatU h d a rng => some (wordOf h 0x117 d.code a.code 0 (rng.code * 64))
  | .padd2V h d a b u sat => some (wordOf h 0x19 d.code a.code b.code (u.toNat + sat.toNat * 256))
  | .padd2U h d a b u sat => some (wordOf h 0x119 d.code a.code b.code (u.toNat + sat.toNat * 256))
  | .psub2V h d a b u sat => some (wordOf h 0x1A d.code a.code b.code (u.toNat + sat.toNat * 256))
  | .psub2U h d a b u sat => some (wordOf h 0x11A d.code a.code b.code (u.toNat + sat.toNat * 256))
  | .packV h d a b sat hi => some (wordOf h 0x1C d.code a.code b.code (sat.toNat * 256 + hi.toNat))
  | .packU h d a b sat hi => some (wordOf h 0x11C d.code a.code b.code (sat.toNat * 256 + hi.toNat))
  | .ldihV h d i => some (wordOf h 0x22 d.code 0 (i.toNat / 2048) (i.toNat % 2048))
  | .ldihU h d i => some (wordOf h 0x122 d.code 0 (i.toNat / 2048) (i.toNat % 2048))
  | .cvtV h d a b r sat dt st =>
    some (wordOf h 0x29 d.code a.code b.code (r.code * 512 + sat.toNat * 256 + dt.code * 16 + st.code))
  | .cvtU h d a b r sat dt st =>
    some (wordOf h 0x129 d.code a.code b.code (r.code * 512 + sat.toNat * 256 + dt.code * 16 + st.code))
  | .faddV h d a b r => some (wordOf h 0x30 d.code a.code b.code (r.code * 512))
  | .faddU h d a b r => some (wordOf h 0x130 d.code a.code b.code (r.code * 512))
  | .fsubV h d a b r => some (wordOf h 0x31 d.code a.code b.code (r.code * 512))
  | .fsubU h d a b r => some (wordOf h 0x131 d.code a.code b.code (r.code * 512))
  | .fmulV h d a b r => some (wordOf h 0x32 d.code a.code b.code (r.code * 512))
  | .fmulU h d a b r => some (wordOf h 0x132 d.code a.code b.code (r.code * 512))
  | .ffmaV h d a b r horner => some (wordOf h 0x33 d.code a.code b.code (r.code * 512 + horner.toNat))
  | .ffmaU h d a b r horner => some (wordOf h 0x133 d.code a.code b.code (r.code * 512 + horner.toNat))
  | .fminV h d a b => some (wordOf h 0x34 d.code a.code b.code 0)
  | .fminU h d a b => some (wordOf h 0x134 d.code a.code b.code 0)
  | .fmaxV h d a b => some (wordOf h 0x35 d.code a.code b.code 0)
  | .fmaxU h d a b => some (wordOf h 0x135 d.code a.code b.code 0)
  | .fcmpV h d a b c => some (wordOf h 0x36 d.code a.code b.code (c.code))
  | .fcmpU h d a b c => some (wordOf h 0x136 d.code a.code b.code (c.code))
  | .frndV h d a r => some (wordOf h 0x37 d.code a.code 0 (r.code * 512))
  | .frndU h d a r => some (wordOf h 0x137 d.code a.code 0 (r.code * 512))
  | .fsclV h d a b r => some (wordOf h 0x38 d.code a.code b.code (r.code * 512))
  | .fsclU h d a b r => some (wordOf h 0x138 d.code a.code b.code (r.code * 512))
  | .fgetxV h d a => some (wordOf h 0x39 d.code a.code 0 0)
  | .fgetxU h d a => some (wordOf h 0x139 d.code a.code 0 0)
  | .fgetmV h d a => some (wordOf h 0x3A d.code a.code 0 0)
  | .fgetmU h d a => some (wordOf h 0x13A d.code a.code 0 0)
  | .fclassV h d a => some (wordOf h 0x3B d.code a.code 0 0)
  | .fclassU h d a => some (wordOf h 0x13B d.code a.code 0 0)
  | .hfma2V h d a b r bf => some (wordOf h 0x3C d.code a.code b.code (r.code * 512 + bf.toNat * 128))
  | .hfma2U h d a b r bf => some (wordOf h 0x13C d.code a.code b.code (r.code * 512 + bf.toNat * 128))
  | .hadd2V h d a b r bf => some (wordOf h 0x3D d.code a.code b.code (r.code * 512 + bf.toNat * 128))
  | .hadd2U h d a b r bf => some (wordOf h 0x13D d.code a.code b.code (r.code * 512 + bf.toNat * 128))
  | .hmul2V h d a b r bf => some (wordOf h 0x3E d.code a.code b.code (r.code * 512 + bf.toNat * 128))
  | .hmul2U h d a b r bf => some (wordOf h 0x13E d.code a.code b.code (r.code * 512 + bf.toNat * 128))
  | .rbitsV h d a b => some (wordOf h 0x44 d.code a.code b.code 0)
  | .rbitsU h d a b => some (wordOf h 0x144 d.code a.code b.code 0)
  | .pmac2 h d a b ua ub => some (wordOf h 0x18 d.code a.code b.code (ua.toNat * 2 + ub.toNat))
  | .pmul2 h d a b u sat => some (wordOf h 0x1B d.code a.code b.code (u.toNat + sat.toNat * 256))
  | .dot4 h d a b ua ub sat => some (wordOf h 0x1D d.code a.code b.code (ua.toNat * 2 + ub.toNat + sat.toNat * 256))
  | .wrth h d a b => some (wordOf h 0x25 d.code a.code b.code 0)
  | .vsld h d a b half down n => some (wordOf h 0x40 d.code a.code b.code (half.toNat * 64 + down.toNat * 32 + n.val))
  | .vscan h d a b op ex => some (wordOf h 0x41 d.code a.code b.code (op.code * 256 + ex.toNat * 128))
  | .vperm h d a b => some (lwordOf h 0x42 d.code a.code b.code 0)
  | .promV h d a chk => some (wordOf h 0x23 d.code a.code 0 (chk.toNat))
  | .promA h d a => some (wordOf h 0x223 d.code a.code 0 0)
  | .rdth h d a b => some (wordOf h 0x124 d.code a.code b.code 0)
  | .vred h d a b op => some (wordOf h 0x126 d.code a.code b.code (op.code * 256))
  | .vote h d a op neg => some (wordOf h 0x127 d.code a.code 0 (op.code + neg.toNat * 4))
  | .aget h d a part => some (wordOf h 0x12A d.code a.code 0 (part.code))
  | .aset h d a b => some (wordOf h 0x22B d.code a.code b.code 0)
  | .ldV h d a b spc ty pw nc chk =>
    some (lwordOf h 0x50 d.code a.code b.code (spc.code * 512 + ty.code * 64 + pw.toNat * 4 + nc.toNat * 2 + chk.toNat))
  | .ldU h d a b spc ty pw nc chk =>
    some (lwordOf h 0x150 d.code a.code b.code (spc.code * 512 + ty.code * 64 + pw.toNat * 4 + nc.toNat * 2 + chk.toNat))
  | .stV h d a b spc ty nc chk =>
    some (lwordOf h 0x51 d.code a.code b.code (spc.code * 512 + ty.code * 64 + nc.toNat * 2 + chk.toNat))
  | .stU h d a b spc ty nc chk =>
    some (lwordOf h 0x151 d.code a.code b.code (spc.code * 512 + ty.code * 64 + nc.toNat * 2 + chk.toNat))
  | .atomV h d a b scr op wide chk =>
    some (lwordOf h 0x52 d.code a.code b.code (scr.toNat * 1024 + op.code * 64 + wide.toNat * 4 + chk.toNat))
  | .atomU h d a b scr op wide chk =>
    some (lwordOf h 0x152 d.code a.code b.code (scr.toNat * 1024 + op.code * 64 + wide.toNat * 4 + chk.toNat))
  | .redV h d a b scr op wide chk =>
    some (lwordOf h 0x53 d.code a.code b.code (scr.toNat * 1024 + op.code * 64 + wide.toNat * 4 + chk.toNat))
  | .redU h d a b scr op wide chk =>
    some (lwordOf h 0x153 d.code a.code b.code (scr.toNat * 1024 + op.code * 64 + wide.toNat * 4 + chk.toNat))
  | .pftV h a b spc ty nc chk =>
    some (lwordOf h 0x54 0 a.code b.code (spc.code * 512 + ty.code * 64 + nc.toNat * 2 + chk.toNat))
  | .pftU h a b spc ty nc chk =>
    some (lwordOf h 0x154 0 a.code b.code (spc.code * 512 + ty.code * 64 + nc.toNat * 2 + chk.toNat))
  | .bld h d a buf ty => some (lwordOf h 0x55 d.code a.code 0 (buf.code * 512 + ty.code * 64))
  | .bst h d a buf ty => some (lwordOf h 0x56 d.code a.code 0 (buf.code * 512 + ty.code * 64))
  | .pairedWord nas s1 s2 => pairedWordOf nas s1 s2
  | .nop h => some (wordOf h 0x300 0 0 0 0)
  | .mskif h a neg => some (wordOf h 0x301 0 a.code 0 (neg.toNat))
  | .mskelse h => some (wordOf h 0x302 0 0 0 0)
  | .mskend h => some (wordOf h 0x303 0 0 0 0)
  | .mskbrk h a neg n => some (wordOf h 0x304 0 a.code 0 (neg.toNat + n.val * 2))
  | .ldj h j1 i => some (wordOf h 0x305 j1.toNat 0 (i.toNat / 2048) (i.toNat % 2048))
  | .loop h a len => some (wordOf h 0x306 0 a.code 0 (len.toNat))
  | .waitop h m => some (wordOf h 0x307 0 0 0 (m.toNat))
  | .fence h kind sc => some (wordOf h 0x310 0 0 0 (kind.code * 8 + sc.code))
  | .xfence h p q sc => some (wordOf h 0x311 0 0 0 (p.code + q.code * 8 + sc.code * 64))
  | .bind h a b rs os cl => some (wordOf h 0x312 0 a.code b.code (rs.toNat + os.toNat * 2 + cl.toNat * 4))
  | .unbind h a rs all => some (wordOf h 0x313 0 a.code 0 (rs.toNat + all.toNat * 8))
  | .acq h a sh os => some (wordOf h 0x314 0 a.code 0 (sh.toNat + os.toNat * 2))
  | .rel h a os => some (wordOf h 0x315 0 a.code 0 (os.toNat * 2))
  | .clasp h a => some (wordOf h 0x318 0 a.code 0 0)
  | .claspa h a => some (wordOf h 0x319 0 a.code 0 0)
  | .claspw h a => some (wordOf h 0x31A 0 a.code 0 0)
  | .fork h a b n grp => some (lwordOf h 0x31B 0 a.code b.code (n.val * 128 + grp.toNat * 64))
  | .rdv h a => some (lwordOf h 0x31C 0 a.code 0 0)
  | .trig h => some (wordOf h 0x31D 0 0 0 0)
  | .rinit h a b => some (wordOf h 0x31E 0 a.code b.code 0)
  | .rget h d a => some (lwordOf h 0x31F d.code a.code 0 0)
  | .tspawn h a => some (wordOf h 0x320 0 a.code 0 0)
  | .time h d => some (wordOf h 0x321 d.code 0 0 0)
  | .sleepat h a => some (wordOf h 0x322 0 a.code 0 0)
  | .trace h a b => some (wordOf h 0x323 0 a.code b.code 0)
  | .mbxr h d a => some (lwordOf h 0x324 d.code a.code 0 0)
  | .mbxw h a b => some (wordOf h 0x325 0 a.code b.code 0)
  | .gzreg h d a => some (lwordOf h 0x330 d.code a.code 0 0)
  | .gzdel h a => some (lwordOf h 0x331 0 a.code 0 0)
  | .gzreq h d a b op elt sat now =>
    some (lwordOf h 0x332 d.code a.code b.code (op.code * 256 + elt.code * 64 + sat.toNat * 4 + now.toNat * 2))
  | .gzhold h a res => some (lwordOf h 0x333 0 a.code 0 (res.toNat))
  | .gzpos h d a => some (lwordOf h 0x334 d.code a.code 0 0)
  | .cpy h a src dst => some (lwordOf h 0x340 0 a.code 0 (src.code * 512 + dst.code * 128))
  | .tload h a b x t n core =>
    some (lwordOf h 0x341 0 a.code b.code (x.toNat * 1024 + t.toNat * 512 + n.val * 64 + core.val * 2))
  | .tstor h a tile core => some (lwordOf h 0x342 0 a.code 0 (tile.val * 64 + core.val * 2))
  | .tidset h a b => some (wordOf h 0x343 0 a.code b.code 0)
  | .tidget h d a b => some (wordOf h 0x344 d.code a.code b.code 0)
  | .mmac h a b t src rm n =>
    some (mwordOf h 0x360 (h.slot.val * 128 + h.c1.val) a.code b.code (h.cm.toNat * 128 + t.toNat * 64 + src.val * 16 + rm.toNat * 8 + n.val))
  | .mmap h c2 a b src rm n =>
    some (mwordOf h 0x361 (h.slot.val * 128 + c2.val * 4 + h.c1.val) a.code b.code (h.cm.toNat * 128 + src.val * 16 + rm.toNat * 8 + n.val))
  | .mmd2 h c2 a b src rm =>
    some (mwordOf h 0x362 (h.slot.val * 128 + c2.val * 4 + h.c1.val) a.code b.code (h.cm.toNat * 128 + src.val * 16 + rm.toNat * 8))
  | .gcmb h c2 a solo =>
    some (mwordOf h 0x363 (h.slot.val * 128 + c2.val * 4 + h.c1.val) a.code 0 (h.cm.toNat * 128 + solo.toNat))
  | .mzero h => some (mwordOf h 0x364 (h.slot.val * 128 + h.c1.val) 0 0 (h.cm.toNat * 128))
  | .mqnt h a x sat n =>
    some (mwordOf h 0x365 (h.slot.val * 128 + h.c1.val) a.code 0 (h.cm.toNat * 128 + x.toNat * 8 + sat.toNat * 4 + n.val))
  | .mscl h a => some (mwordOf h 0x366 (h.slot.val * 128 + h.c1.val) a.code 0 (h.cm.toNat * 128))
  | .trap h a => some (wordOf h 0x380 0 a.code 0 0)
  | .tret h => some (wordOf h 0x381 0 0 0 0)
  | .wrs h d a => some (wordOf h 0x382 d.code a.code 0 0)
  | .tlbi h a b all => some (wordOf h 0x383 0 a.code b.code (all.toNat))
  | .dtld h a => some (lwordOf h 0x384 0 a.code 0 0)
  | .bkpt h => some (wordOf h 0x385 0 0 0 0)
  | .gend h a => some (wordOf h 0x386 0 a.code 0 0)
  | .park h a => some (wordOf h 0x387 0 a.code 0 0)
  | .dirty h d a => some (wordOf h 0x388 d.code a.code 0 0)
  | .pctlStop h a b => some (wordOf h 0x389 0 a.code b.code 0)
  | .pctlResume h a b => some (wordOf h 0x389 0 a.code b.code 1)
  | .pctlReset h a b => some (wordOf h 0x389 0 a.code b.code 2)
  | .larm h a b tag => some (wordOf h 0x38A 0 a.code b.code (tag.toNat))
  | .slotCompletion _ _ _ => none
  | .warpRetire _ => none
  | .pwLoadMatch _ _ => none
  | .submit _ _ => none
  | .taskDispatch _ _ => none
  | .recordAgeing _ => none
  | .warpAdmit _ _ _ => none
  | .launchRetire _ => none
  | .triggerRelease _ => none
  | .copyComplete _ => none
  | .arrival _ _ _ => none
  | .evofisalArrival _ _ _ _ => none
  | .acqGrant _ => none
  | .claspRoundComplete _ _ => none
  | .seqProgramStart _ => none
  | .seqProgramFault _ => none
  | .rdvMeetingComplete _ => none
  | .matrixOpStart _ => none
  | .matrixOpComplete _ => none
  | .rgetServe _ _ => none
  | .quantumCommit _ => none
  | .rowRestore _ _ => none
  | .requestAccept _ _ => none
  | .demandActivation _ _ _ => none
  | .trapEntry _ => none
  | .parkRestore _ _ => none
  | .partialEviction _ => none
  | .warpReadmit _ _ => none
  | .fullSave _ => none
  | .locketExchangeRequest _ => none
  | .locketExchange _ => none
  | .watchdogExpiry _ => none
  | .watchdogSecondExpiry _ => none
  | .pctlComplete _ => none
  | .noticePost _ => none
  | .meshAccess _ _ _ _ => none
  | .evofisalAccess _ _ _ _ _ => none
  | .bezelWrite _ _ _ _ => none
  | .registerWrite _ => none
  | .sleepWake _ => none
  | .servoStep _ => none
  | .dieResetRelease _ => none
  | .coreEnable _ => none
  | .arrayRampStep _ _ => none
  | .currentLimit _ _ => none
  | .thermalTrip _ => none
  | .bootVerify _ _ => none
  | .debugUnlock _ _ => none
  | .mirrorAcknowledgement _ _ => none
  | .pciePeerWrite _ _ _ => none
  | .partitionOffExit _ => none
  | .moduleStandbyEntry => none
  | .moduleStandbyExit => none
  | .noticeQueueRoom _ => none

end Sys2Proof
end

