-- ==== Sys2Proof/Machine/Num.lean ====
section
/-! DEFINITION. Number formats and exact arithmetic with one rounding (R98-R103), saturation of integers (R104), the
counter-based generator (R113). Values are exact dyadic numbers `m * 2^e`; nothing is rounded before the end. -/

namespace Sys2Proof.Machine

/-! ## Integers -/

/-- The signed value of the low `n` bits of `x`. -/
def sgn (n x : Nat) : Int := if 2 * (x % 2 ^ n) < 2 ^ n then ((x % 2 ^ n : Nat) : Int) else ((x % 2 ^ n : Nat) : Int) - 2 ^ n

/-- `r` modulo 2^n. -/
def wrapN (n : Nat) (r : Int) : Nat := (r % (2 ^ n : Nat)).toNat

/-- `r` modulo 2^32, as a register value. -/
def word (r : Int) : Word := BitVec.ofInt 32 r

/-- `r` clamped to `lo` .. `hi`. -/
def clampInt (lo hi r : Int) : Int := if r < lo then lo else if hi < r then hi else r

/-- sat32 (R7). -/
def sat32 (r : Int) : Int := clampInt (-2147483648) 2147483647 r

/-- sat16 (R7). -/
def sat16 (r : Int) : Int := clampInt (-32768) 32767 r

/-- `n / 2^d` rounded to an integer by `m`, exactly (R7, R100). -/
def divPow (m : Rnd) (n : Int) (d : Nat) : Int :=
  let q := n / (2 ^ d : Nat)
  let r := n % (2 ^ d : Nat)
  if r = 0 then q
  else match m with
    | .rdn => q
    | .rup => q + 1
    | .rz => if n < 0 then q + 1 else q
    | .rne => if 2 * r < (2 ^ d : Nat) then q else if (2 ^ d : Nat) < 2 * r then q + 1 else if q % 2 = 0 then q else q + 1

/-! ## Floating-point formats (R98) -/

/-- A binary format: exponent width, significand-field width, and whether it is E4M3 (no infinities). -/
structure Fmt where
  ew : Nat
  fw : Nat
  e4 : Bool
  deriving DecidableEq, Repr

def Fmt.fp32 : Fmt := ⟨8, 23, false⟩
def Fmt.fp16 : Fmt := ⟨5, 10, false⟩
def Fmt.bf16 : Fmt := ⟨8, 7, false⟩
def Fmt.e4m3 : Fmt := ⟨4, 3, true⟩
def Fmt.e5m2 : Fmt := ⟨5, 2, false⟩

/-- The exponent bias. -/
def Fmt.bias (f : Fmt) : Int := 2 ^ (f.ew - 1) - 1

/-- The width of a value. -/
def Fmt.width (f : Fmt) : Nat := f.ew + f.fw + 1

/-- The sign bit. -/
def Fmt.sign (f : Fmt) : Nat := 2 ^ (f.ew + f.fw)

/-- The largest finite magnitude. -/
def Fmt.most (f : Fmt) : Nat := if f.e4 then 0x7E else f.sign - 2 ^ f.fw - 1

/-- Infinity, or E4M3's NaN that stands for it (R100). -/
def Fmt.inf (f : Fmt) : Nat := f.most + 1

/-- Magnitude bits with a sign. -/
def Fmt.signed (f : Fmt) (neg : Bool) (mag : Nat) : Nat := if neg then f.sign + mag else mag

/-- A value read from its bits: a finite one is `m * 2^e` with a sign. -/
inductive FVal where
  | nan
  | inf (neg : Bool)
  | fin (neg : Bool) (m : Nat) (e : Int)
  deriving DecidableEq, Repr

/-- Whether the sign bit is set. -/
def Fmt.neg (f : Fmt) (x : Nat) : Bool := x / f.sign % 2 = 1

/-- The value of a bit pattern (R98, R99). -/
def Fmt.val (f : Fmt) (x : Nat) : FVal :=
  let neg := f.neg x
  let ex := x / 2 ^ f.fw % 2 ^ f.ew
  let fr := x % 2 ^ f.fw
  if ex = 2 ^ f.ew - 1 && (!f.e4 || fr = 7) then if f.e4 || fr ≠ 0 then .nan else .inf neg
  else if ex = 0 then .fin neg fr (1 - f.bias - f.fw)
  else .fin neg (2 ^ f.fw + fr) (ex - f.bias - f.fw)

/-- Whether a pattern is a NaN. -/
def Fmt.isNan (f : Fmt) (x : Nat) : Bool := f.val x == .nan

/-- A NaN quieted: its top significand bit set, the other bits kept (R103). -/
def Fmt.quiet (f : Fmt) (x : Nat) : Nat := if x / 2 ^ (f.fw - 1) % 2 = 1 then x else x + 2 ^ (f.fw - 1)

/-- Whether an overflow goes to infinity (R100). -/
def toInf (m : Rnd) (neg : Bool) : Bool :=
  match m with
  | .rne => true
  | .rz => false
  | .rup => !neg
  | .rdn => neg

/-- The exact number `(-1)^neg * m * 2^e` rounded once to the format (R100). `sat` gives the largest finite value in place of
an overflow's infinity. A zero keeps the sign `neg`. -/
def Fmt.round (f : Fmt) (mode : Rnd) (sat : Bool) (neg : Bool) (m : Nat) (e : Int) : Nat :=
  if m = 0 then f.signed neg 0
  else
    let top : Int := m.log2 + e
    let q : Int := max top (1 - f.bias) - f.fw
    let n : Nat :=
      if q ≤ e then m * 2 ^ (e - q).toNat
      else (divPow mode (if neg then -(m : Int) else m) (q - e).toNat).natAbs
    let mag := ((q + f.fw + f.bias - 1).toNat) * 2 ^ f.fw + n
    if mag ≤ f.most then f.signed neg mag
    else if sat || !toInf mode neg then f.signed neg f.most
    else f.signed neg f.inf

/-- An exact signed number rounded; an exact zero takes the sign `zneg`. -/
def Fmt.roundInt (f : Fmt) (mode : Rnd) (sat zneg : Bool) (n e : Int) : Nat :=
  if n = 0 then f.signed zneg 0 else f.round mode sat (n < 0) n.natAbs e

/-- Where a NaN arises (R102): a varying word or not, the thread, the PC. -/
structure Origin where
  v : Bool
  t : Nat
  pc : Nat
  deriving DecidableEq, Repr

/-- h of R102: PC[18:3] xor PC[34:19] xor PC[47:35]. -/
def pcHash (pc : Nat) : Nat := (pc / 2 ^ 3 % 2 ^ 16) ^^^ (pc / 2 ^ 19 % 2 ^ 16) ^^^ (pc / 2 ^ 35 % 2 ^ 13)

/-- The pattern of an invalid operation (R102), given h. -/
def Fmt.invalidH (f : Fmt) (v : Bool) (t h : Nat) : Nat :=
  let vt := if v then t else 0
  if f == .fp32 then 0x7FC00000 + v.toNat * 2 ^ 21 + vt * 2 ^ 16 + h
  else if f == .fp16 then 0x7E00 + v.toNat * 2 ^ 8 + vt * 2 ^ 3 + h % 8
  else if f == .bf16 then 0x7FC0 + v.toNat * 2 ^ 5 + vt
  else if f.e4 then 0x7F
  else 0x7E

/-- The pattern of an invalid operation (R102). -/
def Fmt.invalid (f : Fmt) (o : Origin) : Nat := f.invalidH o.v o.t (pcHash o.pc)

/-- `n * 2^e` as an integer multiple of `2^q`, for `q ≤ e`. -/
def scaleTo (n e q : Int) : Int := n * (2 ^ (e - q).toNat : Nat)

/-- The exact sum of `a * 2^ea` and `b * 2^eb`: mantissa and exponent. -/
def addExact (a ea b eb : Int) : Int × Int :=
  let q := min ea eb
  (scaleTo a ea q + scaleTo b eb q, q)

/-- A signed mantissa. -/
def signedM (neg : Bool) (m : Nat) : Int := if neg then -(m : Int) else m

/-- The first NaN among the operands, quieted (R103), if any. -/
def Fmt.firstNan (f : Fmt) : List Nat → Option Nat
  | [] => none
  | x :: xs => if f.isNan x then some (f.quiet x) else f.firstNan xs

/-- Sum of two values that are no NaN, rounded once (R100): an exact zero is +0, or -0 under RDN, except that equal signs
are kept. -/
def Fmt.sum (f : Fmt) (mode : Rnd) (inv : Nat) (a b : FVal) : Nat :=
  match a, b with
  | .nan, _ | _, .nan => inv
  | .inf s, .inf s' => if s == s' then f.signed s f.inf else inv
  | .inf s, .fin .. | .fin .., .inf s => f.signed s f.inf
  | .fin s m e, .fin s' m' e' =>
    let r := addExact (signedM s m) e (signedM s' m') e'
    f.roundInt mode false (if m = 0 && m' = 0 && s == s' then s else mode == .rdn) r.1 r.2

/-- The exact product of two values that are no NaN; none when it is 0 * infinity. -/
def FVal.mul (a b : FVal) : Option FVal :=
  match a, b with
  | .nan, _ | _, .nan => none
  | .inf s, .inf s' => some (.inf (s != s'))
  | .inf s, .fin s' m _ | .fin s' m _, .inf s => if m = 0 then none else some (.inf (s != s'))
  | .fin s m e, .fin s' m' e' => some (.fin (s != s') (m * m') (e + e'))

/-- The opposite value. -/
def FVal.opp : FVal → FVal
  | .nan => .nan
  | .inf s => .inf !s
  | .fin s m e => .fin (!s) m e

/-- A value rounded to the format; an infinity stays. -/
def Fmt.ofVal (f : Fmt) (mode : Rnd) (sat : Bool) (inv : Nat) : FVal → Nat
  | .nan => inv
  | .inf s => if f.e4 && sat then f.signed s f.most else f.signed s f.inf
  | .fin s m e => f.round mode sat s m e

/-- a + b (R316). -/
def Fmt.add (f : Fmt) (mode : Rnd) (o : Origin) (a b : Nat) : Nat :=
  (f.firstNan [a, b]).getD (f.sum mode (f.invalid o) (f.val a) (f.val b))

/-- a - b (R316). -/
def Fmt.sub (f : Fmt) (mode : Rnd) (o : Origin) (a b : Nat) : Nat :=
  (f.firstNan [a, b]).getD (f.sum mode (f.invalid o) (f.val a) (f.val b).opp)

/-- a * b (R316). -/
def Fmt.mul (f : Fmt) (mode : Rnd) (o : Origin) (a b : Nat) : Nat :=
  (f.firstNan [a, b]).getD (match (f.val a).mul (f.val b) with
    | none => f.invalid o
    | some p => f.ofVal mode false (f.invalid o) p)

/-- p * q + s rounded once, the NaNs taken in the order of `nans` (R321). -/
def Fmt.fma (f : Fmt) (mode : Rnd) (o : Origin) (nans : List Nat) (p q s : Nat) : Nat :=
  (f.firstNan nans).getD (match (f.val p).mul (f.val q) with
    | none => f.invalid o
    | some r => f.sum mode (f.invalid o) r (f.val s))

/-- An order on patterns that are no NaN; -0 below +0 when `zeros`, else equal to it. -/
def Fmt.key (f : Fmt) (zeros : Bool) (x : Nat) : Int :=
  let mag := x % f.sign
  if f.neg x then -(mag : Int) - (if zeros then 1 else 0) else mag

/-- Minimum or maximum (R324). -/
def Fmt.minmax (f : Fmt) (isMax : Bool) (a b : Nat) : Nat :=
  if f.isNan a then (if f.isNan b then f.quiet a else b)
  else if f.isNan b then a
  else if isMax then (if f.key true a < f.key true b then b else a)
  else if f.key true b < f.key true a then b else a

/-- Comparison (R318). -/
def Fmt.cmp (f : Fmt) (c : FCond) (a b : Nat) : Bool :=
  let un := f.isNan a || f.isNan b
  let x := f.key false a
  let y := f.key false b
  match c with
  | .eq => !un && x == y
  | .ne => un || !(x == y)
  | .lt => !un && decide (x < y)
  | .le => !un && decide (x ≤ y)
  | .gt => !un && decide (y < x)
  | .ge => !un && decide (y ≤ x)
  | .num => !un
  | .nan => un

/-- x rounded to an integral value (R326). -/
def Fmt.integral (f : Fmt) (mode : Rnd) (x : Nat) : Nat :=
  match f.val x with
  | .nan => f.quiet x
  | .inf _ => x
  | .fin s m e =>
    if 0 ≤ e then x else f.roundInt mode false s (divPow mode (signedM s m) (-e).toNat) 0

/-- x * 2^n rounded once (R327); zero and infinity keep their values. -/
def Fmt.scale (f : Fmt) (mode : Rnd) (x : Nat) (n : Int) : Nat :=
  match f.val x with
  | .fin s m e => f.round mode false s m (e + n)
  | _ => x

/-- The integer that FSCL takes from its B: truncated towards zero, then clamped (R327). -/
def Fmt.scaleBy (f : Fmt) (x : Nat) : Int :=
  match f.val x with
  | .nan => 0
  | .inf s => if s then -512 else 512
  | .fin s m e =>
    clampInt (-512) 512 (if 0 ≤ e then signedM s m * (2 ^ e.toNat : Nat) else divPow .rz (signedM s m) (-e).toNat)

/-- floor(log2 |x|) in the format (R323). -/
def Fmt.exponent (f : Fmt) (x : Nat) : Nat :=
  match f.val x with
  | .nan => f.quiet x
  | .inf _ => f.inf
  | .fin _ m e => if m = 0 then f.signed true f.inf else f.roundInt .rne false false (m.log2 + e) 0

/-- The significand in [1, 2) with x's sign (R322). -/
def Fmt.significand (f : Fmt) (x : Nat) : Nat :=
  match f.val x with
  | .nan => f.quiet x
  | .inf _ => x
  | .fin s m _ => if m = 0 then x else f.round .rne false s m (-(m.log2 : Int))

/-- The class bits of FCLASS (R317). -/
def Fmt.classBits (f : Fmt) (x : Nat) : Nat :=
  match f.val x with
  | .nan => if x / 2 ^ (f.fw - 1) % 2 = 1 then 2 ^ 9 else 2 ^ 8
  | .inf s => if s then 2 ^ 0 else 2 ^ 7
  | .fin s m _ =>
    if m = 0 then (if s then 2 ^ 3 else 2 ^ 4)
    else if m < 2 ^ f.fw then (if s then 2 ^ 2 else 2 ^ 5)
    else if s then 2 ^ 1 else 2 ^ 6

/-- A NaN cut to a format: sign and payload kept from the top, quieted (R103, R401); E4M3 has one payload. -/
def Fmt.cutNan (src dst : Fmt) (x : Nat) : Nat :=
  if dst.e4 then dst.signed (src.neg x) 0x7F
  else
    let fr := x % 2 ^ src.fw
    let fr' := if src.fw ≤ dst.fw then fr * 2 ^ (dst.fw - src.fw) else fr / 2 ^ (src.fw - dst.fw)
    dst.quiet (dst.signed (src.neg x) (dst.inf + fr'))

/-- A NaN converted between formats (R103); the 8-bit formats have one NaN each (R312). -/
def Fmt.convNan (src dst : Fmt) (x : Nat) : Nat := if dst.e4 then 0x7F else if dst == .e5m2 then 0x7E else src.cutNan dst x

/-- Floating point to floating point (R312). -/
def Fmt.conv (src dst : Fmt) (mode : Rnd) (sat : Bool) (x : Nat) : Nat :=
  match src.val x with
  | .nan => src.convNan dst x
  | v => dst.ofVal mode sat 0 v

/-- Floating point to an integer, rounded and exact; none for a NaN; an infinity is a number out of every range. -/
def Fmt.toInt (f : Fmt) (mode : Rnd) (x : Nat) : Option Int :=
  match f.val x with
  | .nan => none
  | .inf s => some (if s then -(2 ^ 64) else 2 ^ 64)
  | .fin s m e => some (if 0 ≤ e then signedM s m * (2 ^ e.toNat : Nat) else divPow mode (signedM s m) (-e).toNat)

/-- FP32 to BF16 or FP16 with stochastic rounding by r[15:0] (R101). An infinite source stays infinite under `sat` too, as R100 has it for
the other conversions (DESIGN CHOICE); log 55. -/
def Fmt.stochastic (dst : Fmt) (sat : Bool) (x r : Nat) : Nat :=
  match Fmt.fp32.val x with
  | .nan => Fmt.fp32.convNan dst x
  | .inf s => dst.signed s dst.inf
  | .fin s m e =>
    if m = 0 then dst.signed s 0
    else
      let q : Int := max (m.log2 + e) (1 - dst.bias) - dst.fw
      let d := (q - e).toNat
      let n := if q ≤ e then m * 2 ^ (e - q).toNat else m / 2 ^ d
      let rem := if q ≤ e then 0 else m % 2 ^ d
      let n' := if (r % 2 ^ 16) * 2 ^ d < rem * 2 ^ 16 then n + 1 else n
      let mag := ((q + dst.fw + dst.bias - 1).toNat) * 2 ^ dst.fw + n'
      if mag ≤ dst.most then dst.signed s mag else dst.signed s (if sat then dst.most else dst.inf)

/-- A small integer in a format, exactly (R31). -/
def Fmt.ofInt (f : Fmt) (n : Int) : Nat := f.roundInt .rne false false n 0

/-! ## The generator (R113) -/

/-- One round. -/
def philoxRound (k0 k1 : Nat) (c : Nat × Nat × Nat × Nat) : Nat × Nat × Nat × Nat :=
  let p0 := 0xD2511F53 * c.1
  let p1 := 0xCD9E8D57 * c.2.2.1
  (p1 / 2 ^ 32 ^^^ c.2.1 ^^^ k0, p1 % 2 ^ 32, p0 / 2 ^ 32 ^^^ c.2.2.2 ^^^ k1, p0 % 2 ^ 32)

/-- `n` rounds, the key stepped between them. -/
def philoxRounds : Nat → Nat → Nat → Nat × Nat × Nat × Nat → Nat × Nat × Nat × Nat
  | 0, _, _, c => c
  | n + 1, k0, k1, c => philoxRounds n ((k0 + 0x9E3779B9) % 2 ^ 32) ((k1 + 0xBB67AE85) % 2 ^ 32) (philoxRound k0 k1 c)

/-- Output word 0 of philox. -/
def philox0 (k0 k1 c0 c1 c2 c3 : Nat) : Nat := (philoxRounds 10 k0 k1 (c0, c1, c2, c3)).1

end Sys2Proof.Machine
end

