-- ==== Sys2Proof/Config.lean ====
section
/-! DEFINITION. What the spec leaves open, as uninterpreted constants (nothing can evaluate them), and the fixed sizes it
states. Each free value is applied to a counter of State or to the operands it depends on. -/

namespace Sys2Proof.Config

/-- Nanoseconds that pass at a step (R413 leaves every duration open); log 5. -/
opaque tick : Nat → Nat

/-- Whether an access uses a cached descriptor or walks the tables again, where R137 allows either; log 8. -/
opaque useCached : Nat → Bool

/-- A byte read through the remote-module window (R135): the remote module's data; log 9. -/
opaque remoteByte : Nat → Nat → Byte

/-- Length of the section of the sequencers in a context image, in units of 64 bytes, less one, up to 4 MiB (R280 states none); log 10. -/
opaque imageUnits : Nat → Nat

/-- Byte `i` of the `n`-th context image written, where no rule lays it out (R280); log 10. -/
opaque imageByte : Nat → Nat → Byte

/-- Blocks that a copy has moved when a stop halts it (R283: after a whole block); log 11. -/
opaque copyProgress : Nat → Nat

/-- The VA in a copy's trace record, from its source and destination (R279 does not say which it is); log 16. -/
opaque copyVa : Nat → Nat → Nat

/-- The VA reported by a GZDEL or GZHOLD whose handle names no region (R261 asks for one, R336 gives none); log 17. -/
opaque glazeVa : Nat → Nat

/-- Where in the eviction area the search for a free image starts (R262, R272 do not say which image is used); log 18. -/
opaque evictSlot : Nat → Nat

/-- The value that a load with a poisoned address leaves in its poisoned destination (R268 gives it the poison alone); log 52. -/
opaque poisonedValue : Nat → Nat → Word

/-- Which of the elements left of a wide store is written next (R168 orders each by itself); log 53. -/
opaque nextElement : Nat → Nat

/-- Which of the words that a fetch may return it does (R67: the old word or the new one); log 61. -/
opaque staleWord : Nat → Nat

/-- Parts of a copy that move at one of its steps, less one (R286 gives no pace); log 33. -/
opaque copyPace : Nat → Nat

/-- Which of the parts left of a copy's current unit moves next (R183 decides each element by itself); log 33. -/
opaque copyOrder : Nat → Nat → Nat

/-- Kind of the notice that reports a refused image (R45, R260 ask for one, R273 lists no kind for it); log 19. -/
opaque rejectKind : Nat → Nat

/-- Threads per warp (R5). -/
abbrev threads : Nat := 32

/-- Dies of the module (R12). -/
abbrev dies : Nat := 24

/-- Cores of a die (R14). -/
abbrev coresPerDie : Nat := 32

/-- Banks of a stack and rows of a bank (R18). -/
abbrev banks : Nat := 1024

/-- Rows of a bank (R18). -/
abbrev rows : Nat := 65536

end Sys2Proof.Config
end

