-- ==== Sys2Proof/Machine/State.lean ====
section
/-! DEFINITION. The state of the module as plain data: the agents (warps and matrix-sequencer programs), the contexts, the
dies with their stacks, the launches, memory, and the queue of pending inputs. `State.reset` is the module at power-up. -/

namespace Sys2Proof.Machine

/-- Reasons for which the machine stops. -/
inductive Fault where
  /-- Raised by `step` once BOOT_VERIFY has refused a firmware image: R284 says the boot halts. Safe: the module runs
  nothing after it. -/
  | bootHalted
  deriving DecidableEq, Repr

/-- Reasons for which the model gives an instruction no meaning. -/
inductive Refusal where
  /-- An arm of `exec` that has no meaning yet. Safe. -/
  | notModelled (mnemonic : String)
  deriving DecidableEq, Repr

/-- A finite map from numbers, as a list of pairs. -/
abbrev Assoc (α : Type) := List (Nat × α)

/-- Shape tags of varying registers (R43), U and A with the value that PROM wrote: an image of the register holds it (R44), whichever
threads are left. -/
inductive Tag where
  | u (value : Word)
  | a (base stride : Word)
  | g
  deriving DecidableEq, Repr

/-- A varying register: one value per thread, a poison bit per thread, a shape tag (R26, R43). -/
structure VReg where
  lanes : List Word
  poison : Mask
  tag : Tag
  deriving DecidableEq, Repr

/-- An affine register: base, stride and overflow bit (R26, R36). -/
structure AReg where
  base : Word
  stride : Word
  o : Bool
  deriving DecidableEq, Repr

/-- A mask-stack entry (R50). -/
structure MaskEntry where
  outer : Mask
  alt : Mask
  deriving DecidableEq, Repr

/-- An active loop level (R64). -/
structure Loop where
  start : Nat
  stop : Nat
  deriving DecidableEq, Repr

/-- A register an in-flight word will write (R69). -/
inductive Reg where
  | v (n : Nat)
  | k (n : Nat)
  | p (n : Nat)
  deriving DecidableEq, Repr

/-- The object of a binding (R173): a global address, a scratch offset, or group `g`'s clasp object. -/
inductive ObjRef where
  | global (va : Nat)
  | scratch (off : Nat)
  | clasp (g : Nat)
  deriving DecidableEq, Repr

/-- A binding-table entry (R173). -/
structure Binding where
  rs : Bool
  base : Nat
  len : Nat
  obj : ObjRef
  deriving DecidableEq, Repr

/-- An object held by a warp (R175): its address (a VA, or a scratch offset when `scr`), and whether shared. -/
structure Held where
  scr : Bool
  addr : Nat
  shared : Bool
  deriving DecidableEq, Repr

/-- Where an object's word lies: its physical address, or a scratch allocation and offset (R171). -/
inductive ObjKey where
  | mem (pa : Nat)
  | scr (alloc off : Nat)
  /-- of a request that a resume has brought to a die: the context and the VA, while the page cannot be reached (R283) -/
  | away (ctx va : Nat)
  deriving DecidableEq, Repr

/-- Why an agent's issue is held. `slots`, `sleep`, `mirror`, `det`, `notice`, `room` and `park` holds end with the word at PC issuing
again; `acq` and `clasp` holds end with the grant, which completes the word and its NAS; `replay` is TRET's wait. -/
inductive Hold where
  | none
  | slots (m : BitVec 8)
  | acq (key : ObjKey) (o : Held) (nas : Nas)
  | clasp (g : Nat) (whole : Bool) (nas : Nas)
  | sleep (til : Nat)
  | mirror
  | replay (m : BitVec 8)
  | det
  | notice
  /-- until every array of a core mask has room (R219) -/
  | room (m : BitVec 4)
  /-- of a PARK: until the arrays of the die have finished, while its sequencers stand still (R236) -/
  | park
  /-- of an evicted warp: its acquire was granted, and the NAS of the ACQ acts when it is back (R263) -/
  | granted (nas : Nas)
  deriving DecidableEq, Repr

/-- A cached translation: the page's VA (R138). -/
structure TlbEntry where
  page : Nat
  /-- the leaf descriptor and its level -/
  desc : DWord
  level : Nat
  deriving DecidableEq, Repr

/-- An in-flight long-latency word with the values it captured at issue (R69, R70, R253). -/
structure Inflight where
  slot : Nat
  instr : Instr
  word : DWord
  pc : Nat
  la : Nat
  /-- words of the window not yet issued (R69) -/
  left : Nat
  /-- executed set (R46); all ones for a uniform-class or class-X word -/
  e : Mask
  base : DWord
  av : List Word
  bv : List Word
  /-- data registers D, D+1, ... each with its lanes -/
  dv : List (List Word)
  pa : Mask
  pb : Mask
  pd : Mask
  dests : List Reg
  /-- not withdrawn by a trap (R249) -/
  detached : Bool
  /-- every thread has acted (its slot is complete); kept for its pending destinations under LA = 15 -/
  finished : Bool
  ecause : Nat
  fmask : Mask
  eaddr : Nat
  /-- the elements written or read of the lowest thread that has not acted (R168); of a load, what each was, with its poison; of a
  store to memory, the page that its first element reached -/
  part : BitVec 4
  got : Assoc (List Byte × Bool) := []
  page : Option TlbEntry := none
  /-- number of this pair-weight load, 0 if none (R239) -/
  pwNo : Nat
  /-- performed alone: replayed, or its partner is dead (R239, R241) -/
  alone : Bool
  /-- handle of the copy, request, forked program or glaze operation behind a detached word; for a memory word the logical clock
  at which it issued (R192) -/
  aux : Nat
  /-- issued in handler mode -/
  hnd : Bool
  /-- serial number of its issue -/
  no : Nat
  deriving DecidableEq, Repr

/-- A fault recorded at an agent with no replay entry (R286, R336), or found by a detached word. -/
structure Recorded where
  cause : Nat
  mask : Mask
  addr : Nat
  fpc : Nat
  /-- the resume address, where it is not the PC at the word boundary (R215) -/
  rpc : Option Nat
  /-- serial number of the issue of its word -/
  no : Nat := 0
  /-- of a word issued in handler mode -/
  hnd : Bool
  deriving DecidableEq, Repr

/-- A pending poison report (R139). -/
structure Report where
  mask : Mask
  addr : Nat
  fpc : Nat
  /-- of a word issued in handler mode -/
  hnd : Bool
  /-- where the word stands among those of its agent by issue -/
  no : Nat
  deriving DecidableEq, Repr

/-- A fault-domain signal (R259): originating cause and the faulting warp's id. -/
structure Signal where
  cause : Nat
  wid : Word
  deriving DecidableEq, Repr

/-- The completion of a detached word that the die holds while its warp is away (R162): the slot, and the k registers it writes. -/
structure HeldDone where
  slot : Nat
  regs : Assoc Word
  deriving DecidableEq, Repr

/-- A word's place in its agent's issue order: the serial number it would have in flight, and the logical clock. -/
structure IssueAt where
  no : Nat
  clock : Nat
  deriving DecidableEq, Repr

/-- An entry of a determinate launch's write buffer (R193). -/
inductive DetOp where
  | store (scr : Bool) (addr : Nat) (bytes : List Byte) (poison : Bool)
  /-- `v`, `t` and `pc`: the origin of its word (R102) -/
  | red (scr : Bool) (addr : Nat) (op : AtomOp) (wide : Bool) (d : DWord) (poison v : Bool) (t pc : Nat)
  | atom (scr : Bool) (addr : Nat) (bytes : List Byte) (poison : Bool)
  /-- the threads of a clean store have covered the 32-byte codeword at an address (R139) -/
  | clean (scr : Bool) (addr : Nat)
  | rel (o : Held)
  /-- the arrival of a clasp's REL part in group `g` (R195) -/
  | arrive (g : Nat)
  deriving DecidableEq, Repr

/-- A buffered write with the clock at which its word issued (R192, R193). -/
structure DetEntry where
  clock : Nat
  op : DetOp
  deriving DecidableEq, Repr

/-- Warp or matrix-sequencer program. -/
inductive Kind where
  | warp | seq
  deriving DecidableEq, Repr

/-- Where an agent is in its life. -/
inductive Status where
  /-- no agent -/
  | vacant
  /-- a forked program that has not entered its sequencer's queue (R214) -/
  | waiting
  /-- a queued program that has not started (R214) -/
  | queued
  | live
  /-- no thread live, or a program past its exit: waits for its slots (R61, R217) -/
  | exiting
  | retired
  | parked
  | evicted
  /-- a program stopped by a fault not yet delivered (R218) -/
  | faulted
  deriving DecidableEq, Repr

/-- One issued rendezvous that has not completed (R215). -/
structure Rdv where
  ag : Nat
  k : Nat
  n : Word
  slot : Nat
  pc : Nat
  next : Nat
  /-- the logical clock at its issue (R192) -/
  clock : Nat
  deriving DecidableEq, Repr

/-- A warp or a matrix-sequencer program with all its state. -/
structure Agent where
  id : Nat
  kind : Kind
  status : Status
  die : Nat
  core : Nat
  ridx : Nat
  ctx : Nat
  launch : Nat
  wid : Word
  nw : Word
  wx : Word
  wy : Word
  wz : Word
  gm : List Word
  pc : Nat
  vn : Nat
  v : Assoc VReg
  k : Assoc Word
  a : Assoc AReg
  p : Assoc Mask
  b : BitVec 4
  exm : Mask
  live : Mask
  /-- %wst: [0] QSAT, [1] PDIV, [2] AOV (R32) -/
  wst : BitVec 3
  /-- the logical clock (R192); of a program, the serial number of its FORK -/
  lclk : Nat
  cbm : Assoc Mask
  lc : Assoc Word
  loops : List Loop
  /-- top first -/
  link : List Nat
  /-- top first -/
  msk : List MaskEntry
  j0 : Nat
  j1 : Nat
  phwm : Word
  prio : Nat
  argp : DWord
  handler : Bool
  tframe : DWord
  binds : List Binding
  /-- bindings that UNBIND removed, each with the serial number that the next word to be put in flight had then (R402) -/
  past : List (Binding × Nat)
  held : List Held
  inflight : List Inflight
  hold : Hold
  /-- the wait for a grant that an evicted warp keeps (R263), until TRET's steps are over -/
  wait : Hold
  /-- recorded faults of detached words -/
  recorded : List Recorded
  /-- completions held while the agent is away (R162) -/
  late : List HeldDone
  report : Option Report
  /-- faults delivered from sequencer programs (R218) -/
  delivered : List Recorded
  wdSignal : Bool
  fdSignal : Option Signal
  /-- groups in whose current round the warp has arrived through CLASPA or CLASP (R177, R211) -/
  arrived : List Nat
  /-- groups whose CLASPA still waits for its release (R177) -/
  arriving : List Nat
  /-- stopped in a CLASP after its arrival (R252 ARR) -/
  arrPending : Bool
  /-- the last trap, eviction or exchange withdrew words that have not replayed (R249) -/
  caught : Bool
  /-- by slot, the logical clocks at which the words that were withdrawn had issued (R192) -/
  clocks : Assoc Nat
  /-- a TRET of its has issued, and waits for its replays (R257, R266) -/
  returning : Bool
  pwCount : Nat
  /-- where its first TRIG issued (R207); of a program, where its FORK did (R179) -/
  trig : Option IssueAt
  detBuf : List DetEntry
  scratch : Nat
  privBase : Nat
  pw : Nat
  /-- since when the agent has been ready, and whether it was at the last step (R216) -/
  readySince : Nat
  wasReady : Bool
  /-- it has become ready at this instant and has not acted since (R165); log 5 -/
  prompt : Bool := false
  passed : Nat
  /-- a program's forking warp (a handle) and parties (warp ids of its launch) (R214); its code address stands in `argp` -/
  forker : Nat
  parties : List Nat
  pairGroup : Bool
  rdvs : List Rdv
  rdvCount : Assoc Nat
  /-- the fault that stopped a program: cause, PC, address (R218) -/
  seqFault : Option Recorded
  /-- address of the image or frame of an agent that is not resident -/
  image : Nat
  /-- the cause for which its image was refused (R45, R260) -/
  refused : Option Nat
  deriving DecidableEq, Repr

/-- A context descriptor's fields (R272). -/
structure Descriptor where
  root : Nat
  he : Nat
  ta : Nat
  evict : Nat
  save : Nat
  ab : Nat
  noticeBase : Nat
  noticeSize : Nat
  watchdog : Nat
  moff : DWord
  mid : Nat
  cap : Nat
  traceBase : Nat
  traceSize : Nat
  traceMask : BitVec 32
  vf : Nat
  weight : Nat
  deriving DecidableEq, Repr

/-- Where a context is (R271). -/
inductive Residency where
  | absent | active | locket | saved
  deriving DecidableEq, Repr

/-- A range counter (R213). -/
structure RangeCtr where
  next : Word
  rem : Word
  m : Word
  d : Word
  deriving DecidableEq, Repr

/-- A notice (R273). -/
structure Notice where
  kind : Nat
  wid : Word
  addr : Nat
  /-- the agent that waits with it while the queue is full -/
  poster : Option Nat
  deriving DecidableEq, Repr

/-- An armed arrival slot (R209). -/
structure Arrival where
  record : Nat
  tag : BitVec 8
  /-- the agent that armed it, and where its LARM issued (R346) -/
  by_ : Nat × IssueAt
  deriving DecidableEq, Repr

/-- One tenant's state on one die (R271, R280). -/
structure Ctx where
  die : Nat
  system : Bool
  desc : Descriptor
  /-- a reserved field of the descriptor is non-zero (R272) -/
  badDesc : Bool
  /-- the descriptor that firmware has written since, read when the context becomes resident (R272), and whether a reserved field
  of it is non-zero -/
  written : Option (Descriptor × Bool)
  residency : Residency
  suspect : Bool
  /-- the decode table (R76): none is the default table, otherwise its 1,088 entries -/
  table : Option (List (BitVec 16))
  tids : Assoc (List Word)
  mailboxes : Assoc DWord
  ranges : Assoc RangeCtr
  /-- the armed arrival slots; any other is disarmed -/
  arrivals : Assoc Arrival
  /-- the arrivals, with their payload addresses, that wait to take effect until the arming warp's earlier writes are visible (R346) -/
  landed : List (Arrival × Nat)
  counters : Assoc Nat
  counterSel : Assoc (BitVec 32)
  noticeTail : Nat
  noticeUsed : Nat
  noticeWait : List Notice
  traceHead : Nat
  traceUsed : Nat
  tlb : List TlbEntry
  /-- by address / 8, words of code that stores have replaced since a launch of the context was last dispatched (R67) -/
  stale : Assoc (List DWord)
  /-- dispatch stopped by a full save or a stop (R265, R283) -/
  stopped : Bool
  /-- serial number of the image in the save area, when one was written -/
  imageNo : Option Nat
  deriving DecidableEq, Repr

/-- A group-table entry (R203), its members resolved. -/
structure Group where
  fd : Bool
  pair : Bool
  cor : Bool
  drain : Bool
  gang : Bool
  clasp : Nat
  members : List Nat
  deriving DecidableEq, Repr

/-- A launch: the fields of its task record (R199) and its progress (R205-R208). -/
structure Launch where
  record : Nat
  ctx : Nat
  vf : Nat
  code : Nat
  args : Nat
  prio : Nat
  queuePrio : Nat
  spread : Bool
  nx : Nat
  ny : Nat
  nz : Nat
  det : Bool
  pre : Bool
  pair : Bool
  qn : Nat
  vn : Nat
  pw : Nat
  priv : Nat
  scr : Nat
  wneed : Nat
  xneed : Nat
  cneed : Nat
  scnt : Nat
  succ : Nat
  cword : Nat
  groups : List Group
  /-- ids of the warps admitted so far -/
  admitted : List Nat
  exited : List Nat
  triggered : List Nat
  released : Bool
  /-- ended by GEND or an undeliverable program fault (R258, R218) -/
  ended : Bool
  /-- quanta committed (R193) -/
  commits : Nat
  /-- watchdog (R266): while the timer runs, when its interval started; else how much of the interval had passed -/
  wdStart : Nat
  /-- whether it expired once -/
  wdFired : Bool
  dispatched : Nat
  deriving DecidableEq, Repr

/-- A submitted task record (R201, R202). -/
structure QRec where
  record : Nat
  vf : Nat
  /-- the agent that posted it and where its TSPAWN issued, while the record is not read yet (R212) -/
  poster : Option (Nat × IssueAt)
  ready : Bool
  prio : Nat
  /-- since when it has been ready at this priority -/
  since : Nat
  deriving DecidableEq, Repr

/-- Typed buffers of one launch on one core (R125, R127, R235). -/
structure Bufs where
  launch : Nat
  die : Nat
  core : Nat
  wsize : Nat
  xsize : Nat
  csize : Nat
  w : List Host.Cell
  x : List Host.Cell
  c : List Host.Cell
  /-- granule tags: granule number and tag words; an unlisted granule is RAW -/
  wtags : Assoc (List DWord)
  xtags : Assoc (List DWord)
  /-- poisoned 32-byte units -/
  wpois : List Nat
  xpois : List Nat
  cpois : List Nat
  deriving DecidableEq, Repr

/-- A scratch allocation (R123). -/
structure Scratch where
  size : Nat
  bytes : List Host.Cell
  poison : List Nat
  deriving DecidableEq, Repr

/-- Power states (R285). -/
inductive Power where
  | run | idle | off | standby
  deriving DecidableEq, Repr

/-- Debug states (R285). -/
inductive Debug where
  | closed | tenant | vendor
  deriving DecidableEq, Repr

/-- A bezel window (R274). -/
structure Window where
  base : Nat
  limit : Nat
  r : Bool
  w : Bool
  remote : Bool
  deriving DecidableEq, Repr

/-- A die's bezel (R274). -/
structure Bezel where
  peer : BitVec 24
  link : BitVec 2
  rmod : DWord
  wins : Assoc Window
  deriving DecidableEq, Repr

/-- A registered glaze region (R146, R149, R150). Row `i` lies at physical address `rows[i]`. -/
structure Region where
  ctx : Nat
  op : RowOp
  elt : Elt
  sat : Bool
  per : Nat
  c0 : Word
  c1 : Word
  nrows : Nat
  /-- physical pages of 64 KiB in order, and the row offset in the first -/
  pages : List Nat
  first : Nat
  delta : Int
  base : Nat
  desc : Nat
  /-- registration instant in 1/512 ns, and the first window that may be applied: not 0 after a stop (R283) -/
  t0 : Nat
  win0 : Nat
  /-- instants at which the region was held (true) or resumed (false), latest first -/
  holds : List (Nat × Bool)
  /-- last window applied, plus one, per row index -/
  applied : Assoc Nat
  deriving DecidableEq, Repr

/-- A row request (R153, R154). `accepted` is false while it waits at the controller. -/
structure Req where
  id : Nat
  die : Nat
  bank : Nat
  row : Nat
  op : RowOp
  elt : Elt
  sat : Bool
  now : Bool
  c0 : Word
  c1 : Word
  ctx : Nat
  ag : Nat
  slot : Nat
  va : Nat
  accepted : Bool
  /-- entry of the bank queue, 0 to 15 -/
  entry : Nat
  time : Nat
  deriving DecidableEq, Repr

/-- A stack's current sweep (R140): its nominal start in 1/512 ns, its rate, and the rate of the sweep before it, none for the first
since the stack left reset. -/
structure Sweep where
  start : Nat
  hot : Bool
  was : Option Bool
  deriving DecidableEq, Repr

/-- A restore that the concurrency cap has postponed (R141, R157): bank and row, its nominal visit in 1/512 ns, and the bank's last wrap
in ns. -/
structure Late where
  bank : Nat
  row : Nat
  visit : Nat
  wrap : Nat
  deriving DecidableEq, Repr

/-- One compute die with its stack. -/
structure Die where
  released : Bool
  cores : Nat
  /-- rows enabled per matrix array (R24), 0 before the first ramp step -/
  ramp : Assoc Nat
  power : Power
  debug : Debug
  bezel : Bezel
  dirty : List Nat
  regions : Assoc Region
  sweep : Sweep
  /-- the stack is above 85 degrees: the rate from the next nominal wrap on (R18) -/
  hot : Bool
  /-- postponed restores, oldest first -/
  late : List Late
  /-- per bank the nominal visit of the row 65,535 that it last restored while operations were pending, and the instant in ns -/
  wraps : Assoc (Nat × Nat)
  /-- the slot last served (its start in 1/512 ns), and the restore weight and demand activations started in it (R157) -/
  slot : Nat
  weight : Nat
  demands : Nat
  /-- rows (bank, row) that an access waits to activate (R157) -/
  waits : List (Nat × Nat)
  /-- the outstanding faulting pages: context and page (R138) -/
  faults : List (Nat × Nat)
  /-- the power cap in force (R272), none before the first -/
  cap : Option Nat
  /-- an exchange has been requested: sequencers stopped (R236) -/
  exchanging : Bool
  /-- the times until which the current limiter withholds matrix K-steps and varying words (R21) -/
  withheldM : Nat
  withheldV : Nat
  deriving DecidableEq, Repr

/-- Kinds of copy-engine command. -/
inductive CopyKind where
  | cpy | tload | tstor | node
  deriving DecidableEq, Repr

/-- A copy-engine command (R286, R309, R392, R400). -/
structure Copy where
  id : Nat
  kind : CopyKind
  ctx : Nat
  die : Nat
  core : Nat
  launch : Nat
  /-- issuing agent and slot; for a node, the record address -/
  ag : Nat
  slot : Nat
  pc : Nat
  srcSp : CpySpace
  dstSp : CpySpace
  src : Nat
  dst : Nat
  /-- length in blocks, and blocks done -/
  blocks : Nat
  done : Nat
  /-- address of the descriptor (CPY) -/
  descAddr : Nat
  scratch : Nat
  /-- operand word, first row, flags and entry copy (TLOAD, TSTOR) -/
  opword : Word
  row0 : Nat
  transposed : Bool
  chunks : Nat
  bufX : Bool
  tile : Nat
  entry : List Word
  /-- of the current unit: the bytes of its parts (4 until its first part moves), the parts read (each with the poison of its codewords), and
  the parts written -/
  grain : Nat
  got : Assoc (List Byte × List Bool)
  put : List Nat
  deriving DecidableEq, Repr

/-- A matrix operation accepted by the arrays of its mask (R219). -/
structure MOp where
  id : Nat
  ag : Nat
  slot : Nat
  pc : Nat
  instr : Instr
  die : Nat
  cluster : Nat
  cm : BitVec 4
  launch : Nat
  ctx : Nat
  /-- operand words or scalar, in the order of the operands -/
  words : List Word
  /-- copies of their tensor identifier entries (R131) -/
  entries : List (List Word)
  started : Bool
  /-- partner states at issue (R242): conditional dead, unconditional dead; none when no PAIR group -/
  pair : Option (Bool × Bool)
  deriving DecidableEq, Repr

/-- A mirrored write waiting for the buddy (R136, R234, R272): the buddy's module, VA and the bytes. -/
structure Mirror where
  id : Nat
  ag : Nat
  va : Nat
  module : Nat
  buddy : Nat
  bytes : List Byte
  /-- the copy it belongs to, if it is a copy's write -/
  copy : Option Nat
  failed : Bool
  deriving DecidableEq, Repr

/-- A clasp round of one group (R177): members (warp ids) arrived in the current round, those of a completed round that have not
had their shared acquire, and the agents waiting for it. -/
structure Round where
  launch : Nat
  g : Nat
  arrived : List Nat
  passing : List Nat
  waiting : List Nat
  deriving DecidableEq, Repr

/-- A request waiting at an object's home (R175). -/
structure Waiter where
  ag : Nat
  key : ObjKey
  sh : Bool
  deriving DecidableEq, Repr

/-- Kinds of PCTL operation (R281). -/
inductive PctlKind where
  | stop | resume | reset
  deriving DecidableEq, Repr

/-- A PCTL operation that has not written its completion word (R283). -/
structure Pctl where
  id : Nat
  kind : PctlKind
  vf : Nat
  die : Nat
  /-- context and agent of the issuer, and the control block -/
  ctx : Nat
  ag : Nat
  block : Nat
  /-- the image that a resume has found, with the bytes that it read (R287) -/
  image : Option (Nat × List Byte)
  deriving DecidableEq, Repr

/-- The content of a context image (R280), by the serial number under which its bytes were written. -/
structure Image where
  no : Nat
  ctx : Ctx
  agents : List Agent
  regions : Assoc Region
  copies : List Copy
  scratches : Assoc Scratch
  bufs : List Bufs
  /-- the park image of each warp that was stopped, as runs of bytes (R260) -/
  parks : List (List (Nat × List Byte))
  /-- the records in the ready queues, in order -/
  queue : List QRec
  /-- the row requests that no bank has accepted -/
  reqs : List Req
  /-- per launch its record and the lowest warp id not yet admitted (R265) -/
  grid : List (Nat × Nat)
  deriving DecidableEq, Repr

/-- The boot's outcome (R284). -/
inductive Boot where
  | unverified | running | halted
  deriving DecidableEq, Repr

/-- The module. -/
structure State where
  /-- the agent whose word the step issues -/
  agent : Agent
  others : List Agent
  /-- inputs and events that have come about and wait to be taken, in order; log 4 -/
  events : List Instr
  /-- memory by physical address, in canonical form (R135); an unlisted byte reads 0, log 3 -/
  mem : List Host.Cell
  /-- poisoned 32-byte codewords of memory: physical address / 32 (R139) -/
  memPoison : List Nat
  ctxs : Assoc Ctx
  dies : Assoc Die
  launches : Assoc Launch
  queue : List QRec
  scratches : Assoc Scratch
  bufs : List Bufs
  reqs : List Req
  copies : List Copy
  mops : List MOp
  mirrors : List Mirror
  rounds : List Round
  waiters : List Waiter
  pctls : List Pctl
  images : List Image
  /-- writes sent through remote-module windows (R135): address and byte, latest first -/
  remoteWrites : List Host.Cell
  /-- the count of nanoseconds (R277) -/
  time : Nat
  boot : Boot
  standby : Bool
  /-- dies whose thermal trip the hardware has notified to firmware (R22), oldest first -/
  alerts : List Nat
  /-- the row (die, bank, row) that an access of the step now done has to wait for (R157), if any; log 51 -/
  blocked : Option (Nat × Nat × Nat)
  /-- trace records that wait for the row of their ring's next place (R157): context, die and bytes, oldest first; log 51 -/
  traces : List (Nat × Nat × List Byte)
  /-- the codewords of memory (physical address / 32) in which an uncorrectable error arises at the next steps, as the stacks have it (R139,
  R160); log 59 -/
  errors : List (List Nat)
  /-- which unit acts at the next steps, as outside timing has it: 0 an engine, `u + 1` the core or sequencer `u`; empty: the
  model's own order; log 4 -/
  turns : List Nat
  /-- the model's own counter, to which free values are applied; log 5 -/
  fresh : Nat
  /-- the model's own source of handles -/
  handles : Nat
  deriving DecidableEq, Repr

/-- The varying register every warp finds at launch (R88). -/
def VReg.zero : VReg := { lanes := [], poison := 0, tag := .u 0 }

/-- The affine register every warp finds at launch (R88). -/
def AReg.zero : AReg := { base := 0, stride := 0, o := false }

/-- No agent: every register at the value log 2 names. -/
def Agent.vacant : Agent :=
  { id := 0, kind := .warp, status := .vacant, die := 0, core := 0, ridx := 0, ctx := 0, launch := 0, wid := 0, nw := 0,
    wx := 0, wy := 0, wz := 0, gm := [], pc := 0, vn := 8, v := [], k := [], a := [], p := [], b := 0, exm := 0, live := 0,
    wst := 0, lclk := 0, cbm := [], lc := [], loops := [], link := [], msk := [], j0 := 0, j1 := 0, phwm := 0, prio := 0,
    argp := 0, handler := false, tframe := 0, binds := [], past := [], held := [], inflight := [], hold := .none, wait := .none, recorded := [], late := [],
    report := none, delivered := [], wdSignal := false, fdSignal := none, arrived := [], arriving := [], arrPending := false, caught := false, clocks := [], returning := false, pwCount := 0,
    trig := none, detBuf := [], scratch := 0, privBase := 0, pw := 0, readySince := 0, wasReady := false, passed := 0, forker := 0,
    parties := [], pairGroup := false, rdvs := [], rdvCount := [], seqFault := none, image := 0, refused := none }

/-- No descriptor written. -/
def Descriptor.zero : Descriptor :=
  { root := 0, he := 0, ta := 0, evict := 0, save := 0, ab := 0, noticeBase := 0, noticeSize := 0, watchdog := 0, moff := 0,
    mid := 0, cap := 0, traceBase := 0, traceSize := 0, traceMask := 0, vf := 0, weight := 0 }

/-- A context that firmware has not created. -/
def Ctx.absent : Ctx :=
  { die := 0, system := false, desc := Descriptor.zero, badDesc := false, written := none, residency := .absent, suspect := false,
    table := none, tids := [], mailboxes := [], ranges := [], arrivals := [], landed := [], counters := [], counterSel := [], noticeTail := 0,
    noticeUsed := 0, noticeWait := [], traceHead := 0, traceUsed := 0, tlb := [], stale := [], stopped := false,
    imageNo := none }

/-- A bezel that admits nothing. -/
def Bezel.closed : Bezel := { peer := 0, link := 0, rmod := 0, wins := [] }

/-- A die held in reset at power-up (R23). -/
def Die.held : Die :=
  { released := false, cores := 0, ramp := [], power := .off, debug := .closed, bezel := Bezel.closed, dirty := [],
    regions := [], sweep := { start := 0, hot := false, was := none }, hot := false, late := [], wraps := [], slot := 0, weight := 0,
    demands := 0, waits := [], faults := [], cap := none, exchanging := false, withheldM := 0,
    withheldV := 0 }

/-- The module at power-up: boot not verified, every die held in reset, no context, no agent, memory with nothing listed. -/
def State.reset : State :=
  { agent := Agent.vacant, others := [], events := [], mem := [], memPoison := [], ctxs := [], dies := [], launches := [],
    queue := [], scratches := [], bufs := [], reqs := [], copies := [], mops := [], mirrors := [], rounds := [],
    waiters := [], pctls := [], images := [], remoteWrites := [], time := 0, boot := .unverified, standby := false, alerts := [],
    blocked := none, traces := [], errors := [], turns := [], fresh := 0, handles := 0 }

end Sys2Proof.Machine
end

