-- ==== Sys2Proof/Machine/Store.lean ====
section
/-! DEFINITION. Finite maps, byte stores in canonical form, and little-endian access to them (R4). -/

namespace Sys2Proof.Machine

/-! ## Finite maps -/

/-- The value of key `k`, if any. -/
def aget? {α : Type} (m : Assoc α) (k : Nat) : Option α :=
  (m.find? (fun e => e.1 == k)).map Prod.snd

/-- The value of key `k`, or `d`. -/
def aget {α : Type} (m : Assoc α) (d : α) (k : Nat) : α := (aget? m k).getD d

/-- `m` with `k` mapped to `v`; keys kept rising. -/
def aset {α : Type} (m : Assoc α) (k : Nat) (v : α) : Assoc α :=
  m.filter (fun e => decide (e.1 < k)) ++ [(k, v)] ++ m.filter (fun e => decide (k < e.1))

/-- `m` without `k`. -/
def adel {α : Type} (m : Assoc α) (k : Nat) : Assoc α := m.filter (fun e => !(e.1 == k))

/-! ## Bytes in canonical form -/

/-- A byte store in canonical form: addresses rising, no listed zero. -/
def Memory.wf (m : List Host.Cell) : Bool :=
  match m with
  | [] => true
  | [c] => !(c.2 == 0)
  | c :: c' :: m => !(c.2 == 0) && decide (c.1 < c'.1) && Memory.wf (c' :: m)

/-- The byte at an address; an unlisted one reads 0 (log 3). -/
def Memory.get (m : List Host.Cell) (a : Nat) : Byte :=
  ((m.find? (fun c => c.1 == a)).map Prod.snd).getD 0

/-- The bytes at `a`, `a + 1`, ... -/
def Memory.read (m : List Host.Cell) (a n : Nat) : List Byte := (List.range n).map (fun i => Memory.get m (a + i))

/-- The cells of a run of bytes, the zeros left out. -/
def Memory.cells (a : Nat) (bs : List Byte) : List Host.Cell :=
  match bs with
  | [] => []
  | b :: bs => if b = 0 then Memory.cells (a + 1) bs else (a, b) :: Memory.cells (a + 1) bs

/-- A run of bytes written at `a`. -/
def Memory.write (m : List Host.Cell) (a : Nat) (bs : List Byte) : List Host.Cell :=
  m.filter (fun c => decide (c.1 < a)) ++ (Memory.cells a bs ++ m.filter (fun c => decide (a + bs.length ≤ c.1)))

/-! ## Little-endian numbers (R4) -/

/-- The number whose bytes these are, lowest first. -/
def leNat (bs : List Byte) : Nat :=
  bs.foldr (fun b n => 256 * n + b.toNat) 0

/-- `n` bytes of a number, lowest first. -/
def leBytes (n w : Nat) : List Byte :=
  (List.range n).map (fun i => BitVec.ofNat 8 (w / 256 ^ i))

/-- The number in `n` bytes at `a`. -/
def Memory.readNat (m : List Host.Cell) (a n : Nat) : Nat := leNat (Memory.read m a n)

/-! ## Masks -/

/-- Bit `t` of a mask. -/
def mbit (m : Mask) (t : Nat) : Bool := m.getLsbD t

/-- The mask of the threads for which `f` holds. -/
def maskOf (f : Nat → Bool) : Mask :=
  BitVec.ofNat 32 ((List.range 32).foldl (fun a t => if f t then a + 2 ^ t else a) 0)

/-- The threads of a mask in thread order. -/
def threadsOf (m : Mask) : List Nat := (List.range 32).filter (fun t => mbit m t)

/-- One bit per thread, or all. -/
def fullMask : Mask := BitVec.allOnes 32

/-- The mask of one thread. -/
def oneMask (t : Nat) : Mask := BitVec.ofNat 32 (2 ^ t)

/-- Number of set bits. -/
def popcount (n x : Nat) : Nat := (List.range n).foldl (fun a i => a + x / 2 ^ i % 2) 0

/-- Numbers `a`, ..., `b - 1`. -/
def span (a b : Nat) : List Nat := (List.range (b - a)).map (a + ·)

/-- A list with element `i` replaced. -/
def lset {α : Type} (l : List α) (i : Nat) (v : α) : List α := l.set i v

end Sys2Proof.Machine
end

