-- ==== Sys2Proof/Machine/Operands.lean ====
section
/-! DEFINITION. Registers of an agent, the operand forms (R26-R35), guards and executed sets (R46, R59), and the operand
checks that R78 orders: what a word asks of its operands, and the first cause it meets. -/

namespace Sys2Proof.Machine

/-! ## Register files -/

/-- k register `n`. -/
def Agent.kreg (ag : Agent) (n : Nat) : Word := aget ag.k 0 n

/-- A k register written. -/
def Agent.setK (ag : Agent) (n : Nat) (w : Word) : Agent := { ag with k := aset ag.k n w }

/-- The pair k[n+1]:k[n] (R4). -/
def Agent.kpair (ag : Agent) (n : Nat) : Nat := (ag.kreg n).toNat + 2 ^ 32 * (ag.kreg (n + 1)).toNat

/-- A k pair written. -/
def Agent.setPair (ag : Agent) (n : Nat) (w : Nat) : Agent :=
  (ag.setK n (BitVec.ofNat 32 w)).setK (n + 1) (BitVec.ofNat 32 (w / 2 ^ 32))

/-- Varying register `n`. -/
def Agent.vreg (ag : Agent) (n : Nat) : VReg := aget ag.v VReg.zero n

/-- Thread `t` of a varying register. -/
def VReg.lane (r : VReg) (t : Nat) : Word := r.lanes.getD t 0

/-- Affine register `n`. -/
def Agent.areg (ag : Agent) (n : Nat) : AReg := aget ag.a AReg.zero n

/-- An affine register written. -/
def Agent.setA (ag : Agent) (n : Nat) (r : AReg) : Agent := { ag with a := aset ag.a n r }

/-- Predicate `n`. -/
def Agent.preg (ag : Agent) (n : Nat) : Mask := aget ag.p 0 n

/-- A predicate written. -/
def Agent.setP (ag : Agent) (n : Nat) (m : Mask) : Agent := { ag with p := aset ag.p n m }

/-- Flag `n`. -/
def Agent.flag (ag : Agent) (n : Nat) : Bool := ag.b.getLsbD n

/-- A flag written. -/
def Agent.setB (ag : Agent) (n : Nat) (x : Bool) : Agent :=
  { ag with b := BitVec.ofNat 4 ((List.range 4).foldl (fun acc i => if (if i = n then x else ag.flag i) then acc + 2 ^ i else acc) 0) }

/-- Completion bitmap of slot `i` (R70); a slot never named is complete. -/
def Agent.cbmOf (ag : Agent) (i : Nat) : Mask := aget ag.cbm fullMask i

/-- A completion bitmap written. -/
def Agent.setCbm (ag : Agent) (i : Nat) (m : Mask) : Agent := { ag with cbm := aset ag.cbm i m }

/-- The threads of E written with `f`, their poison bits from `pois`; the register is tagged G (R43). An empty E writes
nothing (R46). -/
def Agent.writeV (ag : Agent) (n : Nat) (e : Mask) (f : Nat → Word) (pois : Mask) : Agent :=
  if e = 0 then ag
  else
    let r := ag.vreg n
    let r' : VReg :=
      { lanes := (List.range 32).map (fun t => if mbit e t then f t else r.lane t),
        poison := (r.poison &&& ~~~e) ||| (pois &&& e), tag := .g }
    { ag with v := aset ag.v n r' }

/-- The threads of E of a predicate written; log 23. -/
def Agent.writeP (ag : Agent) (n : Nat) (e : Mask) (f : Nat → Bool) : Agent :=
  ag.setP n ((ag.preg n &&& ~~~e) ||| (maskOf f &&& e))

/-! ## Special registers (R32) -/

/-- The agent's cluster (R14). -/
def Agent.cluster (ag : Agent) : Nat := ag.core / 4

/-- The frame field that a special of the trap frame names: its offset (R251, R252). -/
def frameField (i : Nat) : Nat :=
  match i with
  | 0x30 => 0x000
  | 0x31 => 0x010
  | 0x32 => 0x014
  | 0x33 => 0x008
  | 0x34 => 0x00C
  | _ => 0x004

/-- Special `i`, but for the frame fields 0x30-0x35, which `frame` holds. -/
def Agent.special (ag : Agent) (frame : Nat → Word) (i : Nat) : Word :=
  if i < 0x08 then
    match i with
    | 0x00 => ag.wid
    | 0x01 => ag.nw
    | 0x02 => ag.wx
    | 0x03 => ag.wy
    | 0x04 => ag.wz
    | 0x05 => BitVec.ofNat 32 ag.core
    | 0x06 => BitVec.ofNat 32 ag.cluster
    | _ => BitVec.ofNat 32 ag.die
  else if i < 0x0C then ag.gm.getD (i - 0x08) 0xFFFFFFFF
  else if i < 0x10 then
    match i with
    | 0x0C => ag.live
    | 0x0D => ag.exm
    | 0x0E => ag.wst.setWidth 32
    | _ => BitVec.ofNat 32 ag.lclk
  else if i < 0x18 then ag.cbmOf (i - 0x10)
  else if i < 0x1B then aget ag.lc 0 (i - 0x18)
  else if i < 0x30 then
    match i with
    | 0x1B => BitVec.ofNat 32 ag.link.length
    | 0x1C => BitVec.ofNat 32 ag.msk.length
    | 0x1D => ag.phwm
    | 0x1E => BitVec.ofNat 32 ag.argp.toNat
    | 0x1F => BitVec.ofNat 32 (ag.argp.toNat / 2 ^ 32)
    | _ => BitVec.ofNat 32 ag.prio
  else if i = 0x36 then BitVec.ofNat 32 ag.tframe.toNat
  else if i = 0x37 then BitVec.ofNat 32 (ag.tframe.toNat / 2 ^ 32)
  else frame (frameField i)

/-- A special of the trap frame (R33). -/
def isFrameSpecial (i : Nat) : Bool := decide (0x30 ≤ i) && decide (i < 0x38)

/-- A special that exists (R33). -/
def specialExists (i : Nat) : Bool := decide (i < 0x21) || isFrameSpecial i

/-- The specials that the sequencer may read (R96). -/
def seqSpecial (i : Nat) : Bool := i == 0x06 || i == 0x07 || (decide (0x10 ≤ i) && decide (i < 0x1C))

/-! ## Operand values -/

/-- How an operation takes an immediate (R31, R311). -/
inductive ImmKind where
  | int
  | packed
  | float (f : Fmt)
  | halves (f : Fmt)
  deriving DecidableEq, Repr

/-- The value an immediate supplies (R31). -/
def immValue (k : ImmKind) (i : BitVec 8) : Word :=
  match k with
  | .int => i.signExtend 32
  | .packed => word (wrapN 16 i.toInt * 65537)
  | .float f => word (f.ofInt i.toInt)
  | .halves f => word (f.ofInt i.toInt * 65537)

/-- A value of an affine register in thread `t` (R36, R38). -/
def AReg.at (r : AReg) (t : Nat) : Word := r.base + BitVec.ofNat 32 t * r.stride

/-- The 32-bit value an operand supplies in thread `t`. -/
def Agent.lane (ag : Agent) (frame : Nat → Word) (k : ImmKind) (o : Opnd) (t : Nat) : Word :=
  match o with
  | .v n => (ag.vreg n).lane t
  | .k n => ag.kreg n
  | .sp i => ag.special frame i
  | .p n => if mbit (ag.preg n) t then 1 else 0
  | .b n => if ag.flag n then 1 else 0
  | .a n => (ag.areg n).at t
  | .lane => BitVec.ofNat 32 t
  | .imm i => immValue k i
  | .rsv _ => 0

/-- The poison mask an operand carries: only varying registers do (R294). -/
def Agent.poisonOf (ag : Agent) (o : Opnd) : Mask :=
  match o with
  | .v n => (ag.vreg n).poison
  | _ => 0

/-- An affine operand as base, stride and O; any other as base u, stride 0, O = 0 (R36). -/
def Agent.affine (ag : Agent) (frame : Nat → Word) (o : Opnd) : AReg :=
  match o with
  | .a n => ag.areg n
  | .lane => { base := 0, stride := 1, o := false }
  | o => { base := ag.lane frame .int o 0, stride := 0, o := false }

/-! ## Guards (R59) and executed sets (R46) -/

/-- The guard of a class-V word in thread `t`. -/
def Agent.guardT (ag : Agent) (g : Guard) (t : Nat) : Bool :=
  match g with
  | .always => true
  | .on n neg => mbit (ag.preg n) t != neg

/-- The guard of a word of class U, A or X. -/
def Agent.guardU (ag : Agent) (g : Guard) : Bool :=
  match g with
  | .always => true
  | .on n neg => ag.flag n != neg

/-- The executed set of a class-V word. -/
def Agent.execSet (ag : Agent) (g : Guard) : Mask := ag.exm &&& maskOf (ag.guardT g)

/-! ## Operand checks (R30, R33-R35, R78, R94-R97) -/

/-- Instruction classes (R57). -/
inductive Cls where
  | v | u | a | x
  deriving DecidableEq, Repr

/-- What a word asks of one source field. `n` consecutive registers from a multiple of `al`; whether an affine, varying or
predicate source is admitted where its class would not admit it. -/
structure Use where
  o : Opnd
  n : Nat := 1
  al : Nat := 1
  aff : Bool := false
  vary : Bool := false
  pred : Bool := false
  deriving DecidableEq, Repr

/-- What a word asks of the machine before its own checks. -/
structure Need where
  cls : Cls
  /-- runs only in a handler or the system context (R97) -/
  priv : Bool := false
  /-- runs only in a handler -/
  handlerOnly : Bool := false
  /-- may issue on a warp -/
  warp : Bool := true
  /-- may issue on the matrix sequencer (R96) -/
  seq : Bool := false
  dst : Option Opnd := none
  dn : Nat := 1
  dal : Nat := 1
  srcs : List Use := []
  /-- predicates read besides: a guard, a selector -/
  reads : List Reg := []
  /-- the word's own conditions with cause 0x01, 0x02, 0x0E -/
  bad1 : Bool := false
  bad2 : Bool := false
  badE : Bool := false
  /-- a bank conflict (R74) -/
  bank : Bool := false
  deriving DecidableEq, Repr

/-- The class of a specifier as a destination (R34). -/
def destClass : Opnd → Option Cls
  | .v _ | .p _ => some .v
  | .k _ | .b _ => some .u
  | .a _ | .lane => some .a
  | _ => none

/-- A destination of a wrong class (R35): class X writes k registers only. A reserved specifier names nothing that has a class. -/
def destWrong (c : Cls) (o : Opnd) : Bool :=
  match c, o with
  | _, .rsv _ | .x, .k _ => false
  | .x, _ => true
  | c, o => match destClass o with
    | none => false
    | some d => !(d == c)

/-- A destination that cannot be written (R30, R34). -/
def unwritable (o : Opnd) : Bool := (destClass o).isNone || o == .lane

/-- A run of registers that does not exist, is not a run of registers, or starts at a wrong one (R94, R120, R174, R210). -/
def runWrong (vn : Nat) (o : Opnd) (n al : Nat) : Bool :=
  match o with
  | .v i => decide (vn < i.val + n) || !(i.val % al == 0)
  | .k i => decide (64 < i.val + n) || !(i.val % al == 0)
  | _ => !(n == 1)

/-- A source that exists (R27, R30, R33, R96). -/
def Agent.srcWrong (ag : Agent) (u : Use) : Bool :=
  (match u.o with
    | .rsv _ => true
    | .sp i => !specialExists i || (ag.kind == .seq && !seqSpecial i)
    | _ => false) || runWrong ag.vn u.o u.n u.al

/-- A source of a class that the word may not read (R34-R36, R96). -/
def Agent.srcClassWrong (ag : Agent) (c : Cls) (u : Use) : Bool :=
  match u.o with
  | .v _ => ag.kind == .seq || !(c == .v || u.vary)
  | .p _ => ag.kind == .seq || !(c == .v || u.pred)
  | .a _ | .lane => ag.kind == .seq || !u.aff
  | _ => false

/-- A source that names a frame special. -/
def Use.frame (u : Use) : Bool :=
  match u.o with
  | .sp i => isFrameSpecial i
  | _ => false

/-- The registers an operand run covers that a long-latency word can have pending. -/
def regRun (o : Opnd) (n : Nat) : List Reg :=
  match o with
  | .v i => (List.range n).map (fun j => .v (i.val + j))
  | .k i => (List.range n).map (fun j => .k (i.val + j))
  | .p i => if n = 0 then [] else [.p i.val]
  | _ => []

/-- The registers a word reads or writes. -/
def Need.regs (n : Need) : List Reg :=
  (match n.dst with
    | some o => regRun o n.dn
    | none => []) ++ (n.reads ++ n.srcs.flatMap (fun u => regRun u.o u.n))

/-- The predicate that a word's guard reads: in class V only (R59). -/
def Guard.regs (g : Guard) (c : Cls) : List Reg :=
  match g with
  | .always => []
  | .on n _ => if c == .v then [.p n.val] else []

/-- Destinations that are pending (R69). -/
def Agent.pending (ag : Agent) : List Reg := ag.inflight.flatMap (fun f => f.dests)

/-- The first cause whose condition holds. -/
def firstCause : List (Bool × Nat) → Option Nat
  | [] => none
  | (b, c) :: l => if b then some c else firstCause l

/-- A word that would write a k, a or b register under a partial mask (R41). -/
def Agent.partialMask (ag : Agent) (n : Need) (guard : Bool) : Bool :=
  ag.kind == .warp && guard && !(n.cls == .v) && n.dst.isSome && !(ag.exm == ag.live)

/-- The first cause that a word meets before its own checks, in the order of R78. `priv` is whether privileged words may
issue. A destination that the word does not read and that names a frame special is no register it can write, and no read or write of
one: outside a handler too its cause is 0x0E (DESIGN CHOICE); log 24. A word that names a pending register raises 0x05 (R69) whatever its guard
and its executed set, though it would write nothing (DESIGN CHOICE); log 20. -/
def Agent.firstFault (ag : Agent) (priv : Bool) (n : Need) (guard : Bool) : Option Nat :=
  firstCause [
    (n.bad1, 0x01),
    ((n.priv && !priv) || (n.handlerOnly && !ag.handler) || (n.srcs.any Use.frame && !ag.handler), 0x0D),
    (if ag.kind == .seq then !n.seq else !n.warp, 0x0C),
    ((match n.dst with
        | some o => destWrong n.cls o
        | none => false) || n.srcs.any (ag.srcClassWrong n.cls) || n.bad2, 0x02),
    ((match n.dst with
        | some o => unwritable o || runWrong ag.vn o n.dn n.dal
        | none => false) || n.srcs.any ag.srcWrong || n.badE, 0x0E),
    (n.bank, 0x06),
    (ag.partialMask n guard, 0x03),
    (n.regs.any (fun r => ag.pending.contains r), 0x05)]

end Sys2Proof.Machine
end

