-- ==== Sys2Proof/Machine/Flags.lean ====
section
/-! DEFINITION. The flags: QSAT, PDIV and AOV of %wst (R32, R38, R104, R105) and the carry of IADC (R339). -/

namespace Sys2Proof.Machine

/-- QSAT set, if `x`: it is sticky (R104). -/
def Agent.orQsat (ag : Agent) (x : Bool) : Agent := if x then { ag with wst := ag.wst ||| 1 } else ag

/-- PDIV set, if `x` (R239-R241). -/
def Agent.orPdiv (ag : Agent) (x : Bool) : Agent := if x then { ag with wst := ag.wst ||| 2 } else ag

/-- AOV set, if `x` (R38). -/
def Agent.orAov (ag : Agent) (x : Bool) : Agent := if x then { ag with wst := ag.wst ||| 4 } else ag

/-- Whether an operand is an affine register with its O bit set (R38). -/
def Agent.oSet (ag : Agent) (o : Opnd) : Bool :=
  match o with
  | .a n => (ag.areg n).o
  | _ => false

/-- A result with the flags it raises: QSAT of a clamp, the carry out of IADC. -/
structure Val where
  r : Word
  q : Bool := false
  c : Bool := false
  deriving DecidableEq, Repr

/-- An exact result kept, or clamped to `lo` .. `hi` when `sat` (R104). -/
def satVal (sat : Bool) (lo hi r : Int) : Val :=
  if sat then { r := word (clampInt lo hi r), q := !(clampInt lo hi r == r) } else { r := word r }

/-- An exact signed result, wrapping or through sat32. -/
def sat32Val (sat : Bool) (r : Int) : Val := satVal sat (-2147483648) 2147483647 r

/-- An unsigned sum with carry in and out (R339). -/
def carryVal (a b : Word) (cin : Bool) : Val :=
  let s := a.toNat + b.toNat + cin.toNat
  { r := BitVec.ofNat 32 s, c := decide (2 ^ 32 ≤ s) }

/-- A 16-bit element: its pattern, and whether the clamp changed it (R366, R368). -/
def elemVal (u sat : Bool) (r : Int) : Nat × Bool :=
  let c := if u then clampInt 0 65535 r else sat16 r
  if sat then (wrapN 16 c, !(c == r)) else (wrapN 16 r, false)

/-- Two elements joined (R366). -/
def joinVal (lo hi : Nat × Bool) : Val := { r := BitVec.ofNat 32 (hi.1 * 65536 + lo.1), q := lo.2 || hi.2 }

end Sys2Proof.Machine
end

