-- ==== Sys2Proof/Machine/Space.lean ====
section
/-! DEFINITION. Address spaces: descriptors and their walk (R132-R134), physical addresses (R135), the bezel (R274, R275),
cached translations (R137, R138), and reads and writes of memory with poison, dirty tracking and mirrors (R136, R139, R282). -/

namespace Sys2Proof.Machine

/-! ## Parts of the module -/

/-- A context by its handle. -/
def State.ctx (s : State) (c : Nat) : Ctx := aget s.ctxs Ctx.absent c

/-- A context changed. -/
def State.setCtx (s : State) (c : Nat) (x : Ctx) : State := { s with ctxs := aset s.ctxs c x }

/-- The context of a die with a given residency. -/
def State.ctxIn (s : State) (die : Nat) (r : Residency) : Option Nat :=
  (s.ctxs.find? (fun e => e.2.die == die && e.2.residency == r)).map (·.1)

/-- A die. -/
def State.die (s : State) (d : Nat) : Die := aget s.dies Die.held d

/-- A die changed. -/
def State.setDie (s : State) (d : Nat) (x : Die) : State := { s with dies := aset s.dies d x }

/-- A counter of a context advanced (R276). -/
def State.count (s : State) (c n by_ : Nat) : State :=
  let x := s.ctx c
  if by_ = 0 then s else s.setCtx c { x with counters := aset x.counters n (aget x.counters 0 n + by_) }

/-- A list used as a set: `x` put in or taken out. -/
def setIn (l : List Nat) (x : Nat) (on : Bool) : List Nat :=
  if on then if l.contains x then l else x :: l else l.filter (fun y => !(y == x))

/-! ## Descriptors and the walk -/

/-- The access a translation is for (R134). -/
structure Acc where
  r : Bool
  w : Bool
  x : Bool
  deriving DecidableEq, Repr

def Acc.read : Acc := ⟨true, false, false⟩
def Acc.write : Acc := ⟨false, true, false⟩
def Acc.both : Acc := ⟨true, true, false⟩
def Acc.fetch : Acc := ⟨false, false, true⟩

/-- A leaf descriptor, its level and the address it was read from. -/
structure Leaf where
  desc : Nat
  level : Nat
  at_ : Nat
  deriving DecidableEq, Repr

/-- The index of a VA at a level (R132). -/
def vaIndex (va level : Nat) : Nat :=
  match level with
  | 0 => fld va 48 8
  | 1 => fld va 39 9
  | 2 => fld va 30 9
  | 3 => fld va 21 9
  | _ => fld va 16 5

/-- log2 of the page size of a leaf at a level (R132). -/
def pageBits (level : Nat) : Nat :=
  match level with
  | 2 => 30
  | 3 => 21
  | _ => 16

/-- The second check of R134 on a descriptor read at `level`: it is well formed. -/
def descOk (level d : Nat) : Bool :=
  fld d 52 12 == 0 &&
  (if bit d 1 then
    decide (2 ≤ level) && fld d 10 6 == 0 && fld d 16 (pageBits level - 16) == 0 &&
      !(bit d 5 && (decide (level < 4) || bit d 6))
  else decide (level < 4) && fld d 2 6 == 0)

/-- The walk from a table at a level (R132-R134): `get` reads a descriptor, `bad` gives the cause for which one may not be read (R135, R275);
the cause where the walk fails. -/
def walk (get : Nat → Nat) (bad : Nat → Option Nat) (va : Nat) : Nat → Nat → Nat → Except Nat Leaf
  | 0, _, _ => .error 0x08
  | fuel + 1, level, table =>
    let at_ := table + 8 * vaIndex va level
    let d := get at_
    match bad at_ with
    | some c => .error c
    | none =>
      if !bit d 0 then .error 0x07
      else if !descOk level d then .error 0x08
      else if bit d 1 then .ok { desc := d, level := level, at_ := at_ }
      else walk get bad va fuel (level + 1) (fld d 8 44 * 256)

/-- The third and fourth checks of R134: permissions, then MIG. -/
def leafOk (a : Acc) (l : Leaf) : Except Nat Leaf :=
  if (a.r && !bit l.desc 2) || (a.w && !bit l.desc 3) || (a.x && !bit l.desc 4) then .error 0x08
  else if bit l.desc 8 then .error 0x07
  else .ok l

/-- The physical address of a VA under a leaf. -/
def Leaf.pa (l : Leaf) (va : Nat) : Nat := fld l.desc 16 36 * 2 ^ 16 + va % 2 ^ pageBits l.level

/-- A SWEPT leaf. -/
def Leaf.swept (l : Leaf) : Bool := bit l.desc 5

/-! ## Physical addresses and the bezel -/

/-- What a physical address names (R135). -/
inductive Place where
  | remote
  | vrelermun
  | stack (die : Nat)
  deriving DecidableEq, Repr

/-- A physical address decoded (R135). -/
def placeOf (system : Bool) (pa : Nat) : Except Nat Place :=
  if bit pa 51 then .ok .remote
  else if bit pa 50 then if system then .ok .vrelermun else .error 0x08
  else if !(fld pa 41 9 == 0) || decide (24 ≤ fld pa 36 5) then .error 0x08
  else .ok (.stack (fld pa 36 5))

/-- Die, bank and row of a stack address (R135). -/
def rowOf (pa : Nat) : Nat × Nat × Nat := (fld pa 36 5, fld pa 26 10, fld pa 10 16)

/-- The physical address of a row. -/
def rowPa (die bank row : Nat) : Nat := die * 2 ^ 36 + bank * 2 ^ 26 + row * 2 ^ 10

/-- A window grants an access (R274, R275); log 15: the limit is its last address. -/
def Window.grants (w : Window) (pa : Nat) (a : Acc) (remote : Bool) : Bool :=
  decide (w.base ≤ pa) && decide (pa ≤ w.limit) && (!a.w || w.w) && (!(a.r || a.x) || w.r) && (!remote || w.remote)

/-- Some window of a die grants the access. -/
def Bezel.grants (b : Bezel) (pa : Nat) (a : Acc) (remote : Bool) : Bool := b.wins.any (fun w => w.2.grants pa a remote)

/-- A mesh access from die `a` to die `b` (R275). -/
def State.meshOk (s : State) (a b pa : Nat) (acc : Acc) (remote : Bool) : Bool :=
  (s.die a).bezel.peer.getLsbD b && (s.die b).bezel.peer.getLsbD a &&
    (s.die b).bezel.grants pa acc remote

/-- An access from a die may pass the bezels to a place (R25, R275). -/
def State.bezelPasses (s : State) (die pa : Nat) (p : Place) (a : Acc) : Bool :=
  match p with
  | .remote => (s.die die).bezel.link.getLsbD 0
  | .vrelermun => true
  | .stack d => d == die || s.meshOk die d pa a false

/-- The cause for which a page walker of a die may not read a context's descriptor at a physical address (R25, R135, R275). -/
def State.entryBad (s : State) (c die pa : Nat) : Option Nat :=
  match placeOf (s.ctx c).system pa with
  | .error e => some e
  | .ok p => if s.bezelPasses die pa p .read then none else some 0x1C

/-- The descriptor at a physical address; one in a remote module is that module's data; log 9. -/
def State.descAt (s : State) (pa : Nat) : Nat :=
  if bit pa 51 then leNat ((List.range 8).map (fun i => Config.remoteByte s.fresh (pa + i))) else Memory.readNat s.mem pa 8

/-- The walk of a VA through a context's tables from a die (R132). -/
def State.walkOf (s : State) (c die va : Nat) : Except Nat Leaf := walk s.descAt (s.entryBad c die) va 5 0 (s.ctx c).desc.root

/-- The addresses of the descriptors that the walk of a VA reads (R132). -/
def walkAddrs (get : Nat → Nat) (bad : Nat → Option Nat) (va : Nat) : Nat → Nat → Nat → List Nat
  | 0, _, _ => []
  | fuel + 1, level, table =>
    let at_ := table + 8 * vaIndex va level
    let d := get at_
    if (bad at_).isSome then []
    else if bit d 0 && !bit d 1 && descOk level d then at_ :: walkAddrs get bad va fuel (level + 1) (fld d 8 44 * 256)
    else [at_]

/-- A physical address lies beyond the mesh as a die sees it; beyond its Evofisal port. -/
def offDie (die pa : Nat) : Bool := !bit pa 51 && (bit pa 50 || !(fld pa 36 5 == die))

def offModule (pa : Nat) : Bool := bit pa 51

/-- The walk of a VA counted (R276): 8 bytes over the mesh or the Evofisal port for each descriptor that lies beyond it. -/
def State.countWalk (s : State) (c va : Nat) : State :=
  let die := (s.ctx c).die
  let l := walkAddrs s.descAt (s.entryBad c die) va 5 0 (s.ctx c).desc.root
  (s.count c 10 (8 * (l.filter (offDie die)).length)).count c 11 (8 * (l.filter offModule).length)

/-! ## Translation -/

/-- A translated access: physical address, leaf and place. -/
structure Xl where
  pa : Nat
  leaf : Leaf
  place : Place
  deriving DecidableEq, Repr

/-- The leaf a context uses on a die for a VA: a walk, or the cached descriptor where the two differ and R137 leaves the choice. A page
that the context has not used since the last TLBI takes the new descriptor, and of several changes only the descriptor last used can
be the old one; log 8. -/
def State.leafFor (s : State) (c die va : Nat) : Except Nat Leaf :=
  let w := s.walkOf c die va
  match (s.ctx c).tlb.find? (fun e => e.page == va / 2 ^ 16) with
  | none => w
  | some e =>
    let old : Leaf := { desc := e.desc.toNat, level := e.level, at_ := (match w with
      | .ok l => l.at_
      | .error _ => 0) }
    let same := match w with
      | .ok l => l == old
      | .error _ => false
    if same then w else if Config.useCached (s.fresh + 2 ^ 64 * (va / 2 ^ 16)) then .ok old else w

/-- The page of a virtual address, its permission and its place checked (R128-R136); log 34. -/
def State.pageAt (s : State) (c die va : Nat) (a : Acc) : Except Nat Xl :=
  if 2 ^ 56 ≤ va then .error 0x08
  else match s.leafFor c die va with
    | .error e => .error e
    | .ok l => match leafOk a l with
      | .error e => .error e
      | .ok l => match placeOf (s.ctx c).system (l.pa va) with
        | .error e => .error e
        | .ok p => .ok ⟨l.pa va, l, p⟩

/-- A first write to a page that tracks writes sets D in its descriptor (R136), which the bezels have to let the die write (R25, R275);
log 60. -/
def State.mayMark (s : State) (c die : Nat) (l : Leaf) : Bool :=
  !bit l.desc 7 || l.at_ == 0 || bit (s.descAt l.at_) 9 || match placeOf (s.ctx c).system l.at_ with
    | .error _ => true
    | .ok p => s.bezelPasses die l.at_ p .write

/-- A VA translated for an access by a context from a die: the checks of R119, R134, R135 and R275 in order. -/
def State.translate (s : State) (c die va : Nat) (a : Acc) : Except Nat Xl :=
  match s.pageAt c die va a with
  | .error e => .error e
  | .ok x => if s.bezelPasses die x.pa x.place a && (!a.w || s.mayMark c die x.leaf) then .ok x else .error 0x1C

/-- The descriptor used is cached, if a walk has found it (R138); the walk counts what it moves beyond its die (R276). -/
def State.cache (s : State) (c va : Nat) (l : Leaf) : State :=
  let x := s.ctx c
  if x.tlb.any (fun e => e.page == va / 2 ^ 16 && e.desc.toNat == l.desc && e.level == l.level) then s
  else
    let e : TlbEntry := { page := va / 2 ^ 16, desc := BitVec.ofNat 64 l.desc, level := l.level }
    (s.setCtx c { x with tlb := e :: x.tlb.filter (fun e => !(e.page == va / 2 ^ 16)) }).countWalk c va

/-! ## Faulting pages (R14, R138) -/

/-- A faulting page of a context (context, page) has not been resolved: its translation still fails with cause 0x07; log 49. -/
def State.pageOpen (s : State) (die : Nat) (e : Nat × Nat) : Bool :=
  !((s.ctx e.1).residency == .absent) &&
    match s.walkOf e.1 die (e.2 * 2 ^ 16) with
    | .ok l => bit l.desc 8
    | .error c => c == 0x07

/-- The faulting pages outstanding on a die; log 49. -/
def State.pagesOut (s : State) (die : Nat) : List (Nat × Nat) := (s.die die).faults.filter (s.pageOpen die)

/-- An access that faults on a further page waits while 512 are outstanding (R138); log 49. -/
def State.pageWait (s : State) (die c va : Nat) : Bool :=
  let l := s.pagesOut die
  decide (512 ≤ l.length) && !l.contains (c, va / 2 ^ 16)

/-- A page on which an access has faulted with cause 0x07 is outstanding. -/
def State.notePage (s : State) (die c va cause : Nat) : State :=
  let l := s.pagesOut die
  if cause = 0x07 && !l.contains (c, va / 2 ^ 16) then s.setDie die { s.die die with faults := l ++ [(c, va / 2 ^ 16)] } else s

/-- A denial of an access that failed with a cause counted (R276). -/
def State.denies (s : State) (c cause : Nat) : State := s.count c 13 (if cause = 0x1C then 1 else 0)

/-- A denial of a read or write of an engine counted (R276). -/
def State.deniesIf {α : Type} (s : State) (c : Nat) (r : Except Nat α) : State :=
  match r with
  | .error e => s.denies c e
  | .ok _ => s

/-- What an access that failed leaves: a faulting page outstanding (R138), a denial counted (R276). -/
def State.faulting (s : State) (die c va cause : Nat) : State :=
  (s.notePage die c va cause).denies c cause

/-! ## Bytes of a translated access -/

/-- The bytes at a translated address; those of a remote module are the remote module's (log 9). -/
def State.bytesAt (s : State) (x : Xl) (n : Nat) : List Byte :=
  match x.place with
  | .remote => (List.range n).map (fun i => Config.remoteByte s.fresh (x.pa + i))
  | _ => Memory.read s.mem x.pa n

/-- Whether any byte lies in a poisoned codeword (R139). -/
def State.poisonedAt (s : State) (x : Xl) (n : Nat) : Bool :=
  match x.place with
  | .remote => false
  | _ => (span (x.pa / 32) ((x.pa + n + 31) / 32)).any (fun c => s.memPoison.contains c)

/-- Codewords poisoned by a poisoned write, or cleared where clean data covers them whole (R139). -/
def markPoison (l : List Nat) (pa n : Nat) (poison : Bool) : List Nat :=
  if poison then (span (pa / 32) ((pa + n + 31) / 32)).foldl (fun l c => setIn l c true) l
  else (span ((pa + 31) / 32) ((pa + n) / 32)).foldl (fun l c => setIn l c false) l

/-- The D bit of a page set in the leaf that memory holds (R136): only in one that tracks writes, and nothing else of it. -/
def State.setD (s : State) (at_ : Nat) : State :=
  let d := s.descAt at_
  if at_ = 0 || !(bit d 0 && bit d 1 && bit d 7) || bit d 9 then s
  else if bit at_ 51 then { s with remoteWrites := ((leBytes 8 (d + 2 ^ 9)).zipIdx.map (fun (b, i) => (at_ + i, b))).reverse ++ s.remoteWrites }
  else { s with mem := Memory.write s.mem at_ (leBytes 8 (d + 2 ^ 9)) }

/-- Dirty tracking of a write (R136, R282): the D bit of a DT page, and the page's bit in its die's array. -/
def State.markDirty (s : State) (x : Xl) : State :=
  if bit x.leaf.desc 7 then
    let s := s.setD x.leaf.at_
    match x.place with
    | .stack d => s.setDie d { s.die d with dirty := setIn (s.die d).dirty (fld x.pa 16 20) true }
    | _ => s
  else s

/-- A write to a MIRROR page goes to the buddy module too, at the VA that MOFF gives (R136, R272), and waits for its acknowledgement: every
write to the page, the hardware's own (object words, frames, images, completion words, trace records) among them. It crosses the Evofisal
port of the context's die (R276); where that port is disabled (R19, R25) it is denied, and no acknowledgement comes; log 60. -/
def State.mirror (s : State) (x : Xl) (c ag va : Nat) (copy : Option Nat) (bs : List Byte) : State :=
  if bit x.leaf.desc 6 then
    let d := (s.ctx c).desc
    let sent := (s.die (s.ctx c).die).bezel.link.getLsbD 0
    let m : Mirror := { id := s.handles, ag := ag, va := va, copy := copy, failed := !sent, module := d.mid,
                        buddy := (va + d.moff.toNat) % 2 ^ 64, bytes := bs }
    let s := { s with mirrors := s.mirrors ++ [m], handles := s.handles + 1 }
    if sent then s.count c 11 bs.length else s.count c 13 1
  else s

/-- Bytes written to where a translated address lies. -/
def State.writePlace (s : State) (x : Xl) (bs : List Byte) (poison : Bool) : State :=
  match x.place with
  | .remote => { s with remoteWrites := (bs.zipIdx.map (fun (b, i) => (x.pa + i, b))).reverse ++ s.remoteWrites }
  | _ => { s with mem := Memory.write s.mem x.pa bs, memPoison := markPoison s.memPoison x.pa bs.length poison }

/-- The 8-byte words of a page that may be executed, which a write is about to change, as a later fetch may still find them (R67); log 61. -/
def State.noteCode (s : State) (x : Xl) (n : Nat) : State :=
  if bit x.leaf.desc 4 && !(x.place == .remote) then
    let old := (span (x.pa / 8) ((x.pa + n + 7) / 8)).map (fun i => (i, BitVec.ofNat 64 (Memory.readNat s.mem (8 * i) 8)))
    { s with ctxs := s.ctxs.map (fun e =>
        (e.1, { e.2 with stale := old.foldl (fun l (i, w) => aset l i (w :: aget l [] i)) e.2.stale })) }
  else s

/-- Bytes written at a translated address for a context by an agent (or its copy); log 60. -/
def State.writeAt (s : State) (x : Xl) (c ag va : Nat) (copy : Option Nat) (bs : List Byte) (poison : Bool) : State :=
  ((((s.noteCode x bs.length).writePlace x bs poison)).markDirty x).mirror x c ag va copy bs

/-- Bytes that cross the mesh or the Evofisal port (R276). -/
def State.countHops (s : State) (c die : Nat) (x : Xl) (n : Nat) : State :=
  match x.place with
  | .remote => s.count c 11 n
  | .vrelermun => s.count c 10 n
  | .stack d => if d = die then s else s.count c 10 n

end Sys2Proof.Machine
end

