-- ==== Sys2Proof/Machine/Agents.lean ====
section
/-! DEFINITION. Finding and changing agents, launches and scratch; completing slots (R70) and the completions held for agents
that are away (R162); the writes of the engines. -/

namespace Sys2Proof.Machine

/-- Every agent that there is. -/
def State.agents (s : State) : List Agent := (s.agent :: s.others).filter (fun a => !(a.status == .vacant))

/-- An agent by its id. -/
def State.agentOf (s : State) (id : Nat) : Option Agent := s.agents.find? (fun a => a.id == id)

/-- An agent changed. -/
def State.upd (s : State) (id : Nat) (f : Agent → Agent) : State :=
  if s.agent.id = id && !(s.agent.status == .vacant) then { s with agent := f s.agent }
  else { s with others := s.others.map (fun a => if a.id = id then f a else a) }

/-- Every agent changed. -/
def State.updAll (s : State) (f : Agent → Agent) : State :=
  { s with agent := if s.agent.status == .vacant then s.agent else f s.agent, others := s.others.map f }

/-- Agent `id` made the current one; the former one goes to the end of the line. -/
def State.focus (s : State) (id : Nat) : State :=
  if s.agent.id = id && !(s.agent.status == .vacant) then s
  else match s.others.find? (fun a => a.id == id) with
    | none => s
    | some a =>
      let rest := s.others.filter (fun b => !(b.id == id))
      { s with agent := a, others := if s.agent.status == .vacant then rest else rest ++ [s.agent] }

/-- The image of a saved context (R280). -/
def State.holdsImage (s : State) (i : Image) : Bool := s.ctxs.any (fun e => e.2.residency == .saved && e.2.imageNo == some i.no)

/-- The agents that a saved context's image holds (R280). -/
def State.savedAgents (s : State) : List Agent := (s.images.filter s.holdsImage).flatMap (·.agents)

/-- Every agent, those that a saved image holds among them. -/
def State.allAgents (s : State) : List Agent := s.agents ++ s.savedAgents

/-- An agent changed wherever it is: one that a saved image holds, in that image. -/
def State.updAny (s : State) (id : Nat) (f : Agent → Agent) : State :=
  if (s.agentOf id).isSome then s.upd id f
  else { s with images := s.images.map (fun im => { im with agents := im.agents.map (fun a => if a.id = id then f a else a) }) }

/-- The agents and the scratch of saved images put back for an act that does not wait for their contexts. -/
def State.thawed (s : State) : State :=
  { s with others := s.others ++ s.savedAgents, scratches := s.scratches ++ (s.images.filter s.holdsImage).flatMap (·.scratches)
           images := s.images.map (fun im => if s.holdsImage im then { im with agents := [], scratches := [] } else im) }

/-- What saved images hold gone back into them after such an act on `was`. -/
def State.frozen (s was : State) : State :=
  let ids := was.savedAgents.map (·.id)
  let scr := ((was.images.filter was.holdsImage).flatMap (·.scratches)).map (·.1)
  { s with images := was.images.map (fun im => if was.holdsImage im then
             { im with agents := im.agents.map (fun a => (s.agentOf a.id).getD a)
                       scratches := im.scratches.map (fun e => (e.1, (aget? s.scratches e.1).getD e.2)) } else im)
           agent := if ids.contains s.agent.id && !(s.agent.status == .vacant) then Agent.vacant else s.agent
           others := s.others.filter (fun a => !ids.contains a.id)
           scratches := s.scratches.filter (fun e => !scr.contains e.1) }

/-- An act on every agent, those of saved images among them (R192-R195, R280). -/
def State.awake (s : State) (f : State → State) : State :=
  if s.savedAgents.isEmpty then f s else (f s.thawed).frozen s

/-- `f` done on agent `id` as the current one, and the former one current again. -/
def State.within (s : State) (id : Nat) (f : State → State) : State :=
  let me := s.agent.id
  let was := s.agent.status == .vacant
  let s' := f (s.focus id)
  if was then s' else s'.focus me

/-- A launch. -/
def State.launchOf (s : State) (l : Nat) : Option Launch := aget? s.launches l

/-- A launch changed. -/
def State.updLaunch (s : State) (l : Nat) (f : Launch → Launch) : State :=
  match aget? s.launches l with
  | none => s
  | some x => { s with launches := aset s.launches l (f x) }

/-- The progress timer of a launch runs: a warp of it is resident in an active context (R266). -/
def State.timerRuns (s : State) (l : Nat) : Bool :=
  s.agents.any (fun a => a.kind == .warp && a.launch == l && (a.status == .live || a.status == .exiting) &&
    (s.ctx a.ctx).residency == .active)

/-- The progress timer of a launch restarts (R266). -/
def State.restartTimer (s : State) (l : Nat) : State :=
  s.updLaunch l (fun x => { x with wdStart := if s.timerRuns l then s.time else 0 })

/-- The progress timers that stop or go on between two states. -/
def State.retimed (s was : State) : State :=
  { s with launches := s.launches.map (fun e =>
      if s.timerRuns e.1 == was.timerRuns e.1 then e else (e.1, { e.2 with wdStart := s.time - e.2.wdStart })) }

/-- Whether an agent is on a core or sequencer and may issue. -/
def Agent.isLive (a : Agent) : Bool := a.status == .live

/-- An agent that is resident: live, or waiting for its slots at its end. -/
def Agent.resident (a : Agent) : Bool := a.status == .live || a.status == .exiting

/-- Whether a slot has an unfinished word. -/
def Agent.slotBusy (ag : Agent) (i : Nat) : Bool := !(ag.cbmOf i == fullMask)

/-- The unfinished word in a slot. -/
def Agent.inSlot (ag : Agent) (slot : Nat) : Option Inflight :=
  ag.inflight.find? (fun f => f.slot == slot && !f.finished)

/-- A word's slot completes (R70): all bits set; under LA = 15 its destinations stay pending until a WAITOP (R69). -/
def Agent.complete (ag : Agent) (slot : Nat) : Agent :=
  { ag with
    cbm := aset ag.cbm slot fullMask
    inflight := (ag.inflight.map (fun f => if f.slot = slot && !f.finished then { f with finished := true } else f)).filter
      (fun f => !(f.slot == slot && f.finished && f.pwNo == 0 && !(f.la == 15 && !f.dests.isEmpty))) }

/-- The pair-weight load `n` of an agent waits for no match any more. One that executed in no thread goes, but for the destinations that
LA = 15 keeps pending (R69, R239). -/
def Agent.unpair (ag : Agent) (n : Nat) : Agent :=
  { ag with
    inflight := (ag.inflight.map (fun f => if f.pwNo = n then { f with alone := true, pwNo := 0 } else f)).filter
      (fun f => !(f.finished && f.pwNo == 0 && !(f.la == 15 && !f.dests.isEmpty))) }

/-- The completion of the detached word in a slot, with the values of its k registers. -/
def Agent.doneOf (ag : Agent) (slot : Nat) (ws : List Word) : Option HeldDone :=
  (ag.inSlot slot).map (fun f => { slot := slot, regs := (f.dests.zip ws).filterMap (fun (r, w) => match r with
    | .k n => some (n, w)
    | _ => none) })

/-- A detached word's slot completes and its k registers are written. -/
def Agent.post (ag : Agent) (d : HeldDone) : Agent := (d.regs.foldl (fun ag (n, w) => ag.setK n w) ag).complete d.slot

/-- The completions that the die held for an agent are posted (R162). -/
def Agent.posted (ag : Agent) : Agent := ag.late.foldl Agent.post { ag with late := [] }

/-- A completion of a detached word arrives at an agent: it is held while the agent is away (R162). -/
def Agent.arrive (ag : Agent) (away : Bool) (slot : Nat) (ws : List Word) : Agent :=
  match ag.doneOf slot ws with
  | none => ag
  | some d => if away then { ag with late := ag.late ++ [d] } else ag.post d

/-- A context that is resident. -/
def Ctx.resident (x : Ctx) : Bool := x.residency == .active || x.residency == .locket

/-- An agent is away: parked, evicted, or of a context that is not active (R162). -/
def State.away (s : State) (ag : Agent) : Bool :=
  ag.status == .parked || ag.status == .evicted || !((s.ctx ag.ctx).residency == .active)

/-- The detached word in a slot of an agent completes and writes its k registers. The progress timer of its launch restarts (R266),
the agent away or not. One that a saved image holds keeps the completion for the image's return (R162). -/
def State.doneK (s : State) (id slot : Nat) (ws : List Word) : State :=
  match s.agentOf id with
  | some ag =>
    (s.upd id (fun a => a.arrive (s.away ag) slot ws)).restartTimer ag.launch
  | none => match s.savedAgents.find? (fun a => a.id == id) with
    | none => s
    | some ag => (s.updAny id (fun a => a.arrive true slot ws)).restartTimer ag.launch

/-- A fault recorded at an agent, to be taken at its next word boundary. -/
def Agent.record (ag : Agent) (r : Recorded) : Agent := { ag with recorded := ag.recorded ++ [r] }

/-- A number above those of the agent's words in flight: the place by issue of a word that reports as it issues. -/
def Agent.lastNo (ag : Agent) : Nat :=
  ag.inflight.foldl (fun n f => max n (f.no + 1)) (match ag.report with
    | some r => r.no
    | none => 0)

/-- A poison report made or widened (R139): its address is that of the earliest word that recorded poison (R252); log 26. -/
def Agent.reportPoison (ag : Agent) (m : Mask) (addr pc : Nat) (hnd : Bool) (no : Nat := ag.lastNo) : Agent :=
  if m = 0 then ag
  else match ag.report with
    | none => { ag with report := some { mask := m, addr := addr, fpc := pc, hnd := hnd, no := no } }
    | some r =>
      let first := decide (no < r.no)
      { ag with report := some { mask := r.mask ||| m, hnd := r.hnd || hnd, addr := if first then addr else r.addr,
                                 fpc := if first then pc else r.fpc, no := min no r.no } }

/-- A die that executes. -/
def Die.runs (d : Die) : Bool := d.released && (d.power == .run || d.power == .idle)

/-- No word of an agent acts while it is away (R264), nor while its die's clock is stopped (R22, R285). -/
def State.halts (s : State) (ag : Agent) : Bool := s.away ag || !(s.die ag.die).runs

/-! ## Writes of the engines -/

/-- Bytes written through a context's tables within one page, `pre` opening the row that they touch; the descriptor used is cached. -/
def State.writeVaBy (pre : State → Xl → State) (s : State) (c die ag va : Nat) (bs : List Byte) : Except Nat State :=
  match s.translate c die va .write with
  | .error e => .error e
  | .ok x => .ok ((((pre s x).writeAt x c ag va none bs false).countHops c die x bs.length).cache c va x.leaf)

end Sys2Proof.Machine
end

