-- ==== Sys2Proof/Machine/Sweep.lean ====
section
/-! DEFINITION. The sweep: its schedule (R140-R142), restore-path arithmetic (R143-R145, R160), row requests and their tokens
(R154, R155), glaze windows (R150, R151) and the concurrency cap (R157). Instants are in units of 1/512 ns. -/

namespace Sys2Proof.Machine

/-! ## The schedule -/

/-- The row interval of R18 and R140, in 1/512 ns: 488.28125 ns, or 244.140625 ns when hot. -/
def rowInterval (hot : Bool) : Nat := if hot then 125000 else 250000

/-- The length of a slot, and of a sweep (R140). -/
def slotLen (hot : Bool) : Nat := rowInterval hot / 8

def sweepLen (hot : Bool) : Nat := Config.rows * rowInterval hot

/-- The sweep that the instant `n` lies in, `hot` being the rate from the next nominal wrap on (R18, R140). -/
def Sweep.roll (w : Sweep) (hot : Bool) (n : Nat) : Sweep :=
  let stop := w.start + sweepLen w.hot
  if n < stop then w
  else
    let k := (n - stop) / sweepLen hot
    { start := stop + k * sweepLen hot, hot := hot, was := some (if k = 0 then w.hot else hot) }

/-- The nominal visit of a bank's row (R140). -/
def Sweep.visit (w : Sweep) (bank row : Nat) : Nat := w.start + row * rowInterval w.hot + bank % 8 * slotLen w.hot

/-- The start of the slot that `n` lies in; the slot's number among the 8 of its interval; the row that it visits. -/
def Sweep.slotOf (w : Sweep) (n : Nat) : Nat := w.start + (n - w.start) / slotLen w.hot * slotLen w.hot

def Sweep.phase (w : Sweep) (n : Nat) : Nat := (n - w.start) / slotLen w.hot % 8

def Sweep.row (w : Sweep) (n : Nat) : Nat := (n - w.start) / rowInterval w.hot

/-- The nominal visit of row 65,535 of a bank that came last before or at `n`; before a bank's first wrap the start of its stack's sweep, as the
instant at which every bank of the stack began restoring (R142, R158; DESIGN CHOICE); log 62. -/
def Sweep.lastWrap (w : Sweep) (bank n : Nat) : Nat :=
  let v := w.visit bank (Config.rows - 1)
  if v ≤ n then v
  else match w.was with
    | none => w.start
    | some h => w.start - rowInterval h + bank % 8 * slotLen h

/-- A die's current sweep, and the start of its current slot. -/
def Die.sweepAt (d : Die) (now : Nat) : Sweep := d.sweep.roll d.hot (now * 512)

def Die.slotAt (d : Die) (now : Nat) : Nat := (d.sweepAt now).slotOf (now * 512)

/-- The instant in ns of a bank's most recent wrap before or at `n` (R142): the one noted, where the restore of its row 65,535 applied
something or was postponed. -/
def Die.wrapAt (d : Die) (w : Sweep) (bank n : Nat) : Nat :=
  let v := w.lastWrap bank n
  match aget? d.wraps bank with
  | some (u, t) => if u = v then t else v / 512
  | none => v / 512

/-! ## Arithmetic -/

/-- Width of an element. -/
def Elt.width : Elt → Nat
  | .i32 | .f32 => 32
  | .i16x2 | .bf16x2 => 16

/-- An integer result: wrapped, or clamped under SAT; and whether it was clamped. -/
def restoreInt (w : Nat) (sat : Bool) (r : Int) : Nat × Bool :=
  let c := if w = 32 then sat32 r else sat16 r
  if sat then (wrapN w c, !(c == r)) else (wrapN w r, false)

/-- One operation on an integer element (R144). What CLMP itself clamps does not count as clamped under SAT (DESIGN CHOICE); log 34. -/
def intOp (w : Nat) (op : RowOp) (sat : Bool) (x y c0 c1 : Nat) : Nat × Bool :=
  let sx := sgn w x
  let s0 := sgn w c0
  let s1 := sgn w c1
  match op with
  | .addc => restoreInt w sat (sx + s0)
  | .mulc => restoreInt w sat (sx * s0)
  | .fmac => restoreInt w sat (sx * s0 + s1)
  | .clmp => (wrapN w (min (max sx s0) s1), false)
  | .zero => (0, false)
  | .axpby => restoreInt w sat (s0 * sx + s1 * sgn w y)

/-- One operation on a floating-point element, with origin index `h` (R144, R145). -/
def floatOp (f : Fmt) (op : RowOp) (h x y c0 c1 : Nat) : Nat :=
  let inv := f.invalidH false 0 h
  let nan (l : List Nat) (r : Nat) : Nat := (f.firstNan l).getD r
  let prod (a b : Nat) : FVal := ((f.val a).mul (f.val b)).getD .nan
  match op with
  | .addc => nan [x, c0] (f.sum .rne inv (f.val x) (f.val c0))
  | .mulc => nan [x, c0] (f.ofVal .rne false inv (prod x c0))
  | .fmac => nan [x, c0, c1] (f.sum .rne inv (prod x c0) (f.val c1))
  | .clmp => if f.isNan x then f.quiet x else f.minmax false (f.minmax true x c0) c1
  | .zero => 0
  | .axpby => nan [x, y, c0, c1] (f.sum .rne inv (prod c0 x) (prod c1 y))

/-- One operation on one 32-bit word of a row, the packed types half by half (R143). -/
def wordOp (op : RowOp) (elt : Elt) (sat : Bool) (h x y c0 c1 : Nat) : Nat × Bool :=
  let lo (n : Nat) : Nat := n % 65536
  let hi (n : Nat) : Nat := n / 65536 % 65536
  match elt with
  | .i32 => intOp 32 op sat x y c0 c1
  | .f32 => (floatOp .fp32 op h x y c0 c1, false)
  | .i16x2 =>
    let a := intOp 16 op sat (lo x) (lo y) (lo c0) (lo c1)
    let b := intOp 16 op sat (hi x) (hi y) (hi c0) (hi c1)
    (b.1 * 65536 + a.1, a.2 || b.2)
  | .bf16x2 =>
    (floatOp .bf16 op h (hi x) (hi y) (hi c0) (hi c1) * 65536 + floatOp .bf16 op h (lo x) (lo y) (lo c0) (lo c1), false)

/-- CLMP constants that are refused: C0 > C1 in any half, or a NaN (R147, R153). -/
def badClamp (elt : Elt) (c0 c1 : Nat) : Bool :=
  let ints (w a b : Nat) : Bool := decide (sgn w b < sgn w a)
  let flts (f : Fmt) (a b : Nat) : Bool := f.isNan a || f.isNan b || decide (f.key true b < f.key true a)
  match elt with
  | .i32 => ints 32 c0 c1
  | .f32 => flts .fp32 c0 c1
  | .i16x2 => ints 16 (c0 % 65536) (c1 % 65536) || ints 16 (c0 / 65536) (c1 / 65536)
  | .bf16x2 => flts .bf16 (c0 % 65536) (c1 % 65536) || flts .bf16 (c0 / 65536) (c1 / 65536)

/-- The words of a run of bytes. -/
def wordsOf : List Byte → List Nat
  | a :: b :: c :: d :: l => leNat [a, b, c, d] :: wordsOf l
  | _ => []

/-- What one application does to a row: the bytes, the codewords (0 to 31) it poisons, whether an element was clamped,
whether an uncorrectable error was met (R160). -/
structure RowResult where
  bytes : List Byte
  poison : List Nat
  clamped : Bool
  err : Bool
  deriving DecidableEq, Repr

/-- An operation applied to the 1 KiB row at `pa`, its partner at `py` for AXPBY (R143-R145, R160). -/
def State.rowResult (s : State) (pa : Nat) (py : Option Nat) (op : RowOp) (elt : Elt) (sat : Bool) (h : Nat) (c0 c1 : Word) :
    RowResult :=
  (List.range 32).foldl (fun acc i =>
    let xs := Memory.read s.mem (pa + 32 * i) 32
    let bad := s.memPoison.contains (pa / 32 + i)
    let pbad := match py with
      | none => false
      | some q => s.memPoison.contains (q / 32 + i)
    let ys := match py with
      | none => []
      | some q => wordsOf (Memory.read s.mem (q + 32 * i) 32)
    if bad || pbad then
      { acc with bytes := acc.bytes ++ xs, poison := acc.poison ++ [i], err := true }
    else
      let rs := (wordsOf xs).zipIdx.map (fun (x, j) => wordOp op elt sat h x (ys.getD j 0) c0.toNat c1.toNat)
      { acc with bytes := acc.bytes ++ rs.flatMap (fun r => leBytes 4 r.1), clamped := acc.clamped || rs.any (·.2) })
    { bytes := [], poison := [], clamped := false, err := false }

/-- A row result stored by the restore path (path G), `va` being the row's address in its context's space: where that still leads to the
row and the page tracks writes, the write counts as one (R167, R282). -/
def State.storeRow (s : State) (c die pa va : Nat) (r : RowResult) : State :=
  let s := { s with mem := Memory.write s.mem pa r.bytes
                    memPoison := r.poison.foldl (fun l i => setIn l (pa / 32 + i) true) s.memPoison }
  let s := match s.leafFor c die va with
    | .ok l => if l.pa va = pa then s.markDirty ⟨pa, l, .stack die⟩ else s
    | .error _ => s
  (s.count c 8 1024).count c 9 1024

/-! ## Glazes -/

/-- The physical address of a region's row `i`. -/
def Region.rowAt (g : Region) (i : Nat) : Nat := g.pages.getD ((g.first + i) / 64) 0 + (g.first + i) % 64 * 1024

/-- The index of the row at `pa` in a region, if it lies there. -/
def Region.indexOf (g : Region) (pa : Nat) : Option Nat :=
  match g.pages.findIdx? (fun p => p == pa / 65536 * 65536) with
  | none => none
  | some k =>
    let i := 64 * k + pa / 1024 % 64
    if g.first ≤ i && i - g.first < g.nrows then some (i - g.first) else none

/-- The region of a die that holds the row at `pa`: handle, region, row index. -/
def Die.regionAt (d : Die) (pa : Nat) : Option (Nat × Region × Nat) :=
  d.regions.findSome? (fun (h, g) => (g.indexOf pa).map (fun i => (h, g, i)))

/-- Whether a region is held at an instant (R151). -/
def Region.heldAt (g : Region) (n : Nat) : Bool :=
  match g.holds.find? (fun e => decide (e.1 ≤ n)) with
  | none => false
  | some e => e.2

/-- The window of a nominal visit (R150); log 35. -/
def Region.window (g : Region) (n : Nat) : Nat := (n - g.t0) / (g.per * (32000000 * 512))

/-- Whether a visit at nominal instant `n` applies the region to its row `i` (R150, R151). -/
def Region.due (g : Region) (i n : Nat) : Bool :=
  decide (g.t0 ≤ n) && decide (g.win0 ≤ g.window n) && !g.heldAt n && decide (aget g.applied 0 i ≤ g.window n)

/-- The weight of a registered row (R157). -/
def Region.weight (g : Region) : Nat := if g.op == .axpby then 2 else 1

/-- The accepted requests on a row, in order of acceptance. -/
def State.reqsOn (s : State) (die bank row : Nat) : List Req :=
  s.reqs.filter (fun q => q.accepted && q.die == die && q.bank == bank && q.row == row)

/-- The weight that regions place at a row index, and the accepted requests there: W(r) + Q(r) of R157. -/
def State.load (s : State) (die row : Nat) : Nat :=
  let w := (s.die die).regions.foldl (fun a (_, g) =>
    (List.range g.pages.length).foldl (fun a k =>
      let pa := g.pages.getD k 0
      match g.indexOf (pa + row % 64 * 1024) with
      | none => a
      | some _ => if pa / 65536 % 1024 = row / 64 then a + g.weight else a) a) 0
  w + (s.reqs.filter (fun q => q.accepted && q.die == die && q.row == row)).length

/-- Some request accepted by the instant `n` is pending on a row. -/
def State.asked (s : State) (die bank row n : Nat) : Bool := (s.reqsOn die bank row).any (fun q => decide (q.time * 512 ≤ n))

/-- The weight of a restore whose nominal visit is `visit`, the requests accepted by `n` counted (R157). -/
def State.weightOf (s : State) (die bank row visit n : Nat) : Nat :=
  let q := if s.asked die bank row n then 1 else 0
  match (s.die die).regionAt (rowPa die bank row) with
  | some (_, g, i) => if g.due i visit then g.weight else q
  | none => q

/-- The sweep of a die has something to apply: only then does the concurrency cap matter (R157). -/
def State.sweepBusy (s : State) (die : Nat) : Bool :=
  let d := s.die die
  !d.regions.isEmpty || !d.late.isEmpty || s.reqs.any (fun q => q.accepted && q.die == die)

/-- The restores of the current slot that do not happen at once at their nominal visit: those that apply something, and those of a bank
that has a postponed one (R157). -/
def State.slotWork (s : State) (die : Nat) : List Late :=
  let d := s.die die
  let now := s.time * 512
  let w := d.sweepAt s.time
  let n := w.slotOf now
  ((List.range 128).map (fun i => 8 * i + w.phase now)).filterMap (fun b =>
    if d.late.any (fun e => e.bank == b) || decide (0 < s.weightOf die b (w.row now) n n) then
      some { bank := b, row := w.row now, visit := n, wrap := d.wrapAt w b (n - 1) }
    else none)

/-- A die with its current slot opened: the slot's own restores stand behind the postponed ones, in ascending bank order, and nothing
of its units is used (R157). -/
def State.opened (s : State) (die : Nat) : Die :=
  let d := s.die die
  if d.slot = d.slotAt s.time || !s.sweepBusy die then d
  else { d with slot := d.slotAt s.time, late := d.late ++ s.slotWork die, weight := 0, demands := 0 }

/-- The restore that the sweep of a die serves next (R157): the first, oldest first and then in ascending bank order, whose weight fits
the units left and whose bank owes none earlier. -/
def State.nextRestore (s : State) (die : Nat) : Option Late :=
  if !(s.die die).released || !s.sweepBusy die then none
  else
    let d := s.opened die
    (d.late.zipIdx.find? (fun (e, i) =>
      decide (d.weight + s.weightOf die e.bank e.row e.visit (s.time * 512) ≤ 128) && !(d.late.take i).any (fun l => l.bank == e.bank))).map (·.1)

/-- The position of a bank and the instant of its most recent wrap in ns (R142); log 62. -/
def State.position (s : State) (die bank : Nat) : Nat × Nat :=
  let d := s.opened die
  match d.late.find? (fun e => e.bank == bank) with
  | some e => (e.row, e.wrap)
  | none =>
    let now := s.time * 512
    let w := d.sweepAt s.time
    (if now < w.visit bank 0 then 0 else ((now - w.visit bank 0) / rowInterval w.hot + 1) % Config.rows, d.wrapAt w bank now)

/-- The demand activations that apply requests started in the current slot (R157). -/
def State.demandsIn (s : State) (die : Nat) : Nat := if (s.die die).slot = (s.die die).slotAt s.time then (s.die die).demands else 0

/-! ## Demand activations -/

/-- A row waits for a demand activation: a request on it says `.now`, or an access waits to open it (R157). -/
def State.awaited (s : State) (die bank row : Nat) : Bool :=
  (s.reqsOn die bank row).any (·.now) || (s.die die).waits.contains (bank, row)

/-- The first of the waiting demand activations of a die: the row with the oldest pending request (R157). -/
def State.firstDemand (s : State) (die : Nat) : Option (Nat × Nat) :=
  (s.reqs.find? (fun q => q.accepted && q.die == die && s.awaited die q.bank q.row)).map (fun q => (q.bank, q.row))

/-- The demand activation that starts next in the current slot, while its allowance of 32 lasts (R157). -/
def State.nextDemand (s : State) (die : Nat) : Option (Nat × Nat) :=
  if !(s.die die).released || decide (32 ≤ s.demandsIn die) then none else s.firstDemand die

/-- An access to a row has to wait for its demand activation (R157): the row has pending requests, and the allowance of the slot is spent
or an older activation waits; log 51. -/
def State.rowWait (s : State) (die bank row : Nat) : Bool :=
  !(s.reqsOn die bank row).isEmpty && (decide (32 ≤ s.demandsIn die) || match s.firstDemand die with
    | none => false
    | some e => !(e == (bank, row)))

/-- An access joins the order of the waiting demand activations (R157); log 51. -/
def State.joinRow (s : State) (die bank row : Nat) : State :=
  let d := s.die die
  if d.waits.contains (bank, row) then s else s.setDie die { d with waits := d.waits ++ [(bank, row)] }

/-- An access whose demand activation has to wait (R157); log 51. -/
def State.demandWait (s : State) (x : Xl) : Bool :=
  match x.place with
  | .stack d => x.leaf.swept && s.rowWait d (rowOf x.pa).2.1 (rowOf x.pa).2.2
  | _ => false

/-- The access joins the order, if it waits for its demand activation. -/
def State.join (s : State) (x : Xl) : State :=
  match x.place with
  | .stack d => if s.demandWait x then s.joinRow d (rowOf x.pa).2.1 (rowOf x.pa).2.2 else s
  | _ => s

/-! ## Trace records (R279) -/

/-- One trace record. -/
structure Trace where
  kind : Nat
  die : Nat
  source : Nat
  code : Nat
  wid : Nat
  arg : Nat
  payload : Nat
  deriving DecidableEq, Repr

/-- The 32 bytes of a record. -/
def Trace.bytes (t : Trace) (count vf : Nat) : List Byte :=
  leBytes 8 count ++ leBytes 1 t.kind ++ leBytes 1 t.die ++ leBytes 2 t.source ++ leBytes 2 vf ++ leBytes 2 t.code ++
    leBytes 4 t.wid ++ leBytes 4 t.arg ++ leBytes 8 t.payload

/-- A record put into a context's ring at its next place, `pre` opening the row: dropped and counted where the ring is full or cannot be
written (R279). -/
def State.putTrace (pre : State → Xl → State) (s : State) (c die : Nat) (bs : List Byte) : State :=
  let x := s.ctx c
  if x.desc.traceSize ≤ x.traceUsed then s.count c 14 1
  else match s.writeVaBy pre c die 0 (x.desc.traceBase + 32 * (x.traceHead % x.desc.traceSize)) bs with
    | .error e => (s.denies c e).count c 14 1
    | .ok s =>
      let x := s.ctx c
      s.setCtx c { x with traceHead := x.traceHead + 1, traceUsed := x.traceUsed + 1 }

/-- The translation of a ring's next place, if its record has to wait for the demand activation of its row (R157). -/
def State.traceRow (s : State) (c die : Nat) : Option Xl :=
  let x := s.ctx c
  match s.translate c die (x.desc.traceBase + 32 * (x.traceHead % x.desc.traceSize)) .write with
  | .error _ => none
  | .ok l => if s.demandWait l then some l else none

/-- A record written into the context's ring, if its kind is enabled. The event is not held back (R279): while the row of the ring's next place
has to be waited for (R157), the record waits, and those after it; log 51. -/
def State.traceBy (pre : State → Xl → State) (s : State) (c : Nat) (t : Trace) : State :=
  let x := s.ctx c
  if !x.desc.traceMask.getLsbD t.kind || x.desc.traceSize = 0 then s
  else
    let bs := t.bytes s.time x.desc.vf
    if s.traces.any (fun e => e.1 == c) then { s with traces := s.traces ++ [(c, t.die, bs)] }
    else match s.traceRow c t.die with
      | some l => { s.join l with traces := s.traces ++ [(c, t.die, bs)] }
      | none => s.putTrace pre c t.die bs

/-! ## Activations -/

/-- The token of a request (R154). -/
def tokenOf (st : Nat) (sat dem : Bool) (row bank : Nat) : Word :=
  BitVec.ofNat 32 (st * 2 ^ 30 + sat.toNat * 2 ^ 29 + dem.toNat * 2 ^ 28 + row * 2 ^ 10 + bank)

/-- A request ended: its token written, its slot complete, its trace record written (R154, R156, R279). -/
def State.finishReq (s : State) (pre : State → Xl → State) (q : Req) (tok : Word) : State :=
  let wid := match s.agentOf q.ag with
    | some a => a.wid.toNat
    | none => 0xFFFFFFFF
  let s := { s with reqs := s.reqs.filter (fun r => !(r.id == q.id)) }
  let s := s.doneK q.ag q.slot [tok]
  s.traceBy pre q.ctx { kind := 4, die := q.die, source := q.bank, code := q.slot, wid := wid, arg := tok.toNat, payload := q.va }

/-- One pending request applied to its row (R155, R160). -/
def State.applyReq (s : State) (pre : State → Xl → State) (dem : Bool) (q : Req) : State :=
  let pa := rowPa q.die q.bank q.row
  let r := s.rowResult pa none q.op q.elt q.sat (0x40 + q.entry) q.c0 q.c1
  (s.storeRow q.ctx q.die pa q.va r).finishReq pre q (tokenOf (if r.err then 1 else 0) r.clamped dem q.row q.bank)

/-- A demand activation that applies requests takes one of its slot's 32 (R157). -/
def State.takeDemand (s : State) (die : Nat) : State :=
  let d := s.opened die
  s.setDie die { d with demands := d.demands + 1 }

/-- An activation of a row: all of its pending requests are applied and removed (R155), and no access waits for them. The trace record of
one may itself open a row with pending requests, hence the fuel. -/
def State.activateBy : Nat → State → Bool → Nat → Nat → Nat → State
  | 0, s, _, _, _, _ => s
  | n + 1, s, dem, die, bank, row =>
    let pre (s : State) (x : Xl) : State := match x.place with
      | .stack d =>
        let (_, b, r) := rowOf x.pa
        if x.leaf.swept && !(s.reqsOn d b r).isEmpty then State.activateBy n (s.takeDemand d) true d b r else s
      | _ => s
    let s := (s.reqsOn die bank row).foldl (fun s q => if s.reqs.any (fun r => r.id == q.id) then s.applyReq pre dem q else s) s
    if (s.die die).waits.contains (bank, row) then
      s.setDie die { s.die die with waits := (s.die die).waits.filter (fun e => !(e == (bank, row))) }
    else s

/-- An activation of a row (R155). -/
def State.activate (s : State) (dem : Bool) (die bank row : Nat) : State := State.activateBy (s.reqs.length + 1) s dem die bank row

/-- A demand activation of a row. One that has to wait (R157) is not made: the step whose access it is comes to nothing, and the access joins
the order; log 51. -/
def State.demandRow (s : State) (die bank row : Nat) : State :=
  if (s.reqsOn die bank row).isEmpty then s
  else if s.rowWait die bank row then { s with blocked := s.blocked.or (some (die, bank, row)) }
  else (s.takeDemand die).activate true die bank row

/-- The demand activation that an access to a SWEPT page makes (R155). -/
def State.demand (s : State) (x : Xl) : State :=
  match x.place with
  | .stack d => if x.leaf.swept then s.demandRow d (rowOf x.pa).2.1 (rowOf x.pa).2.2 else s
  | _ => s

/-! ## Restores -/

/-- Region `h` applied to its row `i` for the window of instant `n` (R144, R150), after the pending requests of its partner's row. -/
def State.applyGlaze (s : State) (die h : Nat) (g : Region) (i n : Nat) : State :=
  let pa := g.rowAt i
  let bank := (rowOf pa).2.1
  let row := (rowOf pa).2.2
  let py := if g.op == RowOp.axpby then some (rowPa die bank ((row + g.delta).toNat)) else none
  let s := match py with
    | none => s
    | some q => s.activate false die bank (rowOf q).2.2
  let r := s.rowResult pa py g.op g.elt g.sat h g.c0 g.c1
  let s := s.storeRow g.ctx die pa (g.base + 1024 * i) r
  let s := if py.isSome then s.count g.ctx 8 1024 else s
  let s := s.traceBy State.demand g.ctx { kind := 3, die := die, source := bank, code := h, wid := 0xFFFFFFFF, arg := row, payload := g.base + 1024 * i }
  let d := s.die die
  let g' : Region := { aget d.regions g h with applied := aset (aget d.regions g h).applied i (g.window n + 1) }
  s.setDie die { d with regions := aset d.regions h g' }

/-- The next restore of the sweep of a die performed (R141, R142, R150, R155): requests first, then a glaze that is due. -/
def State.restore (s : State) (die : Nat) (e : Late) : State :=
  let w := s.weightOf die e.bank e.row e.visit (s.time * 512)
  let now := s.time
  let s := (s.setDie die (s.opened die)).activate false die e.bank e.row
  let s := match (s.die die).regionAt (rowPa die e.bank e.row) with
    | none => s
    | some (h, g, i) => if g.due i e.visit then s.applyGlaze die h g i e.visit else s
  let wraps := e.row == Config.rows - 1
  let d := s.die die
  s.setDie die { d with
    weight := d.weight + w
    late := (d.late.erase e).map (fun l => if wraps && l.bank == e.bank then { l with wrap := now } else l)
    wraps := if wraps then aset d.wraps e.bank (e.visit, now) else d.wraps }

/-- What the sweeps owe at this instant (R141, R157): the next restore of a die, else its next demand activation. Of what starts together in a
slot the restores go first (DESIGN CHOICE); log 62. -/
def State.sweepDue (s : State) : Option Instr :=
  s.dies.findSome? (fun e => match s.nextRestore e.1 with
    | some l => some (.rowRestore e.1 l.bank)
    | none => (s.nextDemand e.1).map (fun (b, r) => .demandActivation e.1 b r))

/-- Time passes by at most `n` ns: no step passes over the start of a slot of a stack whose sweep has something to apply; log 5. -/
def State.horizon (s : State) (n : Nat) : Nat :=
  s.dies.foldl (fun n e =>
    if e.2.released && s.sweepBusy e.1 then
      min n ((e.2.slotAt s.time + slotLen (e.2.sweepAt s.time).hot + 511) / 512 - s.time)
    else n) n

/-- Some ns pass in one go, the sweeps doing what falls due on the way (R141, R157), in at most as many acts as the fuel allows. -/
def State.elapse : Nat → State → Nat → State
  | 0, s, n => { s with time := s.time + n }
  | f + 1, s, n =>
    match s.dies.findSome? (fun e => (s.nextRestore e.1).map (fun l => (e.1, l))) with
    | some (d, l) => State.elapse f (s.restore d l) n
    | none => match s.dies.findSome? (fun e => (s.nextDemand e.1).map (fun r => (e.1, r))) with
      | some (d, b, r) => State.elapse f (s.demandRow d b r) n
      | none =>
        if n = 0 then s
        else
          let k := max 1 (s.horizon n)
          State.elapse f { s with time := s.time + k } (n - k)

/-- More acts than the sweeps of all dies can have in `n` ns: a slot lasts 30 ns or more, and in each a die has at most 128 restores of its own
and 32 demand activations, besides the postponed restores. -/
def State.sweepActs (s : State) (n : Nat) : Nat :=
  s.dies.foldl (fun k e => k + e.2.late.length + 160 * (n / 30 + 2)) (n + s.reqs.length + 2)

/-- Time stepped on by some ns; log 5. -/
def State.later (s : State) (n : Nat) : State := State.elapse (s.sweepActs n) s n

/-- The oldest trace record that waits is written, if the row of its place need not be waited for any more (R157, R279); log 51. -/
def State.flushTrace (s : State) : State :=
  match s.traces with
  | [] => s
  | (c, d, bs) :: l => match s.traceRow c d with
    | some x => s.join x
    | none =>
      let s := { s with traces := l }
      if (s.ctx c).desc.traceSize = 0 then s else s.putTrace State.demand c d bs

end Sys2Proof.Machine
end

