-- ==== Sys2Proof/Machine/Engine.lean ====
section
/-! DEFINITION. What the engines do by virtual address: reads and writes of runs of bytes, trace records (R279) and notices (R273). -/

namespace Sys2Proof.Machine

/-! ## Bytes by virtual address, for the engines -/

/-- Bytes read through a context's tables. -/
def State.readVa (s : State) (c die va n : Nat) : Except Nat (List Byte) :=
  match s.translate c die va .read with
  | .error e => .error e
  | .ok x => .ok (s.bytesAt x n)

/-- A run of `n` bytes in blocks of at most 64, each within a page. -/
def blocks : Nat → Nat → Nat → List (Nat × Nat)
  | 0, _, _ => []
  | fuel + 1, va, n =>
    if n = 0 then []
    else
      let k := min n (64 - va % 64)
      (va, k) :: blocks fuel (va + k) (n - k)

/-- The blocks of a run read in order; the first fault ends it. -/
def State.readBlocks (s : State) (c die : Nat) : List (Nat × Nat) → Except Nat (List Byte)
  | [] => .ok []
  | (a, k) :: l => match s.readVa c die a k with
    | .error e => .error e
    | .ok b => match s.readBlocks c die l with
      | .error e => .error e
      | .ok bs => .ok (b ++ bs)

/-- A run read block by block. -/
def State.readRun (s : State) (c die va n : Nat) : Except Nat (List Byte) := s.readBlocks c die (blocks (n + 1) va n)

/-- A little-endian number read. -/
def State.readNum (s : State) (c die va n : Nat) : Except Nat Nat :=
  match s.readRun c die va n with
  | .error e => .error e
  | .ok bs => .ok (leNat bs)

/-- The rows that a read of a run touches opened, so that their pending requests are applied first (R155), and its bytes on the mesh
counted (R276). -/
def State.touch (s : State) (c die va n : Nat) : State :=
  (blocks (n + 1) va n).foldl (fun s (a, k) => match s.translate c die a .read with
    | .error _ => s
    | .ok x => (s.demand x).countHops c die x k) s

/-- Bytes written through a context's tables within one page (R155); log 51. -/
def State.writeVa (s : State) (c die ag va : Nat) (bs : List Byte) : Except Nat State := s.writeVaBy State.demand c die ag va bs

/-- The blocks of a run written in order; the first fault ends it. -/
def State.writeBlocks (s : State) (c die ag : Nat) (l : List (Nat × Nat)) (bs : List Byte) : Except Nat State :=
  match l with
  | [] => .ok s
  | (a, k) :: l => match s.writeVa c die ag a (bs.take k) with
    | .error e => .error e
    | .ok s => s.writeBlocks c die ag l (bs.drop k)

/-- A run written block by block; the first fault ends it. -/
def State.writeRun (s : State) (c die ag va : Nat) (bs : List Byte) : Except Nat State :=
  s.writeBlocks c die ag (blocks (bs.length + 1) va bs.length) bs

/-- Whether every block of a run may be written and is not SWEPT; else the cause. -/
def State.runWritable (s : State) (c die va n : Nat) (swept : Bool) : Option Nat :=
  (blocks (n + 1) va n).foldl (fun acc (a, _) => match acc with
    | some e => some e
    | none => match s.translate c die a .both with
      | .error e => some e
      | .ok x => if x.leaf.swept && !swept then some 0x08 else none) none

/-- A trace record (R279); log 51. -/
def State.trace (s : State) (c : Nat) (t : Trace) : State := s.traceBy State.demand c t

/-! ## Notices (R273) -/

/-- The 16 bytes of a notice. -/
def Notice.bytes (n : Notice) (die : Nat) : List Byte :=
  leBytes 2 n.kind ++ leBytes 2 die ++ leBytes 4 n.wid.toNat ++ leBytes 8 n.addr

/-- A notice put into the queue, if there is room and the queue can be written. -/
def State.placeNotice (s : State) (c : Nat) (n : Notice) : Option State :=
  let x := s.ctx c
  if x.desc.noticeSize ≤ x.noticeUsed then none
  else match s.writeVa c x.die 0 (x.desc.noticeBase + 16 * (x.noticeTail % x.desc.noticeSize)) (n.bytes x.die) with
    | .error _ => none
    | .ok s =>
      let x := s.ctx c
      some (s.setCtx c { x with noticeTail := x.noticeTail + 1, noticeUsed := x.noticeUsed + 1 })

/-- A notice posted: it waits while the queue is full, and its poster with it. -/
def State.notice (s : State) (c : Nat) (n : Notice) : State :=
  let x := s.ctx c
  match if x.noticeWait.isEmpty then s.placeNotice c n else none with
  | some s => s
  | none =>
    let s := if x.noticeWait.isEmpty && decide (x.noticeUsed < x.desc.noticeSize) then
        s.deniesIf c (s.translate c x.die (x.desc.noticeBase + 16 * (x.noticeTail % x.desc.noticeSize)) .write)
      else s
    let s := s.setCtx c { s.ctx c with noticeWait := x.noticeWait ++ [n] }
    match n.poster with
    | none => s
    | some id => s.upd id (fun a => { a with hold := .notice })

/-- The context of a die that is charged with what no context of its own did: the active one, else the one in the locket, else any; log 38. -/
def State.chargedOn (s : State) (die : Nat) : Option Nat :=
  match s.ctxIn die .active, s.ctxIn die .locket with
  | some c, _ => some c
  | none, some c => some c
  | none, none => s.ctxIn die .saved

/-- A denied access of a sender outside the module (R275); log 38. -/
def State.denied (s : State) (die pa : Nat) : State :=
  match s.chargedOn die with
  | none => s
  | some c => (s.count c 13 1).notice c { kind := 4, wid := 0xFFFFFFFF, addr := pa, poster := none }

end Sys2Proof.Machine
end

