-- ==== Sys2Proof/Machine/Access.lean ====
section
/-! DEFINITION. Accesses of the V path: scratch (R123), private space (R124), typed buffers (R125-R127), the buffer of a
determinate launch (R193, R194), atomic operations (R299), and one thread's access of a long-latency memory word (R119-R121, R139). -/

namespace Sys2Proof.Machine

/-! ## Scratch and typed buffers -/

/-- A scratch allocation. -/
def State.scratch (s : State) (i : Nat) : Scratch := aget s.scratches { size := 0, bytes := [], poison := [] } i

/-- A scratch allocation changed. -/
def State.setScratch (s : State) (i : Nat) (x : Scratch) : State := { s with scratches := aset s.scratches i x }

/-- No buffer is allocated (R125). -/
def Bufs.empty : Bufs :=
  { launch := 0, die := 0, core := 0, wsize := 0, xsize := 0, csize := 0, w := [], x := [], c := [], wtags := [],
    xtags := [], wpois := [], xpois := [], cpois := [] }

/-- The typed buffers of a launch on a core. -/
def State.bufsOf (s : State) (launch die core : Nat) : Bufs :=
  (s.bufs.find? (fun b => b.launch == launch && b.die == die && b.core == core)).getD .empty

/-- The typed buffers of a launch on a core changed. -/
def State.setBufs (s : State) (x : Bufs) : State :=
  { s with bufs := s.bufs.map (fun b => if b.launch = x.launch && b.die = x.die && b.core = x.core then x else b) }

/-- The allocation of a buffer in bytes. -/
def Bufs.size (b : Bufs) : BufName → Nat
  | .w => b.wsize
  | .x => b.xsize
  | .c => b.csize

/-- The bytes of a buffer. -/
def Bufs.mem (b : Bufs) : BufName → List Host.Cell
  | .w => b.w
  | .x => b.x
  | .c => b.c

/-- The poisoned units of a buffer (R235). -/
def Bufs.pois (b : Bufs) : BufName → List Nat
  | .w => b.wpois
  | .x => b.xpois
  | .c => b.cpois

/-- A buffer's bytes and poison replaced. -/
def Bufs.put (b : Bufs) (n : BufName) (m : List Host.Cell) (p : List Nat) : Bufs :=
  match n with
  | .w => { b with w := m, wpois := p }
  | .x => { b with x := m, xpois := p }
  | .c => { b with c := m, cpois := p }

/-- The tag of a granule: none is RAW (R127). -/
def Bufs.tag (b : Bufs) (n : BufName) (g : Nat) : Option (List DWord) :=
  match n with
  | .w => aget? b.wtags g
  | .x => aget? b.xtags g
  | .c => none

/-- A granule's tag set, or made RAW. -/
def Bufs.setTag (b : Bufs) (n : BufName) (g : Nat) (t : Option (List DWord)) : Bufs :=
  let f (l : Assoc (List DWord)) : Assoc (List DWord) := match t with
    | none => adel l g
    | some t => aset l g t
  match n with
  | .w => { b with wtags := f b.wtags }
  | .x => { b with xtags := f b.xtags }
  | .c => b

/-- Bytes stored in a buffer; every granule touched becomes RAW (R127, R306); poison as R235. -/
def Bufs.store (b : Bufs) (n : BufName) (off : Nat) (bs : List Byte) (poison : Bool) : Bufs :=
  let b := b.put n (Memory.write (b.mem n) off bs) (markPoison (b.pois n) off bs.length poison)
  (span (off / 1024) ((off + bs.length + 1023) / 1024)).foldl (fun b g => b.setTag n g none) b

/-! ## Atomic operations (R299) -/

/-- The value written, of `bits` bits, or none where nothing is written. -/
def atomValue (op : AtomOp) (bits : Nat) (old d e : Nat) : Option Nat :=
  let so := sgn bits old
  let sd := sgn bits d
  match op with
  | .add => some ((old + d) % 2 ^ bits)
  | .and => some (old &&& d)
  | .or => some (old ||| d)
  | .xor => some (old ^^^ d)
  | .min => some (if sd < so then d else old)
  | .max => some (if so < sd then d else old)
  | .umin => some (min old d)
  | .umax => some (max old d)
  | .exch => some d
  | .cas => if old = d then some e else none
  | .fadd => some 0

/-- The value written, FADD with the origin of its word (R300). -/
def atomResult (op : AtomOp) (bits : Nat) (o : Origin) (old d e : Nat) : Option Nat :=
  match op with
  | .fadd => some (Fmt.fp32.add .rne o old d)
  | op => atomValue op bits old d e

/-! ## Addresses of a memory word (R119, R124, R126) -/

/-- Size in bytes of a type. -/
def tySize : MemType → Nat
  | .u8 | .s8 => 1
  | .u16 | .s16 => 2
  | .b32 => 4
  | .b64 => 8
  | .b128 => 16

/-- Registers that a type takes (R120). -/
def tyCount : MemType → Nat
  | .b64 => 2
  | .b128 => 4
  | _ => 1

/-- The registers of a loaded value: extended, or cut into words (R120). -/
def loadRegs (ty : MemType) (bs : List Byte) : List Word :=
  match ty with
  | .s8 => [word (sgn 8 (leNat bs))]
  | .s16 => [word (sgn 16 (leNat bs))]
  | .u8 | .u16 => [BitVec.ofNat 32 (leNat bs)]
  | _ => (wordsOf bs).map (BitVec.ofNat 32)

/-- The bytes that a store takes from its data registers. -/
def storeBytes (ty : MemType) (ws : List Word) : List Byte := (ws.flatMap (fun w => leBytes 4 w.toNat)).take (tySize ty)

/-- What a long-latency memory word does. -/
structure MemOp where
  load : Bool
  store : Bool
  /-- an atomic operation, and whether it returns the old value -/
  atom : Option AtomOp
  red : Bool
  pft : Bool
  spc : Space
  buf : Option BufName
  ty : MemType
  unif : Bool
  deriving DecidableEq, Repr

/-- No operation on global memory. -/
def MemOp.base : MemOp :=
  { load := false, store := false, atom := none, red := false, pft := false, spc := .g, buf := none, ty := .b32, unif := false }

/-- Type of an atomic operation. -/
def wideTy (wide : Bool) : MemType := if wide then .b64 else .b32

/-- Space of an atomic operation. -/
def scrSpace (scr : Bool) : Space := if scr then .s else .g

/-- The memory operation of an instruction, if it is one. -/
def memOp (i : Instr) : Option MemOp :=
  match i with
  | .ldV _ _ _ _ spc ty _ _ _ => some { MemOp.base with load := true, spc := spc, ty := ty }
  | .ldU _ _ _ _ spc ty _ _ _ => some { MemOp.base with load := true, spc := spc, ty := ty, unif := true }
  | .stV _ _ _ _ spc ty _ _ => some { MemOp.base with store := true, spc := spc, ty := ty }
  | .stU _ _ _ _ spc ty _ _ => some { MemOp.base with store := true, spc := spc, ty := ty, unif := true }
  | .atomV _ _ _ _ scr op wide _ => some { MemOp.base with atom := some op, spc := scrSpace scr, ty := wideTy wide }
  | .atomU _ _ _ _ scr op wide _ =>
    some { MemOp.base with atom := some op, spc := scrSpace scr, ty := wideTy wide, unif := true }
  | .redV _ _ _ _ scr op wide _ =>
    some { MemOp.base with atom := some op, red := true, spc := scrSpace scr, ty := wideTy wide }
  | .redU _ _ _ _ scr op wide _ =>
    some { MemOp.base with atom := some op, red := true, spc := scrSpace scr, ty := wideTy wide, unif := true }
  | .pftV _ _ _ spc ty _ _ => some { MemOp.base with pft := true, spc := spc, ty := ty }
  | .pftU _ _ _ spc ty _ _ => some { MemOp.base with pft := true, spc := spc, ty := ty, unif := true }
  | .bld _ _ _ b ty => some { MemOp.base with load := true, buf := some b, ty := ty }
  | .bst _ _ _ b ty => some { MemOp.base with store := true, buf := some b, ty := ty }
  | _ => none

/-- Where a thread's access goes: a global VA (private ones marked), a scratch offset, or a typed buffer's offset. -/
inductive Target where
  | glob (va : Nat) (priv : Bool)
  | scr (off : Nat)
  | buf (n : BufName) (off : Nat)
  deriving DecidableEq, Repr

/-- The address that R261 reports. -/
def Target.addr : Target → Nat
  | .glob va _ => va
  | .scr off => off
  | .buf _ off => off

/-- The address of thread `t`, or the cause of R119, R120, R124 or R205 that it raises: in space G 0x08 of an address of 2^56 or more before 0x09,
elsewhere 0x09 before the bounds (0x08, 0x13) and %phwm (0x10), where several apply (DESIGN CHOICE: R121 gives no order); log 63. -/
def Agent.target (ag : Agent) (m : MemOp) (base : Nat) (off : Word) (t : Nat) : Except Nat Target × Nat :=
  let n := tySize m.ty
  match m.buf with
  | some b => (if off.toNat % n = 0 then .ok (.buf b off.toNat) else .error 0x09, off.toNat)
  | none => match m.spc with
    | .g =>
      let va := wrapN 64 ((base : Int) + off.toInt)
      (if 2 ^ 56 ≤ va then .error 0x08 else if !m.pft && va % n ≠ 0 then .error 0x09 else .ok (.glob va false), va)
    | .s => (if off.toNat % n = 0 then .ok (.scr off.toNat) else .error 0x09, off.toNat)
    | .p =>
      let o := off.toNat
      let va := ag.privBase + o / 16 * 512 + t * 16 + o % 16
      (if !m.pft && o % n ≠ 0 then .error 0x09
       else if 2048 * 2 ^ ag.pw < o + n then .error 0x08
       else if ag.phwm.toNat < o + n then .error 0x10
       else .ok (.glob va true), va)

/-! ## Determinate launches (R192-R195) -/

/-- The quantum of a launch. -/
def Launch.quantum (l : Launch) : Nat := if l.qn = 0 then 1024 else 2 ^ (l.qn + 7)

/-- Whether an agent is a warp of a determinate launch. -/
def State.isDet (s : State) (ag : Agent) : Bool :=
  ag.kind == .warp && (match s.launchOf ag.launch with
    | some l => l.det
    | none => false)

/-- A warp that waits for a grant (R195). -/
def Agent.sleeping (a : Agent) : Bool :=
  match a.hold, a.wait with
  | .acq .., _ | .clasp .., _ | _, .acq .. => true
  | _, _ => false

/-- The live warps of a launch, those that a saved image holds among them. -/
def State.liveWarps (s : State) (l : Nat) : List Agent :=
  s.allAgents.filter (fun a => a.kind == .warp && a.launch == l && !(a.status == .retired))

/-- A page of an agent's context is SWEPT. -/
def State.sweptAt (s : State) (a : Agent) (va : Nat) : Bool :=
  match s.translate a.ctx a.die va .read, s.translate a.ctx a.die va .write with
  | .ok x, _ | _, .ok x => x.leaf.swept
  | _, _ => false

/-- A word in flight that waits for its warp's turn (R194): RGET, MBXR, a returning ATOM, or one with an access to a SWEPT page. -/
def State.turnWord (s : State) (a : Agent) (f : Inflight) : Bool :=
  !f.finished && match f.instr with
    | .rget .. | .mbxr .. => true
    | i => match memOp i with
      | none => false
      | some m => (m.atom.isSome && !m.red) || (if m.unif then [0] else threadsOf f.e).any (fun t =>
        match (a.target m f.base.toNat (f.av.getD t 0) t).1 with
        | .ok (.glob va _) => s.sweptAt a va
        | _ => false)

/-- The clock at which a warp stands among those of its launch (R194): its logical clock, or the earlier one of a word of its that still
waits for its turn, or that a trap withdrew; log 21. -/
def State.stands (s : State) (a : Agent) : Nat :=
  ((a.inflight.filter (s.turnWord a)).map (·.aux) ++ a.clocks.map (·.2)).foldl min a.lclk

/-- The two conditions of R194 for a word issued at `clock`: the commit before its quantum is finished, and the warp is the
minimum by (clock, warp id) among the live warps that are not sleeping. A word of the warp itself that has issued before and waits for its
turn goes first. -/
def State.detReady (s : State) (ag : Agent) (clock : Nat) : Bool :=
  match s.launchOf ag.launch with
  | none => true
  | some l =>
    decide (clock / l.quantum ≤ l.commits) && (ag.inflight.filter (s.turnWord ag)).all (fun f => decide (clock ≤ f.aux)) &&
      (s.liveWarps ag.launch).all (fun a =>
        a.id == ag.id || a.sleeping || decide (clock < s.stands a) || (clock == s.stands a && decide (ag.wid.toNat < a.wid.toNat)))

/-- No earlier word of its agent waits for its turn before word `f` (R194). -/
def State.turnFirst (s : State) (a : Agent) (f : Inflight) : Bool :=
  (a.inflight.takeWhile (fun g => !(g.no == f.no))).all (fun g => !s.turnWord a g)

/-- The word that an agent issues may act on the terms of R194. In a handler its warp stands at the words that the trap withdrew; log 21. -/
def State.detNow (s : State) (ag : Agent) : Bool := s.detReady ag (if ag.handler then s.stands ag else ag.lclk)

/-- The condition for a load (R193): commit j - 1 has finished. -/
def State.detLoadReady (s : State) (ag : Agent) (clock : Nat) : Bool :=
  match s.launchOf ag.launch with
  | none => true
  | some l => decide (clock / l.quantum ≤ l.commits)

/-- The bytes `[a, a + |bs|)` overlaid with a write of `w` at `b`. -/
def overlay (a : Nat) (bs : List Byte) (b : Nat) (w : List Byte) : List Byte :=
  bs.zipIdx.map (fun (x, i) => if b ≤ a + i && a + i < b + w.length then w.getD (a + i - b) 0 else x)

/-- Bytes read and the poisoned codewords among them (address / 32), in the space that a buffer's entries name. -/
structure Seen where
  bytes : List Byte
  pois : List Nat
  deriving DecidableEq, Repr

/-- Bytes `[a, a + |bytes|)` after one buffered write (R193), with the poison that it leaves (R139). A RED on a poisoned codeword writes
nothing; a window of 16 bytes holds the word of a RED whole, or none of it. -/
def DetEntry.over (e : DetEntry) (scr : Bool) (a : Nat) (x : Seen) : Seen :=
  match e.op with
  | .store sc b w p | .atom sc b w p =>
    if sc = scr then { bytes := overlay a x.bytes b w, pois := markPoison x.pois b w.length p } else x
  | .red sc b op wide d p v t pc =>
    let n := if wide then 8 else 4
    if sc = scr && a ≤ b && b + n ≤ a + x.bytes.length && !x.pois.contains (b / 32) then
      match atomResult op (8 * n) ⟨v, t, pc⟩ (leNat ((x.bytes.drop (b - a)).take n)) d.toNat 0 with
      | none => x
      | some r => { bytes := overlay a x.bytes b (leBytes n r), pois := markPoison x.pois b n p }
    else x
  | .clean sc b => if sc = scr then { x with pois := setIn x.pois (b / 32) false } else x
  | .rel _ | .arrive _ => x

/-- Bytes read, overlaid with buffered writes in their order. -/
def overlayDet (buf : List DetEntry) (scr : Bool) (a : Nat) (x : Seen) : Seen := buf.foldl (fun x e => e.over scr a x) x

/-- The window of whole 16-byte lines around `n` bytes at `a`: its address and length. -/
def lineOf (a n : Nat) : Nat × Nat := (a / 16 * 16, (a + n + 15) / 16 * 16 - a / 16 * 16)

/-- `n` bytes at `a` of a window that starts at `w`, and whether a codeword of theirs is poisoned. -/
def Seen.part (x : Seen) (w a n : Nat) : List Byte × Bool :=
  ((x.bytes.drop (a - w)).take n, (span (a / 32) ((a + n + 31) / 32)).any (fun c => x.pois.contains c))

/-- The codewords that `n` bytes at `a` touch, those for which `f` holds. -/
def poisIn (f : Nat → Bool) (a n : Nat) : List Nat := (span (a / 32) ((a + n + 31) / 32)).filter f

/-- Where a buffered entry stands among those of its launch: the clock of its word, then the warp id. -/
structure DetAt where
  wid : Nat
  scratch : Nat
  entry : DetEntry
  deriving DecidableEq, Repr

/-- An entry comes before another: by clock, then by warp id. -/
def DetAt.lt (x y : DetAt) : Bool :=
  decide (x.entry.clock < y.entry.clock) || (x.entry.clock == y.entry.clock && decide (x.wid < y.wid))

/-- Entries in order of (clock, warp id), those of one word in the order given. -/
def sortDet (l : List DetAt) : List DetAt := l.foldl (fun l x => l.filter (fun y => !x.lt y) ++ [x] ++ l.filter x.lt) []

/-- The results of returning atomics that a launch holds uncommitted, from clocks in `[from_, to_)`, in the order in which they
acted (R194). -/
def State.detAtoms (s : State) (launch from_ to_ : Nat) : List DetAt :=
  sortDet ((s.allAgents.filter (fun a => a.kind == .warp && a.launch == launch)).flatMap (fun a =>
    (a.detBuf.filter (fun e => decide (from_ ≤ e.clock) && decide (e.clock < to_) && (match e.op with
      | .atom .. => true
      | _ => false))).map (fun e => { wid := a.wid.toNat, scratch := a.scratch, entry := e })))

/-- Bytes overlaid with the earlier returning atomics of a quantum (R194). -/
def overlayAtoms (l : List DetAt) (scratch : Nat) (scr : Bool) (a : Nat) (x : Seen) : Seen :=
  overlayDet ((l.filter (fun x => !scr || x.scratch == scratch)).map (·.entry)) scr a x

/-- An entry put into the warp's buffer. -/
def State.buffer (s : State) (id clock : Nat) (op : DetOp) : State :=
  s.upd id (fun a => { a with detBuf := a.detBuf ++ [{ clock := clock, op := op }] })

/-! ## One access -/

/-- What one access does: a value with its poison, a fault, or a wait on the terms of R194. -/
inductive Got (α : Type) where
  | ok (s : State) (x : α)
  | fault (cause : Nat)
  | wait
  deriving DecidableEq, Repr

/-- `n` bytes at a target reach past its allocation (R123, R125). -/
def State.short (s : State) (ag : Agent) (t : Target) (n : Nat) : Bool :=
  match t with
  | .glob .. => false
  | .scr off => decide ((s.scratch ag.scratch).size < off + n)
  | .buf b off => decide ((s.bufsOf ag.launch ag.die ag.core).size b < off + n)

/-- A translated V-path access: SWEPT rows take a demand activation, in determinate mode on the terms of R194 (R155, R157). -/
def State.reach (s : State) (ag : Agent) (clock va n : Nat) (a : Acc) : Got Xl :=
  match s.translate ag.ctx ag.die va a with
  | .error e => .fault e
  | .ok x =>
    if (x.leaf.swept && s.isDet ag && !s.detReady ag clock) || s.demandWait x then .wait
    else .ok (((s.cache ag.ctx va x.leaf).countHops ag.ctx ag.die x n).demand x) x

/-- Whether the launch's buffer takes a write to the target (R193): private memory and SWEPT pages are written directly. -/
def State.buffered (s : State) (ag : Agent) (priv : Bool) (x : Option Xl) : Bool :=
  s.isDet ag && !priv && !(match x with
    | some x => x.leaf.swept
    | none => false)

/-- The window around an access in memory or scratch: its bytes, and its poisoned codewords named as the space of the access names them
(an address in a page and its physical address agree in their codeword's place). -/
def State.window (s : State) (ag : Agent) (t : Target) (n : Nat) : Seen :=
  let (w, k) := lineOf t.addr n
  match t with
  | .glob va _ => match s.translate ag.ctx ag.die va .read with
    | .error _ => { bytes := [], pois := [] }
    | .ok x =>
      let at_ (a : Nat) : Xl := { x with pa := x.pa + a - va }
      { bytes := s.bytesAt (at_ w) k, pois := poisIn (fun c => s.poisonedAt (at_ (32 * c)) 1) w k }
  | .scr _ => { bytes := Memory.read (s.scratch ag.scratch).bytes w k, pois := poisIn (s.scratch ag.scratch).poison.contains w k }
  | .buf .. => { bytes := [], pois := [] }

/-- `n` bytes of memory or scratch with their poison, under buffered writes (R193). -/
def State.seen (s : State) (ag : Agent) (t : Target) (n : Nat) (buf : List DetEntry) : List Byte × Bool :=
  let scr := match t with
    | .scr _ => true
    | _ => false
  (overlayDet buf scr (lineOf t.addr n).1 (s.window ag t n)).part (lineOf t.addr n).1 t.addr n

/-- `n` bytes read, with the poison of R139. `a` is what the access needs of the page. -/
def State.get (s : State) (ag : Agent) (clock : Nat) (t : Target) (n : Nat) (a : Acc) : Got (List Byte × Bool) :=
  match t with
  | .glob va priv => match s.reach ag clock va n a with
    | .fault e => .fault e
    | .wait => .wait
    | .ok s' x =>
      if s.buffered ag priv (some x) && !s.detLoadReady ag clock then .wait
      else
        .ok (s'.count ag.ctx 3 n)
          (if s.buffered ag priv (some x) then s'.seen ag (.glob va priv) n ag.detBuf else (s'.bytesAt x n, s'.poisonedAt x n))
  | .scr off =>
    let sc := s.scratch ag.scratch
    if sc.size < off + n then .fault 0x08
    else if s.isDet ag && !s.detLoadReady ag clock then .wait
    else
      .ok (s.count ag.ctx 3 n) (s.seen ag (.scr off) n (if s.isDet ag then ag.detBuf else []))
  | .buf b off =>
    let bf := s.bufsOf ag.launch ag.die ag.core
    if b == .w || bf.size b < off + n then .fault 0x13
    else
      .ok (s.count ag.ctx 3 n)
        (Memory.read (bf.mem b) off n, (span (off / 32) ((off + n + 31) / 32)).any (fun u => (bf.pois b).contains u))

/-- Bytes written. -/
def State.put (s : State) (ag : Agent) (clock : Nat) (t : Target) (bs : List Byte) (poison : Bool) (a : Acc) : Got Unit :=
  match t with
  | .glob va priv => match s.reach ag clock va bs.length a with
    | .fault e => .fault e
    | .wait => .wait
    | .ok s' x =>
      let s' := s'.count ag.ctx 4 bs.length
      if s.buffered ag priv (some x) then .ok (s'.buffer ag.id clock (.store false va bs poison)) ()
      else .ok (s'.writeAt x ag.ctx ag.id va none bs poison) ()
  | .scr off =>
    let sc := s.scratch ag.scratch
    if sc.size < off + bs.length then .fault 0x08
    else
      let s' := s.count ag.ctx 4 bs.length
      if s.isDet ag then .ok (s'.buffer ag.id clock (.store true off bs poison)) ()
      else
        let sc' : Scratch := { sc with bytes := Memory.write sc.bytes off bs, poison := markPoison sc.poison off bs.length poison }
        .ok (s'.setScratch ag.scratch sc') ()
  | .buf b off =>
    let bf := s.bufsOf ag.launch ag.die ag.core
    if bf.size b < off + bs.length then .fault 0x13
    else .ok ((s.count ag.ctx 4 bs.length).setBufs (bf.store b off bs poison)) ()

/-- A read-modify-write of `n` bytes (R299, R300, R380): the old value and its poison. A returning ATOM of a determinate launch
waits on the terms of R194; a RED is buffered as an operation. -/
def State.rmw (s : State) (ag : Agent) (clock : Nat) (t : Target) (n : Nat) (op : AtomOp) (red : Bool) (o : Origin)
    (d e : Nat) (poison : Bool) : Got (List Byte × Bool) :=
  let det := match t with
    | .glob va priv => match s.translate ag.ctx ag.die va .both with
      | .ok x => s.buffered ag priv (some x)
      | .error _ => false
    | .scr _ => s.isDet ag
    | .buf .. => false
  if det && !red && !s.detReady ag clock then .wait
  else
    let scr := match t with
      | .scr _ => true
      | _ => false
    if det && red then
      match (match t with
        | .glob va _ => match s.reach ag clock va n .both with
          | .fault e => Got.fault e
          | .wait => .wait
          | .ok s _ => .ok s ()
        | .scr off => if (s.scratch ag.scratch).size < off + n then .fault 0x08 else .ok s ()
        | .buf .. => .fault 0x13) with
      | .fault e => .fault e
      | .wait => .wait
      | .ok s () => .ok ((s.count ag.ctx 4 n).buffer ag.id clock (.red scr t.addr op (n == 8) (BitVec.ofNat 64 d) poison o.v o.t o.pc)) ([], false)
    else match s.get ag clock t n .both with
      | .fault e => .fault e
      | .wait => .wait
      | .ok s' (old, pois) =>
        let q := match s.launchOf ag.launch with
          | some l => l.quantum
          | none => 1
        let w := (lineOf t.addr n).1
        let atoms := s.detAtoms ag.launch (clock / q * q) (clock / q * q + q)
        let (old, pois) := if det then
            (overlayAtoms atoms ag.scratch scr w (overlayDet ag.detBuf scr w (s.window ag t n))).part w t.addr n
          else (old, pois)
        if pois then .ok s' (old, true)
        else match atomResult op (8 * n) o (leNat old) d e with
          | none => .ok s' (old, false)
          | some v =>
            let bs := leBytes n v
            if det then
              .ok ((s'.count ag.ctx 4 n).buffer ag.id clock (.atom scr t.addr bs poison)) (old, false)
            else match s'.put ag clock t bs poison .both with
              | .fault e => .fault e
              | .wait => .wait
              | .ok s'' () => .ok s'' (old, false)

/-! ## One thread of a word -/

/-- Data register `i` of thread `t` of a word in flight. -/
def Inflight.data (f : Inflight) (i t : Nat) : Word := (f.dv.getD i []).getD t 0

/-- The number in data registers `i` and on. -/
def Inflight.num (f : Inflight) (wide : Bool) (i t : Nat) : Nat :=
  if wide then (f.data (2 * i) t).toNat + 2 ^ 32 * (f.data (2 * i + 1) t).toNat else (f.data i t).toNat

/-- What a thread's access ended with: done, with the values of its destinations and their poison, and whether it reports
poison; faulted; or not yet possible. -/
inductive Did where
  | done (s : State) (ws : List Word) (pois : Bool) (report : Bool)
  | fault (cause addr : Nat)
  | wait
  deriving DecidableEq, Repr

/-- Elements of a thread's access (R168). -/
def MemOp.elements (m : MemOp) : Nat := (tySize m.ty + 3) / 4

/-- Registers that a memory word writes. -/
def MemOp.dests (m : MemOp) : Nat := if m.load || (m.atom.isSome && !m.red) then tyCount m.ty else 0

/-- The bytes that thread `t` of a store writes. -/
def Inflight.stored (f : Inflight) (m : MemOp) (t : Nat) : List Byte :=
  storeBytes m.ty ((List.range (tyCount m.ty)).map (fun i => f.data i t))

/-- A target further on by some bytes. -/
def Target.plus (t : Target) (k : Nat) : Target :=
  match t with
  | .glob va p => .glob (va + k) p
  | .scr off => .scr (off + k)
  | .buf b off => .buf b (off + k)

/-- The page that a half-done store has reached, at a virtual address (R249): its other elements go there too; log 53. -/
def State.pageReached (s : State) (ag : Agent) (f : Inflight) (va : Nat) : Option Xl :=
  f.page.bind (fun e =>
    let l : Leaf := { desc := e.desc.toNat, level := e.level, at_ := 0 }
    match placeOf (s.ctx ag.ctx).system (l.pa va) with
    | .ok p => some ⟨l.pa va, l, p⟩
    | .error _ => none)

/-- Some of a store's bytes written: with the checks of R121, or on the page that its first element has reached. -/
def State.putOn (s : State) (ag : Agent) (f : Inflight) (tg : Target) (bs : List Byte) (poison : Bool) : Got Unit :=
  match tg with
  | .glob va _ => match s.pageReached ag f va with
    | some x => .ok (((s.countHops ag.ctx ag.die x bs.length).count ag.ctx 4 bs.length).writeAt x ag.ctx ag.id va none bs poison) ()
    | none => s.put ag f.aux tg bs poison .write
  | tg => s.put ag f.aux tg bs poison .write

/-- Parts of a store's bytes written one after another, each at its distance from the target; the first that cannot be ends it. -/
def State.putParts (s : State) (ag : Agent) (f : Inflight) (tg : Target) (poison : Bool) (l : List (Nat × List Byte)) : Got Unit :=
  l.foldl (fun g (k, bs) => match g with
    | .ok s () => s.putOn ag f (tg.plus k) bs poison
    | g => g) (.ok s ())

/-- The bytes of a load: all in one, or those of its elements that have been read and now the others (R168, R183). -/
def State.getParts (s : State) (ag : Agent) (f : Inflight) (m : MemOp) (tg : Target) : Got (List Byte × Bool) :=
  if f.got.isEmpty then s.get ag f.aux tg (tySize m.ty) .read
  else (List.range m.elements).foldl (fun g i => match g with
    | .ok s (bs, p) => (match aget? f.got i with
      | some (b, q) => .ok s (bs ++ b, p || q)
      | none => match s.get ag f.aux (tg.plus (4 * i)) 4 .read with
        | .ok s (b, q) => .ok s (bs ++ b, p || q)
        | g => g)
    | g => g) (.ok s ([], false))

/-- The parts of a store still to be written once the elements of `part` are (R168): all of it in one, if there are none; else an 8-byte word
in one where none of it is written (R67). -/
def storeParts (bs : List Byte) (part : BitVec 4) : List (Nat × List Byte) :=
  if part = 0 then [(0, bs)]
  else (List.range 2).flatMap (fun j =>
    match (List.range 4).filter (fun i => i / 2 == j && !part.getLsbD i && decide (4 * i < bs.length)) with
    | [i] => [(4 * i, (bs.drop (4 * i)).take 4)]
    | i :: _ => [(4 * i, (bs.drop (4 * i)).take 8)]
    | [] => [])

/-- Whether `n` bytes at a target touch the 32-byte unit `u` of their space. -/
def touches (a n u : Nat) : Bool := decide (a < 32 * u + 32) && decide (32 * u < a + n)

/-- The address of thread `t`, if it makes an access. -/
def Inflight.addrOf (f : Inflight) (ag : Agent) (m : MemOp) (t : Nat) : Option Nat :=
  match (ag.target m f.base.toNat (f.av.getD t 0) t).1 with
  | .error _ => none
  | .ok tg => if mbit f.pa t then none else some tg.addr

/-- The threads of a store that have acted, `t` among them, cover the 32-byte unit `u` with clean data (R139, R235); log 54. -/
def Inflight.covers (f : Inflight) (ag : Agent) (m : MemOp) (t u : Nat) : Bool :=
  let n := tySize m.ty
  let l := ((threadsOf f.e).filter (fun i => i == t || mbit (ag.cbmOf f.slot) i)).filterMap (fun i =>
    (f.addrOf ag m i).map (fun a => (a, mbit f.pd i)))
  l.all (fun (a, p) => !p || !touches a n u) &&
    (List.range 32).all (fun i => l.any (fun (a, _) => decide (a ≤ 32 * u + i) && decide (32 * u + i < a + n)))

/-- The poison of a 32-byte unit cleared, where a target's space names it in the state `was` that the store found (R139); log 54. -/
def State.cleanUnit (s was : State) (ag : Agent) (clock : Nat) (tg : Target) (u : Nat) : State :=
  match tg with
  | .glob va priv => match was.translate ag.ctx ag.die va .write with
    | .error _ => s
    | .ok x =>
      if was.buffered ag priv (some x) then s.buffer ag.id clock (.clean false (32 * u))
      else match x.place with
        | .remote => s
        | _ => { s with memPoison := setIn s.memPoison ((x.pa + 32 * u - va) / 32) false }
  | .scr _ =>
    if s.isDet ag then s.buffer ag.id clock (.clean true (32 * u))
    else s.setScratch ag.scratch { s.scratch ag.scratch with poison := setIn (s.scratch ag.scratch).poison u false }
  | .buf b _ =>
    let bf := s.bufsOf ag.launch ag.die ag.core
    s.setBufs (bf.put b (bf.mem b) (setIn (bf.pois b) u false))

/-- The poison that the threads of a store clear together, once thread `t` has acted on the state `was` (R139, R268); log 54. -/
def State.cleanJoint (s was : State) (ag : Agent) (f : Inflight) (m : MemOp) (t : Nat) (tg : Target) : State :=
  (span (tg.addr / 32) ((tg.addr + tySize m.ty + 31) / 32)).foldl
    (fun s u => if f.covers ag m t u then s.cleanUnit was ag f.aux tg u else s) s

/-- Thread `t` of memory word `f` of agent `ag` performs its access, or what is left of it (R119-R124, R139, R268, R300, R348, R372,
R380, R386). A poisoned address makes no access and leaves the destinations poisoned, with free values; log 52. -/
def State.threadAccess (s : State) (ag : Agent) (f : Inflight) (m : MemOp) (t : Nat) : Did :=
  let (tg, addr) := ag.target m f.base.toNat (f.av.getD t 0) t
  if m.load && m.buf == some .w then .fault 0x13 addr
  else if mbit f.pa t then
    .done s ((List.range m.dests).map (fun i => Config.poisonedValue s.fresh (4 * t + i))) (m.dests != 0) (!m.pft)
  else match tg with
    | .error c => if m.pft then .done s [] false false else .fault c addr
    | .ok tg =>
      let clock := f.aux
      let n := tySize m.ty
      if m.pft then .done s [] false false
      else match m.atom with
        | some op =>
          let wide := n == 8
          match s.rmw ag clock tg n op m.red ⟨!m.unif, t, f.pc⟩ (f.num wide 0 t) (f.num wide 1 t) (mbit f.pd t) with
            | .fault c => .fault c addr
            | .wait => .wait
            | .ok s (old, p) =>
              if m.unif && !m.red && p then .fault 0x17 addr
              else .done s (if m.red then [] else loadRegs m.ty old) p (mbit f.pd t)
        | none =>
          if m.store then
            match s.putParts ag f tg (mbit f.pd t) (storeParts (f.stored m t) f.part) with
            | .fault c => .fault c addr
            | .wait => .wait
            | .ok s' () => .done (s'.cleanJoint s ag f m t tg) [] false (mbit f.pd t)
          else match s.getParts ag f m tg with
            | .fault c => .fault c addr
            | .wait => .wait
            | .ok s (bs, p) => if m.unif && p then .fault 0x17 addr else .done s (loadRegs m.ty bs) p false

/-- The bytes that an access of thread `t` moves in one (R67, R168): an 8-byte word of a page that may be executed, an element of any
other memory; log 53. -/
def State.grain (s : State) (ag : Agent) (f : Inflight) (m : MemOp) (t : Nat) : Nat :=
  match (ag.target m f.base.toNat (f.av.getD t 0) t).1 with
  | .ok (.glob va _) => (match s.translate ag.ctx ag.die va .write with
    | .ok x => if bit x.leaf.desc 4 then 8 else 4
    | .error _ => 4)
  | _ => 4

/-- A wide store, or a wide load from a typed buffer, of thread `t` may be seen half done (R168, R183): in no determinate launch, and not on
a SWEPT page, whose row takes a column access at once (R159). A load from memory is one snapshot (R54, R349); log 53. -/
def State.splits (s : State) (ag : Agent) (f : Inflight) (m : MemOp) (t : Nat) : Bool :=
  (m.store || (m.load && m.buf.isSome && !(m.buf == some .w))) && decide (s.grain ag f m t < tySize m.ty) && !mbit f.pa t && !s.isDet ag &&
    match (ag.target m f.base.toNat (f.av.getD t 0) t).1 with
    | .ok (.glob va _) => (match s.translate ag.ctx ag.die va .write with
      | .ok x => !x.leaf.swept
      | .error _ => false)
    | .ok tg => !s.short ag tg (tySize m.ty)
    | .error _ => false

/-- The page at a target, as an access that writes to it finds it. -/
def State.pageOf (s : State) (ag : Agent) (tg : Target) : Option TlbEntry :=
  match tg with
  | .glob va _ => (match s.translate ag.ctx ag.die va .write with
    | .ok x => some { page := va / 2 ^ 16, desc := BitVec.ofNat 64 x.leaf.desc, level := x.leaf.level }
    | .error _ => none)
  | _ => none

/-- One more part of a wide access of thread `t`, of those left one that timing chooses (R168, R183); log 53. -/
def State.elementStep (s : State) (ag : Agent) (f : Inflight) (m : MemOp) (t : Nat) : State × Inflight :=
  let g := s.grain ag f m t
  let left := (List.range (tySize m.ty / g)).filter (fun i => !f.part.getLsbD (i * (g / 4)))
  let i := left.getD (Config.nextElement s.fresh % left.length) 0 * (g / 4)
  let part := f.part ||| BitVec.ofNat 4 ((2 ^ (g / 4) - 1) * 2 ^ i)
  match (ag.target m f.base.toNat (f.av.getD t 0) t).1 with
  | .error _ => (s, f)
  | .ok tg =>
    if m.load then match s.get ag f.aux (tg.plus (4 * i)) 4 .read with
      | .ok s x => (s, { f with part := part, got := (i, x) :: f.got })
      | _ => (s, f)
    else match s.putOn ag f (tg.plus (4 * i)) (((f.stored m t).drop (4 * i)).take g) (mbit f.pd t) with
      | .ok s' () => (s', { f with part := part, page := f.page.or (s.pageOf ag tg) })
      | _ => (s, f)

/-! ## A thread has acted -/

/-- The unfinished word in a slot changed. -/
def Agent.updFlight (ag : Agent) (slot : Nat) (g : Inflight → Inflight) : Agent :=
  { ag with inflight := ag.inflight.map (fun f => if f.slot = slot && !f.finished then g f else f) }

/-- The destinations of thread `t` of a word written. -/
def Agent.deliver (ag : Agent) (f : Inflight) (t : Nat) (ws : List Word) (pois : Bool) : Agent :=
  (f.dests.zip ws).foldl (fun ag (r, w) => match r with
    | .v n => ag.writeV n (oneMask t) (fun _ => w) (if pois then oneMask t else 0)
    | .k n => ag.setK n w
    | .p n => ag.writeP n (oneMask t) (fun _ => w.getLsbD 0)) ag

/-- Thread `t` of a word has acted: its destinations, its bit of the slot, its poison report; the next thread starts with no element. -/
def Agent.threadDone (ag : Agent) (f : Inflight) (unif : Bool) (t addr : Nat) (ws : List Word) (pois report : Bool) : Agent :=
  let ag := ag.deliver f t ws pois
  let ag := ag.setCbm f.slot (if unif then fullMask else ag.cbmOf f.slot ||| oneMask t)
  let ag := if f.part = 0 then ag else ag.updFlight f.slot (fun f => { f with part := 0, got := [], page := none })
  if report then ag.reportPoison (if unif then fullMask else oneMask t) addr f.pc f.hnd f.no else ag

/-- The threads of a word that have not acted. -/
def Inflight.yetToAct (f : Inflight) (m : MemOp) (cbm : Mask) : List Nat :=
  if m.unif then [0] else (threadsOf f.e).filter (fun t => !mbit cbm t)

/-- A word of a warp with no live thread whose threads have all acted or faulted: nothing takes their faults (R238); log 30. -/
def Agent.overWith (a : Agent) (f : Inflight) : Bool :=
  a.live == 0 && (match memOp f.instr with
    | none => false
    | some m => (f.yetToAct m (a.cbmOf f.slot)).all (fun t => mbit f.fmask t))

end Sys2Proof.Machine
end

