-- ==== Sys2Proof/Machine/Ops.lean ====
section
/-! DEFINITION. The shared operations of the machine: object words (R171, R175), retirement (R61, R176), the end of groups and
programs (R218, R258), taking an exception (R248-R254, R259) with the double fault (R255), next-address selection (R60-R65), and
the issue of a word (R78, R79). -/

namespace Sys2Proof.Machine

/-- The outcome of a meaning. -/
abbrev Out := Host.Outcome State Fault Refusal

/-- A fault of the issuing agent: cause, TMASK, TADDR (R261), and the resume address where it is not the word itself. -/
structure Flt where
  cause : Nat
  mask : Mask
  addr : Nat
  rpc : Option Nat := none
  deriving DecidableEq, Repr

/-- A fault whose TMASK is EXM and whose TADDR is 0 (R261). -/
def Agent.flt (ag : Agent) (c : Nat) : Flt := { cause := c, mask := if ag.kind == .seq then 0 else ag.exm, addr := 0 }

/-- A fault of a word that is not per thread, with an address (R261). -/
def Flt.at (c a : Nat) : Flt := { cause := c, mask := fullMask, addr := a }

/-- What the body of a word does: it completes, and the next word lies at `next`; it faults at issue; or it holds issue. -/
inductive Res where
  | ok (s : State) (next : Nat)
  | bad (f : Flt)
  | hold (s : State)
  deriving DecidableEq, Repr

/-- The address after a word (R60); log 22. -/
def nextPc (pc : Nat) : Nat := (pc + 8) % 2 ^ 48

/-- The address after the current word; log 22. -/
def State.npc (s : State) : Nat := nextPc s.agent.pc

/-- Whether privileged words may issue: in a handler or the system context (R97). -/
def State.mayPriv (s : State) : Bool := s.agent.handler || (s.ctx s.agent.ctx).system

/-- The current agent changed. -/
def State.me (s : State) (f : Agent → Agent) : State := { s with agent := f s.agent }

/-- A fresh handle. -/
def State.fresh1 (s : State) : State := { s with handles := s.handles + 1 }

/-- A warp of a launch by its warp id. -/
def State.warpOf (s : State) (launch wid : Nat) : Option Agent :=
  s.agents.find? (fun a => a.kind == .warp && a.launch == launch && a.wid.toNat == wid)

/-- A group of a launch. -/
def State.groupOf (s : State) (launch g : Nat) : Option Group :=
  match s.launchOf launch with
  | none => none
  | some l => l.groups[g]?

/-- A warp that can still take part: neither retired nor with LIVE = 0 (R238). -/
def Agent.alive (a : Agent) : Bool := !(a.status == .retired) && !(a.live == 0)

/-! ## Object words (R171) -/

/-- Shared holders. -/
def objSh (w : Nat) : Nat := fld w 0 16

/-- Waiting requests. -/
def objWait (w : Nat) : Nat := fld w 16 16

/-- Held exclusively. -/
def objEx (w : Nat) : Bool := bit w 63

/-- An object word of its fields. -/
def objWord (ex : Bool) (wait sh : Nat) : Nat := ex.toNat * 2 ^ 63 + wait % 2 ^ 16 * 2 ^ 16 + sh % 2 ^ 16

/-- Where an agent's object lies. -/
def State.keyOf (s : State) (ag : Agent) (o : Held) : Except Nat ObjKey :=
  if o.scr then .ok (.scr ag.scratch o.addr)
  else match s.translate ag.ctx ag.die o.addr .both with
    | .error e => .error e
    | .ok x => .ok (.mem x.pa)

/-- The word of an object. -/
def State.obj (s : State) (k : ObjKey) : Nat :=
  match k with
  | .mem pa => Memory.readNat s.mem pa 8
  | .scr a off => Memory.readNat (s.scratch a).bytes off 8
  | .away .. => 0

/-- The word of an object replaced by its home. -/
def State.setObj (s : State) (ag : Agent) (o : Held) (k : ObjKey) (w : Nat) : State :=
  match k with
  | .scr a off =>
    let sc := s.scratch a
    s.setScratch a { sc with bytes := Memory.write sc.bytes off (leBytes 8 w) }
  | .away .. => s
  | .mem _ => match s.translate ag.ctx ag.die o.addr .both with
    | .error _ => s
    | .ok x => s.writeAt x ag.ctx ag.id o.addr none (leBytes 8 w) false

/-- The release of one hold (R175). -/
def relWord (w : Nat) : Nat :=
  if objEx w then objWord false (objWait w) (objSh w) else objWord false (objWait w) (objSh w + 65535)

/-- The object word of a released hold written. An object whose page can no longer be reached keeps its word. -/
def State.unhold (s : State) (ag : Agent) (o : Held) : State :=
  match s.keyOf ag o with
  | .error _ => s
  | .ok k => s.setObj ag o k (relWord (s.obj k))

/-- A hold of a warp released: at once, or at the commit of its quantum in determinate mode (R195). -/
def State.release (s : State) (id : Nat) (o : Held) : State :=
  match s.agentOf id with
  | none => s
  | some ag =>
    let s := s.upd id (fun a => { a with held := a.held.filter (fun h => !(h == o)) })
    if s.isDet ag then s.buffer id ag.lclk (.rel o) else s.unhold ag o

/-- Held objects in ascending address order (R176). -/
def sortHeld (l : List Held) : List Held :=
  l.foldr (fun o l => l.filter (fun h => decide (h.addr < o.addr)) ++ [o] ++ l.filter (fun h => decide (o.addr ≤ h.addr))) []

/-- The clasp round of a group. -/
def State.round (s : State) (launch g : Nat) : Round :=
  (s.rounds.find? (fun r => r.launch == launch && r.g == g)).getD { launch := launch, g := g, arrived := [], passing := [], waiting := [] }

/-- A clasp round changed. -/
def State.setRound (s : State) (r : Round) : State :=
  { s with rounds := r :: s.rounds.filter (fun x => !(x.launch == r.launch && x.g == r.g)) }

/-- A waiting request taken back from its object's home. -/
def State.unask (s : State) (ag : Agent) (h : Hold) : State :=
  match h with
  | .acq _ o _ => match s.waiters.find? (fun w => w.ag == ag.id) with
    | none => s
    | some r =>
      let s := { s with waiters := s.waiters.filter (fun w => !(w.ag == ag.id)) }
      let w := s.obj r.key
      s.setObj ag o r.key (objWord (objEx w) (objWait w + 65535) (objSh w))
  | _ => s

/-- The hold of an agent ended, its requests staying where they are: the word at PC issues again, a CLASP whose arrival is done at
its wait part. -/
def State.unhold1 (s : State) (id : Nat) : State :=
  match s.agentOf id with
  | none => s
  | some ag => match ag.hold with
    | .clasp g whole _ =>
      let r := s.round ag.launch g
      let s := s.setRound { r with waiting := setIn r.waiting id false }
      s.upd id (fun a => { a with hold := .none, arrPending := whole })
    | _ => s.upd id (fun a => { a with hold := .none })

/-- A waiting request withdrawn from its home, and the hold ended (R415, R259); log 42. -/
def State.withdraw (s : State) (id : Nat) : State :=
  match s.agentOf id with
  | none => s
  | some ag =>
    let s := (s.unask ag ag.hold).unask ag ag.wait
    (s.unhold1 id).upd id (fun a => { a with wait := .none })

/-! ## Ends -/

/-- The wide accesses of an agent that are half done are finished before it settles or ends: an access is done whole or not at all
(R249); log 27. -/
def State.wholeStores (s : State) (id : Nat) : State :=
  match s.agentOf id with
  | none => s
  | some ag => ag.inflight.foldl (fun s f =>
    match memOp f.instr, (threadsOf f.e).find? (fun t => !mbit (ag.cbmOf f.slot) t && !mbit f.fmask t) with
    | some m, some t =>
      if f.finished || f.part = 0 then s
      else match s.threadAccess ag f m t with
        | .done s ws p rep =>
          let s := s.upd id (fun a => a.threadDone f m.unif t (ag.target m f.base.toNat (f.av.getD t 0) t).2 ws p rep)
          if (s.agentOf id).any (fun a => a.slotBusy f.slot) then s else s.upd id (fun a => a.complete f.slot)
        | _ => s
    | _, _ => s) s

/-- A warp that holds objects waits with their release for the acknowledgement of its mirrored writes, as REL does (R175, R176); log 56. -/
def State.awaitsAcks (s : State) (ag : Agent) : Bool :=
  !ag.held.isEmpty && s.mirrors.any (fun m => m.ag == ag.id && m.copy.isNone && !m.failed)

/-- The words of a warp at its end: those of threads are withdrawn, its row requests that no queue has accepted are too, and its other
detached words run on (R249, R258, R330). A pair-weight load that executed in no thread still stands for its partner's match (R239). -/
def State.atEnd (s : State) (id : Nat) : State :=
  let gone (f : Inflight) : Bool := s.reqs.any (fun q => q.ag == id && q.slot == f.slot && q.id == f.aux && !q.accepted)
  ({ s with reqs := s.reqs.filter (fun q => !(q.ag == id && !q.accepted)) }).upd id (fun a =>
    { a with live := 0, exm := 0, inflight := a.inflight.filter (fun f => (f.detached && !f.finished && !gone f) || (f.finished && !(f.pwNo == 0))), hold := .none,
             handler := false, arrPending := false })

/-- A warp retires (R61): its held objects are released (R176), results that arrive later are discarded. One that has to wait for
acknowledgements first stays behind, with no live thread. -/
def State.retire (s : State) (id : Nat) : State :=
  match s.agentOf id with
  | none => s
  | some ag =>
    let was := s
    let s := ((s.wholeStores id).withdraw id).atEnd id
    if s.awaitsAcks ag then (s.upd id (fun a => { a with status := .exiting })).retimed was
    else
      let s := (sortHeld ag.held).foldl (fun s o => s.release id o) s
      let s := s.upd id (fun a => { a with status := .retired })
      (s.updLaunch ag.launch (fun l => { l with exited := setIn l.exited ag.wid.toNat true })).retimed was

/-- A FORK whose program is `p`. -/
def Inflight.forks (f : Inflight) (p : Nat) : Bool :=
  !f.finished && f.aux == p && (match f.instr with
    | .fork .. => true
    | _ => false)

/-- The FORK of a program that ends while it waits for its place in a queue completes (R258, R330); log 29. -/
def State.dropFork (s : State) (p : Agent) : State :=
  if !(p.status == .waiting) then s
  else match (s.agents ++ s.savedAgents).find? (fun a => a.id == p.forker) with
    | none => s
    | some a => match a.inflight.find? (fun f => f.forks p.id) with
      | none => s
      | some f => s.doneK a.id f.slot []

/-- A sequencer program ends: its operations in the arrays run on, and its entry in the queue is free (R214, R218). -/
def State.endProgram (s : State) (id : Nat) : State :=
  match s.agentOf id with
  | none => s
  | some ag =>
    let started := !(ag.status == .waiting || ag.status == .queued)
    let s := ((s.wholeStores id).dropFork ag).upd id (fun a => { a with status := .retired, inflight := [], hold := .none })
    if started then
      s.trace ag.ctx { kind := 6, die := ag.die, source := ag.core, code := 0, wid := ag.wid.toNat, arg := 0,
                       payload := ag.argp.toNat }
    else s

/-- Group `g` of a launch ends (R258). -/
def State.endGroup (s : State) (launch g : Nat) : State :=
  match s.groupOf launch g with
  | none => s
  | some gr =>
    let progs := s.agents.filter (fun a => a.kind == .seq && a.launch == launch && !(a.status == .retired) &&
      a.parties.all (fun w => gr.members.contains w))
    let s := progs.foldl (fun s a => s.endProgram a.id) s
    let ms := s.agents.filter (fun a => a.kind == .warp && a.launch == launch && !(a.status == .retired) &&
      gr.members.contains a.wid.toNat)
    let s := ms.foldl (fun s a => s.retire a.id) s
    s.updLaunch launch (fun l => { l with ended := true })

/-- The groups of a launch that have a property and hold a warp. -/
def State.groupsWith (s : State) (launch wid : Nat) (f : Group → Bool) : List Nat :=
  match s.launchOf launch with
  | none => []
  | some l => (l.groups.zipIdx.filter (fun (g, _) => f g && g.members.contains wid)).map (·.2)

/-- A double fault (R255): every FD group of the warp ends, or the warp alone; the driver is notified. -/
def State.doubleFault (s : State) (id addr : Nat) : State :=
  match s.agentOf id with
  | none => s
  | some ag =>
    let gs := s.groupsWith ag.launch ag.wid.toNat (·.fd)
    let s := gs.foldl (fun s g => s.endGroup ag.launch g) s
    let s := s.retire id
    s.notice ag.ctx { kind := 2, wid := ag.wid, addr := addr, poster := some id }

/-! ## The trap frame (R251-R253) -/

/-- A word that a trap captures (R249, R253). -/
def Inflight.captured (f : Inflight) : Bool := !f.detached && !f.finished

/-- The words of 32 threads. -/
def laneBytes (l : List Word) : List Byte := (List.range 32).flatMap (fun t => leBytes 4 (l.getD t 0).toNat)

/-- A replay entry (R253). -/
def Inflight.bytes (f : Inflight) (cbm : Mask) : List Byte :=
  leBytes 8 f.word.toNat ++ (leBytes 8 f.pc ++ (leBytes 4 cbm.toNat ++ (leBytes 4 (f.slot + 8 + f.ecause * 256) ++
  (leBytes 4 f.fmask.toNat ++ (leBytes 4 0 ++ (leBytes 8 f.eaddr ++ (leBytes 8 f.base.toNat ++ (laneBytes f.av ++
  (laneBytes f.bv ++
  ((List.range 32).flatMap (fun t => (List.range 4).flatMap (fun i => leBytes 4 ((f.dv.getD i []).getD t 0).toNat)) ++
  (leBytes 4 f.pa.toNat ++ (leBytes 4 f.pb.toNat ++ (leBytes 4 f.pd.toNat ++ List.replicate 132 0)))))))))))))

/-- What a trap reports (R252). -/
structure Trap where
  cause : Nat
  mask : Mask
  addr : Nat
  fpc : Nat
  rpc : Nat
  seq : Bool := false
  sig : Bool := false
  deriving DecidableEq, Repr

/-- The header of a frame as runs of bytes (R252): the entries of the stacks above their depths are not written; log 27. -/
def Agent.header (ag : Agent) (t : Trap) (n : Nat) : List (Nat × List Byte) :=
  [(0x000, leBytes 4 (t.cause + t.seq.toNat * 2 ^ 8 + t.sig.toNat * 2 ^ 9 + ag.arrPending.toNat * 2 ^ 10 + n * 2 ^ 16) ++
      (leBytes 4 t.mask.toNat ++ (leBytes 8 t.addr ++ (leBytes 8 t.fpc ++ (leBytes 8 t.rpc ++ (leBytes 4 ag.exm.toNat ++
      (leBytes 4 ag.live.toNat ++
      (leBytes 4 (ag.msk.length + ag.link.length * 2 ^ 8 + ag.loops.length * 2 ^ 12) ++
      (leBytes 4 0 ++ (leBytes 8 ag.j0 ++ leBytes 8 ag.j1)))))))))),
   (0x040, ag.msk.reverse.flatMap (fun e => leBytes 4 e.outer.toNat ++ leBytes 4 e.alt.toNat)),
   (0x0C0, ag.link.reverse.flatMap (fun a => leBytes 8 a)),
   (0x100, ag.loops.flatMap (fun l => leBytes 8 l.start ++ leBytes 8 l.stop)),
   (0x130, (List.range 3).flatMap (fun i => leBytes 4 (aget ag.lc 0 i).toNat) ++ (leBytes 4 0 ++
      ((List.range 4).flatMap (fun i => leBytes 4 (ag.kreg (60 + i)).toNat) ++ List.replicate 176 0)))]

/-- The frame address of a warp (R251). -/
def State.frameVa (s : State) (ag : Agent) : Nat := (s.ctx ag.ctx).desc.ta + 8192 * (128 * ag.core + ag.ridx)

/-- Runs of bytes written at offsets from an address. -/
def State.writeRuns (s : State) (c die ag va : Nat) (l : List (Nat × List Byte)) : Except Nat State :=
  match l with
  | [] => .ok s
  | (o, bs) :: l => match s.writeRun c die ag (va + o) bs with
    | .error e => .error e
    | .ok s => s.writeRuns c die ag va l

/-- The words of an agent that a trap captures, in issue order. -/
def Agent.capturedWords (ag : Agent) : List Inflight := ag.inflight.filter Inflight.captured

/-- The runs of a frame: header and replay entries (R252, R253); log 27. -/
def Agent.frameRuns (ag : Agent) (t : Trap) : List (Nat × List Byte) :=
  let caps := ag.capturedWords
  ag.header t caps.length ++ caps.zipIdx.map (fun (f, i) => (0x200 + 960 * i, f.bytes (ag.cbmOf f.slot)))

/-- Fault-domain signals to the other live members of each FD group (R259); signals merge. -/
def State.signalFd (s : State) (ag : Agent) (cause : Nat) : State :=
  let gs := s.groupsWith ag.launch ag.wid.toNat (·.fd)
  s.updAll (fun a =>
    if a.kind == .warp && a.launch == ag.launch && !(a.id == ag.id) && a.alive && a.fdSignal.isNone &&
        gs.any (fun g => match s.groupOf ag.launch g with
          | none => false
          | some gr => gr.members.contains a.wid.toNat)
    then { a with fdSignal := some { cause := cause, wid := ag.wid } } else a)

/-- The clocks of an agent once it has settled (R192): a word that is withdrawn counts when its replay retires and not before, at the clock
at which it issued; log 21. -/
def Agent.uncountedBy (p : Inflight → Bool) (ag : Agent) : Agent :=
  let caps := (ag.inflight.filter (fun f => p f && !f.hnd)).map (fun f => (f.slot, f.aux))
  let counted := (ag.clocks.filter (fun e => !caps.any (fun c => c.1 == e.1))).length
  let taken := (caps.filter (fun c => !ag.clocks.any (fun e => e.1 == c.1))).length
  if ag.handler then ag else { ag with clocks := caps, lclk := ag.lclk + counted - taken }

/-- The clocks of an agent whose trap, eviction or stop withdraws every unfinished word of its threads; log 21. -/
def Agent.uncounted (ag : Agent) : Agent := ag.uncountedBy Inflight.captured

/-- The agent after it has settled and entered its handler (R249, R254). -/
def Agent.entered (ag : Agent) (f he : Nat) : Agent :=
  { ag.uncounted with
    exm := ag.live, msk := [], link := [], loops := [], inflight := ag.inflight.filter (fun w => !w.captured)
    tframe := BitVec.ofNat 64 f, handler := true, returning := false, pc := he % 2 ^ 48, hold := .none, arrPending := false
    caught := ag.inflight.any Inflight.captured, status := .live }

/-- The page at an address is marked MIG: the driver is asked to pull it (R136, R273). -/
def State.migAt (s : State) (c die va : Nat) : Bool :=
  match s.leafFor c die va with
  | .error _ => false
  | .ok l => bit l.desc 8

/-- Taking an exception (R249, R251-R254, R259): the current warp settles, its frame is written, and it enters its handler. A
frame that cannot be written is a double fault. None: the frame lies on a further faulting page and has to wait (R138); log 27. -/
def State.tryTrap (s : State) (t : Trap) : Option State :=
  let s := (s.wholeStores s.agent.id).withdraw s.agent.id
  let ag := s.agent
  let f := s.frameVa ag
  match s.writeRuns ag.ctx ag.die ag.id f (ag.frameRuns t) with
  | .error c => if c = 0x07 && s.pageWait ag.die ag.ctx f then none else some ((s.faulting ag.die ag.ctx f c).doubleFault ag.id f)
  | .ok s' =>
    let s' := (s'.me (fun a => a.entered f (s.ctx ag.ctx).desc.he)).count ag.ctx 12 1
    let s' := if t.cause = 0x07 && s.migAt ag.ctx ag.die t.addr then
        s'.notice ag.ctx { kind := 5, wid := ag.wid, addr := t.addr, poster := some ag.id }
      else s'
    some (if t.sig then s' else s'.signalFd ag t.cause)

/-- An exception taken, or put off with nothing done while its frame has to wait. -/
def State.enterTrap (s : State) (t : Trap) : State := (s.tryTrap t).getD s

/-- The copy behind a word in flight. -/
def Inflight.copyId (f : Inflight) : Option Nat :=
  match f.instr with
  | .cpy .. | .tload .. | .tstor .. => some f.aux
  | _ => none

/-- A write of agent `id`'s copy in the unfinished word of a slot whose buddy failed to acknowledge it: the slot and the VA (R234). -/
def State.mirrorFail (s : State) (ag : Agent) (slots : Nat → Bool) : Option (Nat × Nat) :=
  ag.inflight.findSome? (fun f =>
    if f.finished || !slots f.slot then none
    else (s.mirrors.find? (fun m => m.failed && m.ag == ag.id && m.copy.isSome && m.copy == f.copyId)).map (fun m => (f.slot, m.va)))

/-- A write of the agent's own words whose buddy failed to acknowledge it (R136). -/
def State.mirrorLost (s : State) (ag : Agent) : Option Nat :=
  (s.mirrors.find? (fun m => m.failed && m.ag == ag.id && m.copy.isNone)).map (·.va)

/-- A mirror failure that is being reported is forgotten, and a slot that waited for it completes. -/
def State.clearMirror (s : State) (va : Nat) : State :=
  let ag := s.agent
  let s := match s.mirrorFail ag (fun _ => true) with
    | none => s
    | some (slot, _) => s.me (fun a => a.complete slot)
  { s with mirrors := s.mirrors.filter (fun m => !(m.failed && m.ag == ag.id && m.va == va)) }

/-- An issue fault of the current agent (R248): a trap of a warp, a double fault in a handler (R255), the end of a sequencer
program (R218). A fault on a further page waits while 512 faulting pages are outstanding, and so does one whose frame lies on such a page
(R138): the word issues again. -/
def State.raise (s : State) (f : Flt) : State :=
  let ag := s.agent
  if f.cause = 0x07 && s.pageWait ag.die ag.ctx f.addr then s
  else
  let was := s
  let s := (if f.cause = 0x0F then s.clearMirror f.addr else s).faulting ag.die ag.ctx f.addr f.cause
  let ag := s.agent
  if ag.kind == .seq then
    s.me (fun a => { a with status := .faulted, hold := .none
                            seqFault := some { cause := f.cause, mask := f.mask, addr := f.addr, fpc := ag.pc, rpc := none, hnd := false } })
  else if ag.handler then s.doubleFault ag.id f.addr
  else (s.tryTrap { cause := f.cause, mask := f.mask, addr := f.addr, fpc := ag.pc, rpc := f.rpc.getD ag.pc }).getD was

/-! ## Events due at a word boundary (R250) -/

/-- The earliest-issued word with threads that faulted. -/
def Agent.faulted (ag : Agent) : Option Inflight := ag.inflight.find? (fun f => !f.finished && !(f.fmask == 0))

/-- The recorded fault of the earliest-issued detached word, where the agent can take it. -/
def Agent.firstRecorded (ag : Agent) : Option Recorded :=
  (ag.recorded.filter (fun r => !ag.handler || r.hnd)).foldl (fun o r => match o with
    | none => some r
    | some q => if r.no < q.no then some r else o) none

/-- The thread fault of the earliest-issued word, of threads of a word in flight or recorded of a detached one, as a trap; and the agent
without it (R250). -/
def Agent.threadTrap (ag : Agent) : Option (Trap × Agent) :=
  let ofWord (f : Inflight) : Trap × Agent :=
    ({ cause := f.ecause, mask := f.fmask, addr := f.eaddr, fpc := f.pc, rpc := ag.pc }, ag)
  let ofRec (r : Recorded) : Trap × Agent :=
    ({ cause := r.cause, mask := r.mask, addr := r.addr, fpc := r.fpc, rpc := r.rpc.getD ag.pc }, { ag with recorded := ag.recorded.erase r })
  match ag.faulted, ag.firstRecorded with
  | none, none => none
  | some f, none => some (ofWord f)
  | none, some r => some (ofRec r)
  | some f, some r => some (if f.no ≤ r.no then ofWord f else ofRec r)

/-- The causes that a sequencer program delivers with TMASK = EXM (R261). -/
def exmCause (c : Nat) : Bool := [0x01, 0x02, 0x0A, 0x0C, 0x0D, 0x0E, 0x0F].contains c

/-- The trap due at the agent's word boundary, the first of R250; whether a word of its handler raised it; and the agent
without the event. -/
def Agent.due (ag : Agent) : Option (Trap × Bool × Agent) :=
  match ag.threadTrap with
  | some (t, x) => some (t, ag.handler, x)
  | none => match ag.report.filter (fun r => !ag.handler || r.hnd) with
      | some r => some ({ cause := 0x17, mask := r.mask, addr := r.addr, fpc := r.fpc, rpc := ag.pc }, ag.handler,
          { ag with report := none })
      | none =>
        if ag.handler then none
        else match ag.delivered with
          | r :: l => some ({ cause := r.cause, mask := if exmCause r.cause then ag.exm else r.mask, addr := r.addr, fpc := r.fpc, rpc := ag.pc, seq := true }, false,
              { ag with delivered := l })
          | [] =>
            if ag.wdSignal then
              some ({ cause := 0x19, mask := 0, addr := 0, fpc := ag.pc, rpc := ag.pc, sig := true }, false,
                { ag with wdSignal := false })
            else match ag.fdSignal with
              | none => none
              | some g => some ({ cause := g.cause, mask := 0, addr := g.wid.toNat, fpc := ag.pc, rpc := ag.pc, sig := true },
                  false, { ag with fdSignal := none })

/-- The due trap of the current agent taken; while its frame has to wait (R138), its event stays due. -/
def State.takeDue (s : State) : State :=
  match s.agent.due with
  | none => s
  | some (t, double, ag) =>
    if double then ({ s with agent := ag }).doubleFault ag.id t.addr else (({ s with agent := ag }).tryTrap t).getD s

/-! ## Next address (R60-R65) -/

/-- The agent after its NAS has acted, `next` standing for PC + 8; or the cause of a NAS that cannot act (R78). -/
def Agent.nasNext (ag : Agent) (nas : Nas) (next : Nat) : Except Nat Agent :=
  let go (p : Nat) : Except Nat Agent := .ok { ag with pc := p }
  match nas with
  | .next | .yield => go next
  | .goJ0 => go ag.j0
  | .goJ1 => go ag.j1
  | .callJ0 => if 8 ≤ ag.link.length then .error 0x12 else .ok { ag with link := next :: ag.link, pc := ag.j0 }
  | .callJ1 => if 8 ≤ ag.link.length then .error 0x12 else .ok { ag with link := next :: ag.link, pc := ag.j1 }
  | .ret => match ag.link with
    | [] => .error 0x0A
    | r :: l => .ok { ag with link := l, pc := r }
  | .lend => match ag.loops.getLast? with
    | none => .error 0x0A
    | some l =>
      if ag.pc = l.stop then
        let i := ag.loops.length - 1
        let n := aget ag.lc 0 i - 1
        if n = 0 then .ok { ag with lc := aset ag.lc i n, loops := ag.loops.dropLast, pc := next }
        else .ok { ag with lc := aset ag.lc i n, pc := l.start }
      else .error 0x0A
  | .exit =>
    if ag.kind == .seq then .ok { ag with status := if ag.status == .live then .exiting else ag.status, pc := next }
    else
      let live := ag.live &&& ~~~ag.exm
      .ok { ag with live := live, exm := 0, pc := next, status := if live = 0 then .exiting else ag.status }
  | .ifB0GoJ0 => go (if ag.flag 0 then ag.j0 else next)
  | .ifB1GoJ0 => go (if ag.flag 1 then ag.j0 else next)
  | .ifNotB0GoJ0 => go (if ag.flag 0 then next else ag.j0)
  | .ifNotB1GoJ0 => go (if ag.flag 1 then next else ag.j0)
  | .ifB0GoJ1 => go (if ag.flag 0 then ag.j1 else next)
  | .ifB1GoJ1 => go (if ag.flag 1 then ag.j1 else next)
  | .ifNoneGoJ1 => if ag.kind == .seq then .error 0x0A else go (if ag.exm = 0 then ag.j1 else next)

/-! ## Issue -/

/-- What the issue of a word does besides its effect and its NAS: the logical clock (R192), the windows of earlier words (R69),
its place among the ready warps (R216). `hnd`: issued in handler mode; log 21. -/
def Agent.ticked (ag : Agent) (hnd : Bool) (now : Nat) : Agent :=
  { ag with lclk := if hnd then ag.lclk else ag.lclk + 1
            inflight := ag.inflight.map (fun f => { f with left := f.left - 1 })
            passed := 0, readySince := now, hold := .none }

/-- A word has issued: counter 0 (R276) and the progress timer (R266) besides. `was` is the agent before it; log 21. -/
def State.finish (s : State) (was : Agent) : State :=
  let s := s.me (fun a => a.ticked was.handler s.time)
  (s.count was.ctx 0 1).restartTimer was.launch

/-- A varying word takes some threads through a track, a cycle each (R46, R276). -/
def State.track (s : State) (e : Mask) : State := s.count s.agent.ctx 1 (popcount 32 e.toNat)

/-- A frame field that a special names (R251). -/
def State.frameWord (s : State) (off : Nat) : Except Nat Nat :=
  s.readNum s.agent.ctx s.agent.die (s.agent.tframe.toNat + off) 4

/-- The frame fields as the specials read them. -/
def State.frameOf (s : State) (off : Nat) : Word :=
  match s.frameWord off with
  | .error _ => 0
  | .ok n => BitVec.ofNat 32 n

/-- The fault of a word whose source is a frame field that cannot be read. -/
def State.frameFault (s : State) (us : List Use) : Option Flt :=
  us.findSome? (fun u => match u.o with
    | .sp i =>
      if isFrameSpecial i && decide (i.val < 0x36) then match s.frameWord (frameField i) with
        | .error e => some (Flt.at e (s.agent.tframe.toNat + frameField i))
        | .ok _ => none
      else none
    | _ => none)

/-- The value an operand supplies in thread `t` of the current agent. -/
def State.lane (s : State) (k : ImmKind) (o : Opnd) (t : Nat) : Word := s.agent.lane s.frameOf k o t

/-- The value of a uniform operand. -/
def State.uval (s : State) (k : ImmKind) (o : Opnd) : Word := s.lane k o 0

/-- A word issues (R78, R79) once its checks have given the first cause they meet, if any: the word's own effect, then its NAS,
whose failure is a fault that undoes the effect. A word of class U, A or X whose guard is false does nothing but its NAS (R59); log 20. -/
def State.issueAfter (s : State) (nas : Nas) (cause : Option Nat) (srcs : List Use) (guard : Bool) (body : State → Res) : State :=
  match cause with
  | some c => s.raise (s.agent.flt c)
  | none => match s.frameFault srcs with
    | some f => s.raise f
    | none => match (if guard then body s else .ok s s.npc) with
      | .bad f => s.raise f
      | .hold s' => s'
      | .ok s' next => match s'.agent.nasNext nas next with
        | .error c => s.raise (s.agent.flt c)
        | .ok ag => ({ s' with agent := ag }).finish s.agent

/-- A word issues after the checks of `need` in their order (R78, R79); log 20. -/
def State.issue (s : State) (nas : Nas) (need : Need) (guard : Bool) (body : State → Res) : State :=
  s.issueAfter nas (s.agent.firstFault s.mayPriv need guard) need.srcs guard body

/-- A word that holds issue checks its NAS before it starts (R78). -/
def Agent.nasBad (ag : Agent) (nas : Nas) (next : Nat) : Option Nat :=
  match ag.nasNext nas next with
  | .error c => some c
  | .ok _ => none

/-- A word that cannot go on yet: its NAS is checked, and it holds issue (R78). -/
def State.holdFor (s : State) (nas : Nas) (h : Hold) : Res :=
  match s.agent.nasBad nas s.npc with
  | some c => .bad (s.agent.flt c)
  | none => .hold (s.me (fun a => { a with hold := h }))

/-- A word whose hold has ended by its grant completes: its NAS acts, and issue goes on (R175, R177). -/
def State.resumeNas (s : State) (nas : Nas) : State :=
  match s.agent.nasNext nas s.npc with
  | .error c => s.raise (s.agent.flt c)
  | .ok ag => ({ s with agent := ag }).finish s.agent

/-! ## Long-latency words (R68-R70) -/

/-- The word fetched at a translated address: memory's, or one that a store has replaced since the last dispatch of a launch of the context
(R67); log 61. -/
def State.codeAt (s : State) (x : Xl) : Nat :=
  let w := leNat (s.bytesAt x 8)
  match aget (s.ctx s.agent.ctx).stale [] (x.pa / 8) with
  | [] => w
  | l => (w :: l.map (·.toNat)).getD (Config.staleWord s.fresh % (l.length + 1)) w

/-- The word at PC, as the frame of a trap records it (R253). -/
def State.wordAt (s : State) (pc : Nat) : Nat :=
  match s.translate s.agent.ctx s.agent.die pc .fetch with
  | .error _ => 0
  | .ok x => s.codeAt x

/-- An in-flight word of the current agent that has captured nothing yet. -/
def State.inflight0 (s : State) (slot la : Nat) (i : Instr) : Inflight :=
  { slot := slot, instr := i, word := BitVec.ofNat 64 (s.wordAt s.agent.pc), pc := s.agent.pc, la := la, left := la + 1,
    e := fullMask, base := 0, av := [], bv := [], dv := [], pa := 0, pb := 0, pd := 0, dests := [], detached := false,
    finished := false, ecause := 0, fmask := 0, eaddr := 0, part := 0, pwNo := 0, alone := false, aux := s.agent.lclk, hnd := s.agent.handler,
    no := 0 }

/-- A word put in flight: its slot starts at the complement of its executed set (R70). With that set empty it is complete at
once. -/
def State.push (s : State) (f : Inflight) : State :=
  let f := { f with no := s.handles }
  let s := s.fresh1.me (fun a => (a.setCbm f.slot (~~~f.e)))
  if f.e = 0 then
    if f.la = 15 && !f.dests.isEmpty then s.me (fun a => { a with inflight := a.inflight ++ [{ f with finished := true }] }) else s
  else s.me (fun a => { a with inflight := a.inflight ++ [f] })

/-- A word that names a slot with an unfinished word waits, whatever its guard (R70). -/
def State.slotHold (s : State) (slot : Nat) : Option State :=
  if s.agent.slotBusy slot then some (s.me (fun a => { a with hold := .slots (BitVec.ofNat 8 (2 ^ slot)) })) else none

/-- The slot's word has its window shut: the next word waits for it (R69). -/
def Agent.shut (ag : Agent) (i : Nat) : Bool :=
  ag.inflight.any (fun f => f.slot == i && !f.finished && !(f.la == 15) && f.left == 0)

/-- The mirror failure of a word that waits on some slots (R234). -/
def State.mirrorFlt (s : State) (slots : Nat → Bool) : Option Flt :=
  (s.mirrorFail s.agent slots).map (fun x => { cause := 0x0F, mask := s.agent.exm, addr := x.2 })

/-- A long-latency word issues; log 20. -/
def State.issueLong (s : State) (nas : Nas) (slot : Nat) (need : Need) (guard : Bool) (body : State → Res) : State :=
  match s.slotHold slot with
  | some s' => match s.mirrorFlt (fun i => i == slot) with
    | some f => s.raise f
    | none => s'
  | none => s.issue nas need guard body

/-- The slot of a word completes (R70). A detached word's completion restarts the progress timer (R266), and is held while its agent is
away (R162). -/
def State.slotDone (s : State) (id slot : Nat) : State :=
  match s.agentOf id with
  | some ag => if (ag.inSlot slot).any (fun f => !f.detached) then s.upd id (fun a => a.complete slot) else s.doneK id slot []
  | none => s.doneK id slot []

/-! ## Fetch (R4, R63) -/

/-- The cause of a word that the decoder refuses (R78, R91). -/
def Agent.decodeCause (ag : Agent) (e : DecErr) : Nat :=
  match e with
  | .classForbidden special => if special && !ag.handler then 0x0D else if ag.kind == .seq then 0x0C else 0x02
  | _ => 0x01

/-- The word at PC, or the fault of its fetch (R63, R214, R261). -/
def State.fetch (s : State) : Except Flt (Nat × State) :=
  let ag := s.agent
  match s.mirrorFlt ag.shut with
  | some f => .error f
  | none =>
  if ag.pc % 8 ≠ 0 then .error (Flt.at 0x09 ag.pc)
  else match s.translate ag.ctx ag.die ag.pc .fetch with
    | .error e => .error (Flt.at e ag.pc)
    | .ok x =>
      let s := (((s.me (fun a => { a with hold := .none })).cache ag.ctx ag.pc x.leaf).demand x).countHops ag.ctx ag.die x 8
      .ok (s.codeAt x, s)

/-- The fetch waits for the demand activation of its row (R157): the agent joins the order. -/
def State.fetchWait (s : State) : Option State :=
  match s.translate s.agent.ctx s.agent.die s.agent.pc .fetch with
  | .error _ => none
  | .ok x => if s.demandWait x then some (s.join x) else none

end Sys2Proof.Machine
end

