-- ==== Sys2Proof/Machine/Typed.lean ====
section
/-! DEFINITION. Short-latency typed words (R57, R91, R92): what a word asks and does, in a form that full-form words and the slots
of paired words share (R73, R95); the functions of the integer operations (R301, R302, R308, R328, R338-R345, R374, R384), of the
packed ones (R366-R368, R373, R314) and of the floating-point ones (R316-R327, R337, R311, R312). -/

namespace Sys2Proof.Machine

/-- A typed word: its needs, and its effect on the agent, given the state before it and the executed set (all threads in classes
U and A). An effect writes values read before any of them is written (R6, R73). -/
structure Typed where
  need : Need
  eff : State → Mask → Except Flt (Agent → Agent)
  /-- the threads of its executed set that a varying word takes through a track -/
  takes : State → Mask → Mask := fun _ e => e

/-- A typed word issues (R46, R59, R78). -/
def State.typed (s : State) (h : Head) (t : Typed) : State :=
  s.issue h.nas { t.need with reads := t.need.reads ++ Guard.regs h.g t.need.cls } (t.need.cls == .v || s.agent.guardU h.g) (fun s =>
    match t.eff s (if t.need.cls == .v then s.agent.execSet h.g else fullMask) with
    | .error f => .bad f
    | .ok f => .ok ((if t.need.cls == .v then s.track (t.takes s (s.agent.execSet h.g)) else s).me f) s.npc)

/-- A p or b register as destination. -/
def isBit : Opnd → Bool
  | .p _ | .b _ => true
  | _ => false

/-- A source that is one register of an admitted class. -/
def plain (o : Opnd) : Use := { o := o }

/-- The number in a k pair named by an operand. -/
def Agent.pairOf (ag : Agent) (o : Opnd) : Nat :=
  match o with
  | .k n => ag.kpair n
  | _ => 0

/-- What a typed class-V word asks. `noBit`: its entry refuses a p destination. -/
def needV (d : Opnd) (srcs : List Use) (noBit : Bool := false) : Need :=
  { cls := .v, dst := some d, srcs := srcs, badE := noBit && isBit d }

/-- What a typed class-U word asks; `seq`: whether it runs on the matrix sequencer (R92). -/
def needU (d : Opnd) (srcs : List Use) (noBit : Bool := false) (seq : Bool := true) : Need :=
  { cls := .u, seq := seq, dst := some d, srcs := srcs, badE := noBit && isBit d }

/-- The origin of a NaN pattern (R102, R294): the word's class, thread and address. -/
def State.origin (s : State) (v : Bool) (t : Nat) : Origin := ⟨v, if v then t else 0, s.agent.pc⟩

/-- Results of a class-V word written in the threads of E: a v register whole, with the poison of the sources; a p register bit
0, with a report of the poisoned threads (R328); log 23. -/
def State.effV (s : State) (e : Mask) (d : Opnd) (pois : Mask) (f : Nat → Val) (ag : Agent) : Agent :=
  let ag := match d with
    | .v n => ag.writeV n e (fun t => (f t).r) pois
    | .p n => (ag.writeP n e (fun t => (f t).r.getLsbD 0)).reportPoison (pois &&& e) 0 s.agent.pc s.agent.handler
    | _ => ag
  ag.orQsat ((threadsOf e).any (fun t => (f t).q))

/-- The result of a class-U word: a k register whole, a b register bit 0 (R328); log 23. -/
def effU (d : Opnd) (v : Val) (ag : Agent) : Agent :=
  let ag := match d with
    | .k n => ag.setK n v.r
    | .b n => ag.setB n (v.r.getLsbD 0)
    | _ => ag
  ag.orQsat v.q

/-- The poison of the varying sources of a word, per thread. -/
def State.poisons (s : State) (os : List Opnd) : Mask := os.foldl (fun m o => m ||| s.agent.poisonOf o) 0

/-- A class-V word of one source. -/
def unV (k : ImmKind) (d a : Opnd) (f : Origin → Word → Val) (noBit : Bool := false) : Typed :=
  { need := needV d [plain a] noBit
    eff := fun s e => .ok (s.effV e d (s.poisons [a]) (fun t => f (s.origin true t) (s.lane k a t))) }

/-- A class-U word of one source. -/
def unU (k : ImmKind) (d a : Opnd) (f : Origin → Word → Val) (noBit : Bool := false) : Typed :=
  { need := needU d [plain a] noBit
    eff := fun s _ => .ok (effU d (f (s.origin false 0) (s.uval k a))) }

/-- A class-V word of two sources. -/
def binV (k : ImmKind) (d a b : Opnd) (f : Origin → Word → Word → Val) (noBit : Bool := false) : Typed :=
  { need := needV d [plain a, plain b] noBit
    eff := fun s e => .ok (s.effV e d (s.poisons [a, b]) (fun t => f (s.origin true t) (s.lane k a t) (s.lane k b t))) }

/-- A class-U word of two sources. -/
def binU (k : ImmKind) (d a b : Opnd) (f : Origin → Word → Word → Val) (noBit : Bool := false) : Typed :=
  { need := needU d [plain a, plain b] noBit
    eff := fun s _ => .ok (effU d (f (s.origin false 0) (s.uval k a) (s.uval k b))) }

/-- A class-V word that also reads D; `f` takes D first. -/
def terV (k : ImmKind) (d a b : Opnd) (f : Origin → Word → Word → Word → Val) (noBit : Bool := false) : Typed :=
  { need := needV d [plain d, plain a, plain b] noBit
    eff := fun s e => .ok (s.effV e d (s.poisons [d, a, b])
      (fun t => f (s.origin true t) (s.lane k d t) (s.lane k a t) (s.lane k b t))) }

/-- A class-U word that also reads D. -/
def terU (k : ImmKind) (d a b : Opnd) (f : Origin → Word → Word → Word → Val) (noBit : Bool := false) : Typed :=
  { need := needU d [plain d, plain a, plain b] noBit
    eff := fun s _ => .ok (effU d (f (s.origin false 0) (s.uval k d) (s.uval k a) (s.uval k b))) }

/-! ## Integer functions (R340) -/

/-- a + b -/
def addF (sat : Bool) (a b : Word) : Val := sat32Val sat (a.toInt + b.toInt)
/-- a - b -/
def subF (sat : Bool) (a b : Word) : Val := sat32Val sat (a.toInt - b.toInt)
/-- a · b -/
def mulF (sat : Bool) (a b : Word) : Val := sat32Val sat (a.toInt * b.toInt)
/-- a · 2^n, n = B[4:0] -/
def shlF (sat : Bool) (a b : Word) : Val := sat32Val sat (a.toInt * (2 ^ (b.toNat % 32) : Nat))
/-- floor(ua / 2^n) -/
def shrF (a b : Word) : Val := { r := a >>> (b.toNat % 32) }
/-- floor(a / 2^n) -/
def sraF (a b : Word) : Val := { r := word (a.toInt / (2 ^ (b.toNat % 32) : Nat)) }
/-- bitwise and -/
def andF (a b : Word) : Val := { r := a &&& b }
/-- bitwise or -/
def orF (a b : Word) : Val := { r := a ||| b }
/-- bitwise exclusive or -/
def xorF (a b : Word) : Val := { r := a ^^^ b }
/-- minimum, signed or unsigned -/
def minF (u : Bool) (a b : Word) : Val :=
  { r := if u then (if a.toNat ≤ b.toNat then a else b) else if a.toInt ≤ b.toInt then a else b }
/-- maximum, signed or unsigned -/
def maxF (u : Bool) (a b : Word) : Val :=
  { r := if u then (if a.toNat ≤ b.toNat then b else a) else if a.toInt ≤ b.toInt then b else a }

/-- |a| (R338) -/
def absF (sat : Bool) (a : Word) : Val := sat32Val sat (a.toInt.natAbs : Nat)

/-- One condition on two integers (R341). -/
def ICond.holds (c : ICond) (a b : Int) : Bool :=
  match c with
  | .eq => a == b
  | .ne => !(a == b)
  | .lt => decide (a < b)
  | .le => decide (a ≤ b)
  | .gt => decide (b < a)
  | .ge => decide (b ≤ a)

/-- The bit of a condition as a value. -/
def bitVal (b : Bool) : Val := { r := if b then 1 else 0 }

/-- ICMP (R341) -/
def icmpF (u : Bool) (c : ICond) (a b : Word) : Val :=
  bitVal (if u then ICond.holds c a.toNat b.toNat else ICond.holds c a.toInt b.toInt)

/-- A·B + D (R342) -/
def madF (u sat : Bool) (d a b : Word) : Val :=
  if u then satVal sat 0 4294967295 (a.toNat * b.toNat + d.toNat : Nat) else sat32Val sat (a.toInt * b.toInt + d.toInt)

/-- Bits 63 to 32 of A·B (R343) -/
def mulhF (u : Bool) (a b : Word) : Val :=
  { r := if u then BitVec.ofNat 32 (a.toNat * b.toNat / 2 ^ 32) else word (a.toInt * b.toInt / (2 ^ 32 : Nat)) }

/-- ISAT (R344) -/
def isatF (r : SatRange) (a : Word) : Val :=
  match r with
  | .s8 => satVal true (-128) 127 a.toInt
  | .s16 => satVal true (-32768) 32767 a.toInt
  | .u8 => satVal true 0 255 a.toInt
  | .u16 => satVal true 0 65535 a.toInt

/-- Position and length of a field control (R301). -/
def fieldOf (b : Word) : Nat × Nat := (b.toNat % 32, min (b.toNat / 2 ^ 8 % 64) (32 - b.toNat % 32))

/-- BFX (R302) -/
def bfxF (sx : Bool) (a b : Word) : Val :=
  let (pos, len) := fieldOf b
  let f := a.toNat / 2 ^ pos % 2 ^ len
  { r := if len = 0 then 0 else if sx && bit f (len - 1) then word ((f : Int) - (2 ^ len : Nat)) else BitVec.ofNat 32 f }

/-- BFI (R301) -/
def bfiF (d a b : Word) : Val :=
  let (pos, len) := fieldOf b
  let mask := BitVec.ofNat 32 ((2 ^ len - 1) * 2 ^ pos)
  { r := (d &&& ~~~mask) ||| ((a <<< pos) &&& mask) }

/-- POPC (R374) -/
def popcF (a : Word) : Val := { r := BitVec.ofNat 32 (popcount 32 a.toNat) }

/-- CLZ (R308) -/
def clzF (a : Word) : Val := { r := if a = 0 then 32 else BitVec.ofNat 32 (31 - a.toNat.log2) }

/-- SHRR (R384) -/
def shrrF (m : Rnd) (sat : Bool) (rng : ShrrRange) (u : Bool) (a b : Word) : Val :=
  let q := divPow m (if u then (a.toNat : Int) else a.toInt) (b.toNat % 32)
  match rng with
  | .s32 => sat32Val sat q
  | .s16 => satVal sat (-32768) 32767 q
  | .s8 => satVal sat (-128) 127 q
  | .u16 => satVal sat 0 65535 q

/-- LDIH (R351) -/
def ldihF (i : BitVec 16) (d : Word) : Val := { r := BitVec.ofNat 32 (i.toNat * 65536 + d.toNat % 65536) }

/-! ## Packed functions (R366) -/

/-- Element `i` of a word. -/
def elem (u : Bool) (x : Word) (i : Nat) : Int :=
  let n := x.toNat / 2 ^ (16 * i) % 65536
  if u then n else sgn 16 n

/-- An operation on both elements (R368). -/
def packedF (u sat : Bool) (f : Int → Int → Int) (a b : Word) : Val :=
  joinVal (elemVal u sat (f (elem u a 0) (elem u b 0))) (elemVal u sat (f (elem u a 1) (elem u b 1)))

/-- PACK (R367) -/
def packF (sat hi : Bool) (a b : Word) : Val :=
  if hi then joinVal (a.toNat / 65536, false) (b.toNat / 65536, false)
  else joinVal (elemVal false sat a.toInt) (elemVal false sat b.toInt)

/-- PMAC2: two saturating steps (R373) -/
def pmacF (ua ub : Bool) (d a b : Word) : Val :=
  let s1 := d.toInt + elem ua a 0 * elem ub b 0
  let r1 := sat32 s1
  let s2 := r1 + elem ua a 1 * elem ub b 1
  let r2 := sat32 s2
  { r := word r2, q := !(r1 == s1) || !(r2 == s2) }

/-- Byte `i` of a word. -/
def byteOf (u : Bool) (x : Word) (i : Nat) : Int :=
  let n := x.toNat / 2 ^ (8 * i) % 256
  if u then n else sgn 8 n

/-- DOT4 (R314) -/
def dot4F (ua ub sat : Bool) (d a b : Word) : Val :=
  sat32Val sat (d.toInt + ((List.range 4).map (fun i => byteOf ua a i * byteOf ub b i)).foldl (· + ·) 0)

/-! ## Floating-point functions -/

/-- The value of an FP32 bit pattern. -/
def fval (n : Nat) : Val := { r := BitVec.ofNat 32 n }

/-- FADD (R316) -/
def faddF (m : Rnd) (o : Origin) (a b : Word) : Val := fval (Fmt.fp32.add m o a.toNat b.toNat)
/-- FSUB (R316) -/
def fsubF (m : Rnd) (o : Origin) (a b : Word) : Val := fval (Fmt.fp32.sub m o a.toNat b.toNat)
/-- FMUL (R316) -/
def fmulF (m : Rnd) (o : Origin) (a b : Word) : Val := fval (Fmt.fp32.mul m o a.toNat b.toNat)
/-- FFMA, or its Horner step (R321) -/
def ffmaF (m : Rnd) (horner : Bool) (o : Origin) (d a b : Word) : Val :=
  let nans := [a.toNat, b.toNat, d.toNat]
  fval (if horner then Fmt.fp32.fma m o nans d.toNat a.toNat b.toNat else Fmt.fp32.fma m o nans a.toNat b.toNat d.toNat)
/-- FMIN and FMAX (R324) -/
def fminmaxF (isMax : Bool) (a b : Word) : Val := fval (Fmt.fp32.minmax isMax a.toNat b.toNat)
/-- FCMP (R318) -/
def fcmpF (c : FCond) (a b : Word) : Val := bitVal (Fmt.fp32.cmp c a.toNat b.toNat)
/-- FRND (R326) -/
def frndF (m : Rnd) (a : Word) : Val := fval (Fmt.fp32.integral m a.toNat)
/-- FSCL (R327) -/
def fsclF (m : Rnd) (a b : Word) : Val :=
  fval (match Fmt.fp32.firstNan [a.toNat, b.toNat] with
    | some n => n
    | none => Fmt.fp32.scale m a.toNat (Fmt.fp32.scaleBy b.toNat))
/-- FGETX (R323) -/
def fgetxF (a : Word) : Val := fval (Fmt.fp32.exponent a.toNat)
/-- FGETM (R322) -/
def fgetmF (a : Word) : Val := fval (Fmt.fp32.significand a.toNat)
/-- FCLASS (R317) -/
def fclassF (a : Word) : Val := fval (Fmt.fp32.classBits a.toNat)

/-- The half format of a packed operation (R337). -/
def halfFmt (bf : Bool) : Fmt := if bf then .bf16 else .fp16

/-- An operation on both halves (R337). -/
def halvesF (f : Nat → Nat → Nat → Nat) (d a b : Word) : Val :=
  let h (x : Word) (i : Nat) : Nat := x.toNat / 2 ^ (16 * i) % 65536
  fval (f (h d 1) (h a 1) (h b 1) * 65536 + f (h d 0) (h a 0) (h b 0))

/-- HADD2 (R337) -/
def hadd2F (m : Rnd) (bf : Bool) (o : Origin) (a b : Word) : Val := halvesF (fun _ x y => (halfFmt bf).add m o x y) 0 a b
/-- HMUL2 (R337) -/
def hmul2F (m : Rnd) (bf : Bool) (o : Origin) (a b : Word) : Val := halvesF (fun _ x y => (halfFmt bf).mul m o x y) 0 a b
/-- HFMA2 (R337) -/
def hfma2F (m : Rnd) (bf : Bool) (o : Origin) (d a b : Word) : Val :=
  halvesF (fun z x y => (halfFmt bf).fma m o [x, y, z] x y z) d a b

/-! ## Conversion (R311, R312) -/

/-- An integer type: width and signedness. -/
def cvtInt : CvtType → Option (Nat × Bool)
  | .i32 => some (32, true)
  | .n32 => some (32, false)
  | .i16 => some (16, true)
  | .n16 => some (16, false)
  | .i8 => some (8, true)
  | .n8 => some (8, false)
  | _ => none

/-- The format of a floating-point type. -/
def cvtFmt : CvtType → Fmt
  | .f16 | .f16sr => .fp16
  | .bf16 | .bf16sr => .bf16
  | .e4m3 => .e4m3
  | .e5m2 => .e5m2
  | _ => .fp32

/-- A stochastic destination. -/
def cvtSr : CvtType → Bool
  | .bf16sr | .f16sr => true
  | _ => false

/-- How CVT takes an immediate A (R311). -/
def cvtImm (st : CvtType) : ImmKind := if (cvtInt st).isSome then .int else .float (cvtFmt st)

/-- Range of an integer type. -/
def intRange (n : Nat × Bool) : Int × Int :=
  if n.2 then (-(2 ^ (n.1 - 1) : Nat), (2 ^ (n.1 - 1) : Nat) - 1) else (0, (2 ^ n.1 : Nat) - 1)

/-- An integer kept in the low bits and extended by its type's signedness. -/
def extend (n : Nat × Bool) (r : Int) : Word := if n.2 then word (sgn n.1 (wrapN n.1 r)) else BitVec.ofNat 32 (wrapN n.1 r)

/-- The source integer that CVT reads from a word. -/
def sourceInt (n : Nat × Bool) (a : Word) : Int := if n.2 then sgn n.1 a.toNat else ((a.toNat % 2 ^ n.1 : Nat) : Int)

/-- CVT (R312); `b` is the random word of a stochastic conversion. -/
def cvtF (m : Rnd) (sat : Bool) (dt st : CvtType) (a b : Word) : Val :=
  let fs := cvtFmt st
  let x := a.toNat % 2 ^ fs.width
  match cvtInt dt, cvtInt st with
  | some di, some si =>
    let v := sourceInt si a
    let c := if sat then clampInt (intRange di).1 (intRange di).2 v else v
    { r := extend di c, q := !(c == v) }
  | none, some si => fval ((cvtFmt dt).roundInt m sat false (sourceInt si a) 0)
  | some di, none => match fs.toInt m x with
    | none => { r := 0, q := true }
    | some v =>
      let c := clampInt (intRange di).1 (intRange di).2 v
      { r := extend di c, q := !(c == v) }
  | none, none => fval (if cvtSr dt then (cvtFmt dt).stochastic sat x (b.toNat % 65536) else fs.conv (cvtFmt dt) m sat x)

/-- RBITS (R114) -/
def rbitsF (key : Nat) (ctr stream : Word) : Val := fval (philox0 (key % 2 ^ 32) (key / 2 ^ 32) ctr.toNat stream.toNat 0 0)

end Sys2Proof.Machine
end

