-- ==== Sys2Proof/Machine/AffineAlu.lean ====
section
/-! DEFINITION. The class-A words and the words that move between shapes (R36-R40, R43, R296, R297, R375). -/

namespace Sys2Proof.Machine

/-- What a class-A word asks; `bad2`: its own class conditions (R36). -/
def needA (d : Opnd) (srcs : List Use) (bad2 : Bool := false) : Need := { cls := .a, dst := some d, srcs := srcs, bad2 := bad2 }

/-- A source that may be affine. -/
def shaped (o : Opnd) : Use := { o := o, aff := true }

/-- An affine operand. -/
def isAffine : Opnd → Bool
  | .a _ | .lane => true
  | _ => false

/-- The base and stride of an affine value as exact integers (R36). -/
def AReg.exact (r : AReg) : Int × Int := (r.base.toInt, r.stride.toInt)

/-- The register written for exact values base + t·stride (R37). -/
def affineOf (o : Bool) (base stride : Int) : AReg :=
  { base := word base, stride := word stride,
    o := o || (List.range 32).any (fun t =>
      let x := base + (t : Int) * stride
      decide (x < -2147483648) || decide (2147483647 < x)) }

/-- An affine destination written. -/
def effA (d : Opnd) (r : AReg) (ag : Agent) : Agent :=
  match d with
  | .a n => ag.setA n r
  | _ => ag

/-- The affine value of an operand of the current agent. -/
def State.aval (s : State) (o : Opnd) : AReg := s.agent.affine s.frameOf o

/-- A class-A word of two sources. -/
def binA (d a b : Opnd) (f : AReg → AReg → AReg) (bad2 : Bool := false) : Typed :=
  { need := needA d [shaped a, shaped b] bad2, eff := fun s _ => .ok (effA d (f (s.aval a) (s.aval b))) }

/-- IADD in class A (R36). -/
def addA (x y : AReg) : AReg := affineOf (x.o || y.o) (x.exact.1 + y.exact.1) (x.exact.2 + y.exact.2)

/-- ISUB in class A (R36). -/
def subA (x y : AReg) : AReg := affineOf (x.o || y.o) (x.exact.1 - y.exact.1) (x.exact.2 - y.exact.2)

/-- IMUL in class A: one of the strides is 0 (R36). -/
def mulA (x y : AReg) : AReg :=
  affineOf (x.o || y.o) (x.exact.1 * y.exact.1) (x.exact.2 * y.exact.1 + x.exact.1 * y.exact.2)

/-- ISHL in class A (R36). -/
def shlA (x y : AReg) : AReg :=
  let k : Int := (2 ^ (y.base.toNat % 32) : Nat)
  affineOf (x.o || y.o) (x.exact.1 * k) (x.exact.2 * k)

/-- IADD, affine (R36, R37). -/
def execIaddA (h : Head) (d a b : Opnd) (s : State) : Out := .next (s.typed h (binA d a b addA))

/-- ISUB, affine (R36, R37). -/
def execIsubA (h : Head) (d a b : Opnd) (s : State) : Out := .next (s.typed h (binA d a b subA))

/-- IMUL, affine (R36, R37). -/
def execImulA (h : Head) (d a b : Opnd) (s : State) : Out :=
  .next (s.typed h (binA d a b mulA (isAffine a && isAffine b)))

/-- ISHL, affine (R36, R37). -/
def execIshlA (h : Head) (d a b : Opnd) (s : State) : Out := .next (s.typed h (binA d a b shlA (isAffine b)))

/-- MOV in class A: base, stride and O copied (R360). -/
def movAt (d a : Opnd) : Typed := { need := needA d [shaped a], eff := fun s _ => .ok (effA d (s.aval a)) }

/-- MOV, affine (R36, R360). -/
def execMovA (h : Head) (d a : Opnd) (s : State) : Out := .next (s.typed h (movAt d a))

/-- LDI in class A (R350). -/
def ldiAt (d : Opnd) (i : BitVec 21) : Typed :=
  { need := needA d [], eff := fun _ _ => .ok (effA d { base := i.signExtend 32, stride := 0, o := false }) }

/-- LDI, affine (R36, R350). -/
def execLdiA (h : Head) (d : Opnd) (i : BitVec 21) (s : State) : Out := .next (s.typed h (ldiAt d i))

/-- PROM in class A (R39). An affine source, to which R39 gives no form and no cause, raises cause 0x02 as a source that the word may
not read (DESIGN CHOICE); log 24. -/
def promAt (d a : Opnd) : Typed :=
  { need := needA d [plain a], eff := fun s _ => .ok (effA d { base := s.uval .int a, stride := 0, o := false }) }

/-- PROM into an affine register (R39, R375). -/
def execPromA (h : Head) (d a : Opnd) (s : State) : Out := .next (s.typed h (promAt d a))

/-- ASET as a typed word (R40). -/
def asetAt (d a b : Opnd) : Typed :=
  { need := needA d [plain a, plain b]
    eff := fun s _ => .ok (effA d { base := s.uval .int a, stride := s.uval .int b, o := false }) }

/-- ASET (R40, R297). -/
def execAset (h : Head) (d a b : Opnd) (s : State) : Out := .next (s.typed h (asetAt d a b))

/-- AGET as a typed word (R40). -/
def agetUt (d a : Opnd) (part : AgetPart) : Typed :=
  { need := needU d [shaped a] false false |> fun n => { n with bad2 := !isAffine a }
    eff := fun s _ =>
      let r := s.aval a
      .ok (effU d { r := match part with
        | .base => r.base
        | .stride => r.stride
        | .ovf => if r.o then 1 else 0 }) }

/-- AGET (R40, R296). -/
def execAget (h : Head) (d a : Opnd) (part : AgetPart) (s : State) : Out := .next (s.typed h (agetUt d a part))

/-- PROM in class V: the per-thread values, the shape tag (R43), AOV or cause 0x04 for an overflowed source (R38, R39). -/
def promVt (d a : Opnd) (chk : Bool) : Typed :=
  { need := { needV d [shaped a] true with
      bad1 := chk && !isAffine a
      bad2 := match a with
        | .v _ | .p _ => true
        | _ => false }
    eff := fun s e =>
      let o := s.agent.oSet a && !(e == 0)
      if chk && o then .error (s.agent.flt 0x04)
      else
        let whole := s.agent.live &&& ~~~e == 0
        .ok (fun ag =>
          let ag := (s.effV e d 0 (fun t => { r := s.lane .int a t }) ag).orAov o
          match d with
          | .v n =>
            let r := ag.vreg n
            if !whole then { ag with v := aset ag.v n { r with tag := .g } }
            else
              let x := s.aval a
              { ag with v := aset ag.v n { r with poison := 0, tag := if isAffine a then .a x.base x.stride else .u x.base } }
          | _ => ag) }

/-- PROM into a varying register (R39, R375). -/
def execPromV (h : Head) (d a : Opnd) (chk : Bool) (s : State) : Out := .next (s.typed h (promVt d a chk))

end Sys2Proof.Machine
end

