-- ==== Sys2Proof/Machine/Mem.lean ====
section
/-! DEFINITION. The issue of the long-latency memory words and of VPERM (R53, R119-R126, R239, R298-R300, R305, R306, R347-R349,
R372, R379, R380, R386): checks, and the values captured for each thread. Their accesses are performed by SLOT_COMPLETION and
PW_LOAD_MATCH (Perform.lean). -/

namespace Sys2Proof.Machine

/-- Data registers that a memory word reads from D: their number and alignment (R120, R299). -/
def MemOp.data (m : MemOp) : Nat × Nat :=
  let n := tyCount m.ty
  match m.atom with
  | some .cas => (2 * n, 2 * n)
  | some _ => (n, n)
  | none => if m.store then (n, n) else (0, 1)

/-- A k register operand. -/
def isK : Opnd → Bool
  | .k _ => true
  | _ => false

/-- What a memory word asks (R119, R120, R298, R348, R372, R386). `d` is none for PFT, `b` is read in space G only. The data of
a store may be whatever its class reads (R34); a run of p or b registers, and one as the destination of an ATOM or a BLD, raises 0x0E (DESIGN
CHOICE); log 24. -/
def MemOp.need (m : MemOp) (d : Option Opnd) (a b : Opnd) : Need :=
  let glob := m.buf.isNone && m.spc == .g
  { cls := if m.unif then .u else .v
    seq := m.unif && (m.load || m.store) && glob
    dst := if m.dests = 0 then none else d
    dn := m.dests
    dal := max m.dests m.data.2
    srcs := (match d with
        | some d => if m.data.1 = 0 then [] else [{ o := d, n := m.data.1, al := m.data.2 }]
        | none => []) ++
      ({ o := a, aff := !m.unif } :: if glob then [{ o := b, n := 2, al := 2 }] else [])
    badE := (match d with
        | some d => isBit d && (m.dests != 0 || decide (1 < m.data.1))
        | none => false) || (glob && !isK b) }

/-- The 32 values of an operand. -/
def State.lanesOf (s : State) (o : Opnd) : List Word := (List.range 32).map (fun t => s.lane .int o t)

/-- The 32 values of a data operand: an immediate is a number of the operation's type (R31). -/
def State.dataOf (s : State) (m : MemOp) (o : Opnd) : List Word :=
  (List.range 32).map (fun t => s.lane (if m.atom = some .fadd then .float .fp32 else .int) o t)

/-- Register `i` of the run that starts at an operand. -/
def runReg (o : Opnd) (i : Nat) : Opnd :=
  match o with
  | .v n => .v (Fin.ofNat 256 (n.val + i))
  | .k n => .k (Fin.ofNat 64 (n.val + i))
  | o => o

/-- The partner of a warp in its PAIR group (R238). -/
def State.partner (s : State) (ag : Agent) : Option Agent :=
  match s.groupsWith ag.launch ag.wid.toNat (·.pair) with
  | [] => none
  | g :: _ => match s.groupOf ag.launch g with
    | none => none
    | some gr => match gr.members.find? (fun w => !(w == ag.wid.toNat)) with
      | none => none
      | some w => s.warpOf ag.launch w

/-- A pair-weight load that executes in no thread, issued by the current warp, is matched with a load of its partner that executes in none
either: neither makes an access, and different words have diverged (R239). -/
def State.matchEmpty (s : State) (f : Inflight) : State :=
  match s.partner s.agent with
  | none => s
  | some p => match p.inflight.find? (fun g => g.pwNo == f.pwNo && g.finished) with
    | none => s
    | some g =>
      let gone (x : Agent) : Agent := (x.orPdiv (!(g.pc == f.pc))).unpair f.pwNo
      (s.me gone).upd p.id gone

/-- A memory word put in flight with what it captures (R69, R253); a pair-weight load is numbered (R239). -/
def State.capture (s : State) (h : LHead) (i : Instr) (m : MemOp) (d : Option Opnd) (a b : Opnd) (pw : Bool) (e : Mask) : State :=
  let ag := s.agent
  let f := s.inflight0 h.slot.val h.la.val i
  let data := (List.range m.data.1).map (fun j => runReg (d.getD a) j)
  let pair := pw && (s.partner ag).isSome
  let f : Inflight :=
    { f with e := e
             base := if m.buf.isNone && m.spc == .g then BitVec.ofNat 64 (ag.pairOf b) else 0
             av := s.lanesOf a
             bv := if m.buf.isNone && m.spc == .g then s.lanesOf b else []
             dv := data.map (s.dataOf m)
             pa := s.agent.poisonOf a
             pd := s.poisons data
             dests := match d with
               | some d => regRun d m.dests
               | none => []
             pwNo := if pair then ag.pwCount + 1 else 0
             aux := ag.lclk }
  let s := if pair then s.me (fun x => { x with pwCount := x.pwCount + 1 }) else s
  if e = 0 && pair then
    let s := s.me (fun x => { x.setCbm f.slot fullMask with inflight := x.inflight ++ [{ f with finished := true, no := s.handles, dests := if f.la = 15 then f.dests else [] }] })
    s.matchEmpty f
  else s.push f

/-- A memory word issues. -/
def State.issueMem (s : State) (h : LHead) (i : Instr) (m : MemOp) (d : Option Opnd) (a b : Opnd) (pw chk : Bool) : State :=
  s.issueLong h.nas h.slot.val { m.need d a b with reads := Guard.regs h.g (m.need d a b).cls } (!m.unif || s.agent.guardU h.g) (fun s =>
    let e := if m.unif then fullMask else s.agent.execSet h.g
    let o := s.agent.oSet a && !(e == 0)
    if chk && o then .bad (s.agent.flt 0x04)
    else .ok (((if m.unif then s else s.track e).capture h i m d a b pw e).me (fun ag => ag.orAov o)) s.npc)

/-- LD, varying (R347, R348). -/
def execLdV (h : LHead) (d a b : Opnd) (spc : Space) (ty : MemType) (pw nc chk : Bool) (s : State) : Out :=
  .next (s.issueMem h (.ldV h d a b spc ty pw nc chk) { MemOp.base with load := true, spc := spc, ty := ty } (some d) a b pw chk)

/-- LD, uniform (R347, R348). -/
def execLdU (h : LHead) (d a b : Opnd) (spc : Space) (ty : MemType) (pw nc chk : Bool) (s : State) : Out :=
  .next (s.issueMem h (.ldU h d a b spc ty pw nc chk) { MemOp.base with load := true, spc := spc, ty := ty, unif := true }
    (some d) a b pw chk)

/-- ST, varying (R386). -/
def execStV (h : LHead) (d a b : Opnd) (spc : Space) (ty : MemType) (nc chk : Bool) (s : State) : Out :=
  .next (s.issueMem h (.stV h d a b spc ty nc chk) { MemOp.base with store := true, spc := spc, ty := ty } (some d) a b false chk)

/-- ST, uniform (R386). -/
def execStU (h : LHead) (d a b : Opnd) (spc : Space) (ty : MemType) (nc chk : Bool) (s : State) : Out :=
  .next (s.issueMem h (.stU h d a b spc ty nc chk) { MemOp.base with store := true, spc := spc, ty := ty, unif := true }
    (some d) a b false chk)

/-- ATOM, varying (R298-R300). -/
def execAtomV (h : LHead) (d a b : Opnd) (scr : Bool) (op : AtomOp) (wide chk : Bool) (s : State) : Out :=
  .next (s.issueMem h (.atomV h d a b scr op wide chk)
    { MemOp.base with atom := some op, spc := scrSpace scr, ty := wideTy wide } (some d) a b false chk)

/-- ATOM, uniform (R298-R300). -/
def execAtomU (h : LHead) (d a b : Opnd) (scr : Bool) (op : AtomOp) (wide chk : Bool) (s : State) : Out :=
  .next (s.issueMem h (.atomU h d a b scr op wide chk)
    { MemOp.base with atom := some op, spc := scrSpace scr, ty := wideTy wide, unif := true } (some d) a b false chk)

/-- RED, varying (R379, R380). -/
def execRedV (h : LHead) (d a b : Opnd) (scr : Bool) (op : AtomOp) (wide chk : Bool) (s : State) : Out :=
  .next (s.issueMem h (.redV h d a b scr op wide chk)
    { MemOp.base with atom := some op, red := true, spc := scrSpace scr, ty := wideTy wide } (some d) a b false chk)

/-- RED, uniform (R379, R380). -/
def execRedU (h : LHead) (d a b : Opnd) (scr : Bool) (op : AtomOp) (wide chk : Bool) (s : State) : Out :=
  .next (s.issueMem h (.redU h d a b scr op wide chk)
    { MemOp.base with atom := some op, red := true, spc := scrSpace scr, ty := wideTy wide, unif := true } (some d) a b false chk)

/-- PFT, varying (R372). -/
def execPftV (h : LHead) (a b : Opnd) (spc : Space) (ty : MemType) (nc chk : Bool) (s : State) : Out :=
  .next (s.issueMem h (.pftV h a b spc ty nc chk) { MemOp.base with pft := true, spc := spc, ty := ty } none a b false chk)

/-- PFT, uniform (R372). -/
def execPftU (h : LHead) (a b : Opnd) (spc : Space) (ty : MemType) (nc chk : Bool) (s : State) : Out :=
  .next (s.issueMem h (.pftU h a b spc ty nc chk) { MemOp.base with pft := true, spc := spc, ty := ty, unif := true }
    none a b false chk)

/-- BLD (R126, R305). -/
def execBld (h : LHead) (d a : Opnd) (buf : BufName) (ty : MemType) (s : State) : Out :=
  .next (s.issueMem h (.bld h d a buf ty) { MemOp.base with load := true, buf := some buf, ty := ty } (some d) a a false false)

/-- BST (R126, R306). -/
def execBst (h : LHead) (d a : Opnd) (buf : BufName) (ty : MemType) (s : State) : Out :=
  .next (s.issueMem h (.bst h d a buf ty) { MemOp.base with store := true, buf := some buf, ty := ty } (some d) a a false false)

/-- What VPERM asks (R53, R404). -/
def vpermNeed (d a b : Opnd) : Need :=
  { cls := .v, dst := some d, srcs := [plain a, plain b]
    badE := match a with
      | .v _ => false
      | _ => true }

/-- VPERM takes its snapshot and goes in flight (R53, R404). -/
def execVperm (h : LHead) (d a b : Opnd) (s : State) : Out :=
  .next (s.issueLong h.nas h.slot.val { vpermNeed d a b with reads := Guard.regs h.g .v } true (fun s =>
    let f := s.inflight0 h.slot.val h.la.val (.vperm h d a b)
    let g := { f with
      e := s.agent.execSet h.g, av := s.lanesOf a, bv := s.lanesOf b, pa := s.agent.poisonOf a, pb := s.agent.poisonOf b, dests := regRun d 1 }
    .ok ((s.track g.e).push g) s.npc))

end Sys2Proof.Machine
end

