-- ==== Sys2Proof/Machine/Perform.lean ====
section
/-! DEFINITION. The accesses of words in flight: thread by thread in thread order (R54, R121), in issue order on path V (R249), with
their faults and poison (R139, R248, R261); VPERM (R53); matched pair-weight loads (R239-R241). -/

namespace Sys2Proof.Machine

/-- Thread `t` of a word has failed a check: it is recorded, its bit stays clear (R121). The lowest thread gives the cause. -/
def Agent.threadFault (ag : Agent) (slot : Nat) (unif : Bool) (t cause addr : Nat) : Agent :=
  ag.updFlight slot (fun f =>
    let first := (List.range (t + 1)).all (fun i => !mbit f.fmask i)
    { f with fmask := if unif then fullMask else f.fmask ||| oneMask t
             ecause := if first then cause else f.ecause
             eaddr := if first then addr else f.eaddr })

/-- An access that faulted in a sequencer program ends the program (R218). -/
def Agent.programFault (ag : Agent) (f : Inflight) (cause addr : Nat) : Agent :=
  if ag.status == .faulted || ag.status == .retired then ag
  else { ag with status := .faulted, hold := .none
                 seqFault := some { cause := cause, mask := fullMask, addr := addr, fpc := f.pc, rpc := none, hnd := false } }

/-- A word that must have passed its checks before a later path-V word of its agent acts: a memory word (R249), or MBXR, after
whose read later accesses act (R178). -/
def ordersV (i : Instr) : Bool :=
  match i with
  | .mbxr .. => true
  | i => (memOp i).isSome

/-- The elements that an access touches (R168): the number of the space, 0 for the module's memory and 1 for scratch, the first element and
the one after the last. -/
structure Reach where
  space : Nat
  first : Nat
  stop : Nat
  deriving DecidableEq, Repr

/-- What thread `t` of a word touches, if its access may change places with another of its warp: one to SWEPT memory (R159) or to a typed
buffer (R187, BUF) may not. -/
def State.reachOf (s : State) (ag : Agent) (f : Inflight) (m : MemOp) (t : Nat) : Option Reach :=
  let run (sp a : Nat) : Option Reach := some { space := sp, first := a / 4, stop := (a + tySize m.ty + 3) / 4 }
  match (ag.target m f.base.toNat (f.av.getD t 0) t).1 with
  | .error _ => none
  | .ok (.glob va _) => match s.translate ag.ctx ag.die va .read with
    | .error _ => none
    | .ok x => if x.leaf.swept then none else run 0 x.pa
  | .ok (.scr off) => run 1 off
  | .ok (.buf ..) => none

/-- Two accesses of a warp may change places (R187): they share no element (note a), and are not both to scratch (note g); log 50. -/
def mayPass (a b : Option Reach) : Bool :=
  match a, b with
  | some x, some y => !(x.space == y.space) || (x.space == 0 && (decide (x.stop ≤ y.first) || decide (y.stop ≤ x.first)))
  | _, _ => false

/-- An earlier memory word `f` lets a later one `g` of its agent act first: every thread of `f` passes its checks (R249), and their
accesses may change places (R187). In a determinate launch accesses keep their order; log 50. -/
def State.standsBy (s : State) (ag : Agent) (f g : Inflight) : Bool :=
  match memOp f.instr, memOp g.instr with
  | some m, some k =>
    !s.isDet ag && (f.yetToAct m (ag.cbmOf f.slot)).all (fun t => mbit f.pa t || (
      (match s.threadAccess ag f m t with
        | .fault .. => false
        | _ => true) &&
      (g.yetToAct k (ag.cbmOf g.slot)).all (fun u => mbit g.pa u || mayPass (s.reachOf ag f m t) (s.reachOf ag g k u))))
  | _, _ => false

/-- GZPOS. -/
def isGzpos : Instr → Bool
  | .gzpos .. => true
  | _ => false

/-- A word with an access to a SWEPT page. -/
def State.hasSwept (s : State) (a : Agent) (f : Inflight) : Bool :=
  match memOp f.instr with
  | none => false
  | some m => (if m.unif then [0] else threadsOf f.e).any (fun t => match (a.target m f.base.toNat (f.av.getD t 0) t).1 with
    | .ok (.glob va _) => s.sweptAt a va
    | _ => false)

/-- The word in a slot may act now: each earlier path-V word of its agent has acted, or lets it pass (R187, R249), and an access to SWEPT memory
comes after each earlier GZPOS (R159, R333); log 50. -/
def State.headV (s : State) (ag : Agent) (slot : Nat) : Bool :=
  match (ag.inSlot slot) with
  | none => false
  | some g => (ag.inflight.takeWhile (fun f => !(f.no == g.no))).all (fun f =>
    f.finished || ((!ordersV f.instr || s.standsBy ag f g) && !(isGzpos f.instr && s.hasSwept ag g)))

/-- A thread's failure at agent `id` (R121, R218): recorded, or the end of a program. On a further faulting page it waits (R138). -/
def State.threadFails (s : State) (id : Nat) (f : Inflight) (unif : Bool) (t c a : Nat) : Option State :=
  match s.agentOf id with
  | none => some s
  | some ag =>
    if c = 0x07 && s.pageWait ag.die ag.ctx a then none
    else some ((s.faulting ag.die ag.ctx a c).upd id (fun x =>
      if x.kind == .seq then x.programFault f c a else x.threadFault f.slot unif t c a))

/-- One thread of a memory word acts, up to its `j`-th element: all of its access, or one more element of a wide one (R168). None: it
has to wait (R138, R157, R194). -/
def State.threadStep (s : State) (id slot : Nat) (m : MemOp) (t j : Nat) : Option State :=
  match s.agentOf id with
  | none => some s
  | some ag => match ag.inSlot slot with
    | none => some s
    | some f =>
      if mbit (ag.cbmOf slot) t || mbit f.fmask t then some s
      else if j < m.elements && s.splits ag f m t then
        if j ≤ popcount 4 f.part.toNat then some s
        else
          let (s', g) := s.elementStep ag f m t
          some (s'.upd id (fun x => x.updFlight slot (fun f => { f with part := g.part, got := g.got, page := g.page })))
      else
        match s.threadAccess ag f m t with
        | .wait => none
        | .fault c a => s.threadFails id f m.unif t c a
        | .done s ws p rep => some (s.upd id (fun x => x.threadDone f m.unif t (ag.target m f.base.toNat (f.av.getD t 0) t).2 ws p rep))

/-- The access that thread `t` of a word waits with joins the order of demand activations (R157). -/
def State.joinThread (s : State) (id slot : Nat) (m : MemOp) (t : Nat) : State :=
  match s.agentOf id with
  | none => s
  | some ag => match ag.inSlot slot with
    | none => s
    | some f => match (ag.target m f.base.toNat (f.av.getD t 0) t).1 with
      | .ok (.glob va _) => (match s.translate ag.ctx ag.die va .read with
        | .ok x => s.join x
        | .error _ => s)
      | _ => s

/-- Some threads of a memory word act in order, each up to an element, until one has to wait. -/
def State.threadSteps (s : State) (id slot : Nat) (m : MemOp) (ts : List (Nat × Nat)) : State :=
  match ts with
  | [] => s
  | (t, j) :: ts => match s.threadStep id slot m t j with
    | none => s.joinThread id slot m t
    | some s' => s'.threadSteps id slot m ts

/-- The threads of a word, each with the elements of it that lie below `upto`, four elements counted for each thread; an access is
performed up to that element. -/
def upTo (m : MemOp) (ts : List Nat) (upto : Nat) : List (Nat × Nat) :=
  (ts.map (fun t => (t, min (upto - 4 * t) m.elements))).filter (fun e => decide (0 < e.2))

/-- A slot whose bitmap is full completes (R70). -/
def State.completeFull (s : State) (id slot : Nat) : State :=
  match s.agentOf id with
  | none => s
  | some ag => if ag.slotBusy slot then s else s.slotDone id slot

/-- The threads of a memory word act, up to element `upto`. A pair-weight load that is not alone waits for its match (R239). -/
def State.performMem (s : State) (id slot upto : Nat) (f : Inflight) (m : MemOp) : State :=
  match s.agentOf id with
  | none => s
  | some ag =>
    if s.halts ag || !s.headV ag slot || (!(f.pwNo == 0) && !f.alone) then s
    else (s.threadSteps id slot m (upTo m (if m.unif then [0] else threadsOf f.e) upto)).completeFull id slot

/-- A predicate. -/
def Reg.isP : Reg → Bool
  | .p _ => true
  | _ => false

/-- The threads below element `upto` of a VPERM take their values from its snapshot (R53, R404). -/
def State.performVperm (s : State) (id slot upto : Nat) (f : Inflight) : State :=
  let ts := if (s.agentOf id).any s.halts then [] else (threadsOf f.e).filter (fun t => decide (4 * t < upto))
  let s := ts.foldl (fun s t => s.upd id (fun x =>
    let u := (f.bv.getD t 0).toNat % 32
    if mbit (x.cbmOf slot) t then x
    else x.threadDone f false t 0 [f.av.getD u 0] (mbit f.pa u || mbit f.pb t)
      (f.dests.any Reg.isP && (mbit f.pa u || mbit f.pb t)))) s
  s.completeFull id slot

/-! ## Pair-weight loads -/

/-- The word in a slot of an agent goes on alone (R239, R241). -/
def State.goAlone (s : State) (id n : Nat) : State :=
  s.upd id (fun x => x.unpair n)

/-- PDIV set in an agent (R239, R240). -/
def State.pdiv (s : State) (id : Nat) : State := s.upd id (fun x => x.orPdiv true)

/-- One value read for thread `t` of two matched loads (R240): memory's, in determinate mode that of the latest finished commit that both
may read. -/
def State.sharedRead (s : State) (ac : Agent) (f g : Inflight) (m : MemOp) (t : Nat) : Did :=
  if s.isDet ac then s.threadAccess { ac with detBuf := [] } { f with aux := min f.aux g.aux } m t else s.threadAccess ac f m t

/-- What an agent takes of a shared read: in determinate mode the bytes are overlaid with its own buffer (R240). -/
def State.sharedValue (s : State) (ag : Agent) (f : Inflight) (m : MemOp) (t : Nat) (ws : List Word) (p : Bool) : List Word × Bool :=
  match s.isDet ag, (ag.target m f.base.toNat (f.av.getD t 0) t).1 with
  | true, .ok tg =>
    let (bs, q) := s.seen ag tg (tySize m.ty) ag.detBuf
    (loadRegs m.ty bs, q)
  | _, _ => (ws, p)

/-- Thread `t` of two matched loads reads for each partner by itself; the flag says that neither has to wait. -/
def State.readApart (s : State) (c u : Nat) (f g : Inflight) (m : MemOp) (t : Nat) : State × Bool :=
  let one (s : State) (id slot : Nat) : State × Bool := match s.threadStep id slot m t m.elements with
    | none => (s.joinThread id slot m t, false)
    | some s => (s, true)
  let x := one s c f.slot
  let y := one x.1 u g.slot
  (y.1, x.2 && y.2)

/-- One thread of two matched loads (R240): a shared read where both execute it with one address, otherwise a read of each. The flag says
that it does not have to wait; `apart`: the later threads go on whether it does or not. -/
def State.pairThread (s : State) (c u : Nat) (f g : Inflight) (m : MemOp) (apart : Bool) (t : Nat) : State × Bool :=
  match s.agentOf c, s.agentOf u with
  | some ac, some au =>
    let ea := (ac.target m f.base.toNat (f.av.getD t 0) t).2
    let eb := (au.target m g.base.toNat (g.av.getD t 0) t).2
    let one (s : State) (id slot : Nat) : State × Bool := match s.threadStep id slot m t m.elements with
      | none => ((if apart then s.pdiv id else s).joinThread id slot m t, false)
      | some s => (s.pdiv id, true)
    let acted := mbit (ac.cbmOf f.slot) t || mbit f.fmask t || mbit (au.cbmOf g.slot) t || mbit g.fmask t
    if mbit f.e t && mbit g.e t then
      if ea = eb && !acted then
        if mbit f.pa t || mbit g.pa t then s.readApart c u f g m t
        else match s.sharedRead ac f g m t with
          | .wait => ((s.joinThread c f.slot m t).joinThread u g.slot m t, false)
          | .fault k a => match (s.threadFails c f false t k a).bind (fun s => s.threadFails u g false t k a) with
            | none => (s, false)
            | some s => (s, true)
          | .done s' ws p rep =>
            let (wc, pc) := s'.sharedValue ac f m t ws p
            let (wu, pu) := s'.sharedValue au g m t ws p
            ((s'.upd c (fun x => x.threadDone f false t ea wc pc rep)).upd u (fun x => x.threadDone g false t ea wu pu rep), true)
      else
        let x := s.readApart c u f g m t
        (if ea = eb then x.1 else (x.1.pdiv c).pdiv u, x.2)
    else if mbit f.e t then one s c f.slot
    else if mbit g.e t then one s u g.slot
    else (s, true)
  | _, _ => (s, true)

/-- Two matched loads of a determinate launch stand in different quanta, so one of them may have to wait for a commit that the other does not
wait for (R193). -/
def State.quantaApart (s : State) (ag : Agent) (f g : Inflight) : Bool :=
  s.isDet ag && match s.launchOf ag.launch with
    | none => false
    | some l => !(f.aux / l.quantum == g.aux / l.quantum)

/-- Some threads of two matched loads act in order, until one has to wait (`apart`: the later ones go on); the flag says that none did. -/
def State.pairThreads (s : State) (c u : Nat) (f g : Inflight) (m : MemOp) (apart : Bool) (ts : List Nat) : State × Bool :=
  match ts with
  | [] => (s, true)
  | t :: ts =>
    let x := s.pairThread c u f g m apart t
    if x.2 || apart then
      let y := x.1.pairThreads c u f g m apart ts
      (y.1, x.2 && y.2)
    else (x.1, false)

/-- Two matched loads go on: with different words alone and diverged (R239), else thread by thread (R240). -/
def State.matchWith (s : State) (ag p : Agent) (f g : Inflight) (m : MemOp) : State :=
  let n := f.pwNo
  if !(g.pc == f.pc) then (((s.goAlone ag.id n).goAlone p.id n).pdiv ag.id).pdiv p.id
  else if !s.headV ag f.slot || (!g.finished && !s.headV p g.slot) || s.halts ag || s.halts p then s
  else
    let (c, u, fc, fu) := if ag.wid.toNat < p.wid.toNat then (ag.id, p.id, f, g) else (p.id, ag.id, g, f)
    let (s, done) := s.pairThreads c u fc fu m (s.quantaApart ag f g) (threadsOf (f.e ||| g.e))
    let full (id slot : Nat) : Bool := (s.agentOf id).any (fun x => !x.slotBusy slot)
    if done || (s.quantaApart ag f g && (full ag.id f.slot || full p.id g.slot)) then
      (((s.goAlone ag.id n).goAlone p.id n).completeFull ag.id f.slot).completeFull p.id g.slot
    else s

/-- A pair-weight load is matched with its partner's load of the same number, which may have issued before the partner died, or goes on
alone (R239-R241). -/
def State.matchLoad (s : State) (id slot : Nat) : State :=
  match s.agentOf id with
  | none => s
  | some ag => match ag.inSlot slot, (ag.inSlot slot).bind (fun f => memOp f.instr) with
    | some f, some m =>
      if f.pwNo = 0 then s
      else match s.partner ag with
        | none => s.goAlone id f.pwNo
        | some p => match p.inflight.find? (fun g => g.pwNo == f.pwNo) with
          | some g => s.matchWith ag p f g m
          | none => if p.alive && decide (p.pwCount < f.pwNo) then s else s.goAlone id f.pwNo
    | _, _ => s

end Sys2Proof.Machine
end

