-- ==== Sys2Proof/Machine/Control.lean ====
section
/-! DEFINITION. Control words: NOP, the mask stack (R50, R363), jump registers and loops (R63-R65, R352, R353), WAITOP (R71, R408),
TIME, SLEEPAT and TRACE (R277-R279, R385, R390, R395), TRIG (R207), WRS (R409, R410). -/

namespace Sys2Proof.Machine

/-- A class-X word that needs no more than its engine (R93). -/
def needX (seq : Bool := false) (srcs : List Use := []) : Need := { cls := .x, seq := seq, srcs := srcs }

/-- A short-latency class-X word. -/
def State.xword (s : State) (h : Head) (need : Need) (body : State → Res) : State := s.issue h.nas need (s.agent.guardU h.g) body

/-- NOP (R365). -/
def execNop (h : Head) (s : State) : Out := .next (s.xword h (needX true) (fun s => .ok s s.npc))

/-! ## The mask stack -/

/-- The predicate operand of MSKIF and MSKBRK: any other specifier raises cause 0x0E (R50); log 24. -/
def needMask (a : Opnd) : Need :=
  { needX false [{ o := a, aff := true, vary := true, pred := true }] with
    badE := match a with
      | .p _ => false
      | _ => true }

/-- The mask that a mask word tests; log 24. -/
def Agent.maskArg (ag : Agent) (a : Opnd) (neg : Bool) : Mask :=
  let m := match a with
    | .p n => ag.preg n
    | _ => 0
  if neg then ~~~m else m

/-- MSKIF (R50). -/
def execMskif (h : Head) (a : Opnd) (neg : Bool) (s : State) : Out :=
  .next (s.xword h (needMask a) (fun s =>
    let c := s.agent.maskArg a neg
    if 16 ≤ s.agent.msk.length then .bad (s.agent.flt 0x11)
    else .ok (s.me (fun ag =>
      { ag with msk := { outer := ag.exm, alt := ag.exm &&& ~~~c } :: ag.msk, exm := ag.exm &&& c })) s.npc))

/-- MSKELSE (R50). -/
def execMskelse (h : Head) (s : State) : Out :=
  .next (s.xword h needX (fun s => match s.agent.msk with
    | [] => .bad (s.agent.flt 0x0A)
    | e :: l => .ok (s.me (fun ag => { ag with exm := e.alt &&& ag.live, msk := { e with alt := 0 } :: l })) s.npc))

/-- MSKEND (R50). -/
def execMskend (h : Head) (s : State) : Out :=
  .next (s.xword h needX (fun s => match s.agent.msk with
    | [] => .bad (s.agent.flt 0x0A)
    | e :: l => .ok (s.me (fun ag => { ag with exm := e.outer &&& ag.live, msk := l })) s.npc))

/-- The mask stack after threads `m` have left `n` levels of it (R50): entry `n` from the top keeps them in its outer mask. -/
def breakOut (m : Mask) (n : Nat) (l : List MaskEntry) : List MaskEntry :=
  l.zipIdx.map (fun (e, i) =>
    if i + 1 < n then { outer := e.outer &&& ~~~m, alt := e.alt &&& ~~~m }
    else if i + 1 = n then { e with alt := e.alt &&& ~~~m } else e)

/-- MSKBRK out of `n + 1` levels (R50). -/
def execMskbrk (h : Head) (a : Opnd) (neg : Bool) (n : Fin 16) (s : State) : Out :=
  .next (s.xword h (needMask a) (fun s =>
    if s.agent.msk.length < n.val + 1 then .bad (s.agent.flt 0x0A)
    else
      let m := s.agent.exm &&& s.agent.maskArg a neg
      .ok (s.me (fun ag => { ag with exm := ag.exm &&& ~~~m, msk := breakOut m (n.val + 1) ag.msk })) s.npc))

/-! ## Jump registers, loops, waits -/

/-- LDJ (R63). -/
def execLdj (h : Head) (j1 : Bool) (i : BitVec 21) (s : State) : Out :=
  .next (s.xword h (needX true) (fun s =>
    let t := wrapN 48 ((s.agent.pc : Int) + 8 * i.toInt)
    .ok (s.me (fun ag => if j1 then { ag with j1 := t } else { ag with j0 := t })) s.npc))

/-- LOOP over `len + 1` words (R64): a false guard is a count of 0. A flag, which R34 lets class X read, counts 0 or 1 (DESIGN CHOICE: neither R64
nor R353 names it); log 63. -/
def execLoop (h : Head) (a : Opnd) (len : BitVec 8) (s : State) : Out :=
  let neg := match a with
    | .imm i => i.msb
    | _ => false
  .next (s.issue h.nas { needX true [plain a] with badE := neg } true (fun s =>
    let ag := s.agent
    let l := ag.loops.length
    let n := if ag.guardU h.g then s.uval .int a else 0
    let stop := (ag.pc + 8 * (len.toNat + 1)) % 2 ^ 48
    let nested := match ag.loops.getLast? with
      | none => true
      | some x => decide (stop < x.stop)
    if l = 3 || !nested then .bad (ag.flt 0x0A)
    else if n = 0 then .ok s (nextPc stop)
    else .ok (s.me (fun ag =>
      { ag with loops := ag.loops ++ [{ start := s.npc, stop := stop }], lc := aset ag.lc l n })) s.npc))

/-- The slots of a mask. -/
def inMask (m : BitVec 8) (i : Nat) : Bool := m.getLsbD i

/-- WAITOP (R71): the destinations of the named slots cease to be pending. A pair-weight load that executed in no thread still stands for its
partner's match (R239). -/
def execWaitop (h : Head) (m : BitVec 8) (s : State) : Out :=
  .next (s.xword h (needX true) (fun s =>
    if (List.range 8).any (fun i => inMask m i && s.agent.slotBusy i) then
      match s.mirrorFlt (inMask m) with
      | some f => .bad f
      | none => s.holdFor h.nas (.slots m)
    else .ok (s.me (fun ag =>
      { ag with inflight := (ag.inflight.filter (fun f => !(f.finished && f.pwNo == 0 && inMask m f.slot))).map (fun f =>
                  if f.finished && inMask m f.slot then { f with dests := [] } else f) })) s.npc))

/-! ## Time, traces, triggers -/

/-- An even k pair as destination. -/
def pairDst (n : Need) (d : Opnd) : Need := { n with dst := some d, dn := 2, dal := 2 }

/-- An even k pair as source. -/
def pairSrc (o : Opnd) : Use := { o := o, n := 2, al := 2 }

/-- A number written into the k pair that an operand names. -/
def Agent.putPair (ag : Agent) (o : Opnd) (w : Nat) : Agent :=
  match o with
  | .k n => ag.setPair n w
  | _ => ag

/-- TIME: the count at issue into a k pair (R277, R390). -/
def execTime (h : Head) (d : Opnd) (s : State) : Out :=
  .next (s.xword h (pairDst needX d) (fun s => .ok (s.me (fun ag => ag.putPair d s.time)) s.npc))

/-- SLEEPAT: holds issue until the count reaches the instant in a k pair (R278, R385). -/
def execSleepat (h : Head) (a : Opnd) (s : State) : Out :=
  .next (s.xword h (needX false [pairSrc a]) (fun s =>
    let t := s.agent.pairOf a
    if t ≤ s.time then .ok s s.npc else s.holdFor h.nas (.sleep t)))

/-- TRACE: a record of kind 1 (R278, R279, R395). -/
def execTrace (h : Head) (a b : Opnd) (s : State) : Out :=
  .next (s.xword h (needX false [pairSrc a, plain b]) (fun s =>
    let ag := s.agent
    let code := (s.uval .int b).toNat
    if 127 < code then .bad (ag.flt 0x0E)
    else .ok (s.trace ag.ctx { kind := 1, die := ag.die, source := ag.core, code := code, wid := ag.wid.toNat, arg := 0,
                               payload := ag.pairOf a }) s.npc))

/-- TRIG: the warp counts as triggered (R207). -/
def execTrig (h : Head) (s : State) : Out :=
  .next (s.xword h needX (fun s =>
    let ag := s.agent
    if ag.trig.isSome then .ok s s.npc
    else .ok ((s.me (fun ag => { ag with trig := some { no := s.handles, clock := ag.lclk } })).updLaunch ag.launch
      (fun l => { l with triggered := setIn l.triggered ag.wid.toNat true })) s.npc))

/-! ## WRS -/

/-- Specials that WRS writes (R409, R410). -/
def wrsWritable (i : Nat) : Bool :=
  i == 0x0D || i == 0x0E || (decide (0x18 ≤ i) && decide (i < 0x1E)) || i == 0x20 || isFrameSpecial i

/-- Specials whose write is privileged (R97). -/
def wrsPriv (i : Nat) : Bool := i == 0x1B || i == 0x1C || i == 0x1D || i == 0x20

/-- The effect of WRS on special `i` (R410), or its fault. A new high-water mark finds no access half done; log 53. -/
def State.wrs (s : State) (i : Nat) (w : Word) : Res :=
  let ag := s.agent
  let n := w.toNat
  let bad (c : Nat) : Res := .bad (ag.flt c)
  let ok (f : Agent → Agent) : Res := .ok (s.me f) s.npc
  if i = 0x0D then ok (fun ag => { ag with exm := w &&& ag.live })
  else if i = 0x0E then ok (fun ag => { ag with wst := w.setWidth 3 })
  else if i < 0x1B then if i - 0x18 < ag.loops.length then ok (fun ag => { ag with lc := aset ag.lc (i - 0x18) w }) else bad 0x0A
  else if i = 0x1B then
    if 8 < n then bad 0x0E
    else if ag.link.length < n then bad 0x0A
    else ok (fun ag => { ag with link := ag.link.drop (ag.link.length - n) })
  else if i = 0x1C then
    if 16 < n then bad 0x0E
    else if ag.msk.length < n then bad 0x0A
    else ok (fun ag => { ag with msk := ag.msk.drop (ag.msk.length - n) })
  else if i = 0x1D then
    if n % 2048 = 0 && n ≤ 2048 * 2 ^ ag.pw then .ok ((s.wholeStores ag.id).me (fun ag => { ag with phwm := w })) s.npc else bad 0x0E
  else if i = 0x20 then if n ≤ 7 then ok (fun ag => { ag with prio := n }) else bad 0x0E
  else if i = 0x36 then ok (fun ag => { ag with tframe := (ag.tframe &&& 0xFFFFFFFF00000000) ||| w.setWidth 64 })
  else if i = 0x37 then ok (fun ag => { ag with tframe := (ag.tframe &&& 0xFFFFFFFF) ||| (w.setWidth 64 <<< 32) })
  else
    let va := ag.tframe.toNat + frameField i
    match s.writeRun ag.ctx ag.die ag.id va (leBytes 4 n) with
    | .error e => .bad (Flt.at e va)
    | .ok s' => .ok s' s.npc

/-- What WRS asks (R33, R97, R409). -/
def wrsNeed (d a : Opnd) : Need :=
  { needX false [plain a] with
    priv := match d with
      | .sp i => wrsPriv i.val
      | _ => false
    handlerOnly := match d with
      | .sp i => isFrameSpecial i.val
      | _ => false
    badE := match d with
      | .sp i => !wrsWritable i.val
      | _ => true }

/-- WRS (R409, R410). -/
def execWrs (h : Head) (d a : Opnd) (s : State) : Out :=
  .next (s.xword h (wrsNeed d a) (fun s => match d with
    | .sp i => s.wrs i.val (s.uval .int a)
    | _ => .bad (s.agent.flt 0x0E)))

end Sys2Proof.Machine
end

