-- ==== Sys2Proof/Machine/Sync.lean ====
section
/-! DEFINITION. Bindings, objects, clasps, fences and mailboxes (R171-R182, R192-R195, R211, R233), with the grants of the homes
(ACQ_GRANT, CLASP_ROUND_COMPLETE) and the buddy's acknowledgements (R136, R234). -/

namespace Sys2Proof.Machine

/-- Two runs of bytes overlap. -/
def overlaps (a n b m : Nat) : Bool := decide (a < b + m) && decide (b < a + n)

/-- An address fault of a class-X word (R261). -/
def badAt (c a : Nat) : Res := .bad (Flt.at c a)

/-- A source that must be a k register. -/
def notK (o : Opnd) : Bool := !isK o

/-- The number of an operand that is a k pair, or one register when `one`. -/
def State.objArg (s : State) (o : Opnd) (one : Bool) : Nat := if one then (s.uval .int o).toNat else s.agent.pairOf o

/-! ## Bindings (R173, R174) -/

/-- A negative immediate where an index 0-127 is asked. -/
def negImm : Opnd → Bool
  | .imm i => i.msb
  | _ => false

/-- Groups a warp belongs to. -/
def Agent.inGroup (ag : Agent) (g : Word) : Bool := !(g == 0xFFFFFFFF) && ag.gm.contains g

/-- BIND (R172-R174, R303). -/
def execBind (h : Head) (a b : Opnd) (rs os cl : Bool) (s : State) : Out :=
  let objU : Use := if os || cl then plain b else pairSrc b
  .next (s.xword h { needX false [{ o := a, n := 3, al := 2 }, objU] with
      badE := notK a || (!cl && notK b) || (cl && negImm b) } (fun s =>
    let ag := s.agent
    let k := match a with
      | .k n => n.val
      | _ => 0
    let base := if rs then (ag.kreg k).toNat else ag.kpair k
    let len := (ag.kreg (k + 2)).toNat
    let obj := s.objArg b (os || cl)
    if len = 0 then .bad (ag.flt 0x0E)
    else if !(base % 4 == 0 && len % 4 == 0) then badAt 0x09 base
    else if !cl && !(obj % 8 == 0) then badAt 0x09 obj
    else if if rs then decide ((s.scratch ag.scratch).size < base + len) else decide (2 ^ 56 < base + len) then badAt 0x08 base
    else if decide (64 ≤ ag.binds.length) || ag.binds.any (fun x => x.rs == rs && overlaps base len x.base x.len) ||
        (cl && !ag.inGroup (s.uval .int b)) then .bad (ag.flt 0x0A)
    else
      let o : ObjRef := if cl then .clasp obj else if os then .scratch obj else .global obj
      .ok (s.me (fun ag => { ag with binds := ag.binds ++ [{ rs := rs, base := base, len := len, obj := o }] })) s.npc))

/-- The bindings of the agent that `hit` picks removed. The next REL of their objects still waits for the words issued before (R402). -/
def State.unbind (s : State) (hit : Binding → Bool) : State :=
  s.me (fun ag => { ag with binds := ag.binds.filter (fun x => !hit x)
                            past := ag.past.filter (fun e => ag.inflight.any (fun f => decide (f.no < e.2))) ++
                              (ag.binds.filter hit).map (fun x => (x, s.handles)) })

/-- UNBIND (R172-R174, R402). -/
def execUnbind (h : Head) (a : Opnd) (rs all : Bool) (s : State) : Out :=
  .next (s.xword h { needX false (if all then [] else [pairSrc a]) with
      badE := !all && (match a with
        | .k n => decide (60 < n.val)
        | _ => true) } (fun s =>
    let ag := s.agent
    if all then .ok (s.unbind (fun _ => true)) s.npc
    else
      let base := s.objArg a rs
      let hit (x : Binding) : Bool := x.rs == rs && x.base == base
      if ag.binds.any hit then .ok (s.unbind hit) s.npc
      else .bad (ag.flt 0x0A)))

/-! ## Objects (R171, R174, R175) -/

/-- The faults of R174 that ACQ and REL share, on an object; else its key and word. -/
def State.objCheck (s : State) (o : Held) : Except Flt (ObjKey × Nat) :=
  let ag := s.agent
  if o.addr % 8 ≠ 0 then .error (Flt.at 0x09 o.addr)
  else if o.scr then
    if (s.scratch ag.scratch).size < o.addr + 8 then .error (Flt.at 0x08 o.addr)
    else
      let k : ObjKey := .scr ag.scratch o.addr
      if fld (s.obj k) 32 31 = 0 then .ok (k, s.obj k) else .error (ag.flt 0x0A)
  else match s.translate ag.ctx ag.die o.addr .both with
    | .error e => .error (Flt.at e o.addr)
    | .ok x =>
      if x.leaf.swept then .error (Flt.at 0x08 o.addr)
      else if fld (s.obj (.mem x.pa)) 32 31 = 0 then .ok (.mem x.pa, s.obj (.mem x.pa)) else .error (ag.flt 0x0A)

/-- The warp holds the object. -/
def Agent.holds (ag : Agent) (o : Held) : Bool := ag.held.any (fun x => x.scr == o.scr && x.addr == o.addr)

/-- A request can be granted on an object word (R175). -/
def grantable (sh : Bool) (w : Nat) : Bool := if sh then !objEx w && decide (objSh w < 65535) else !objEx w && objSh w == 0

/-- The word of an object after a grant, `wait` requests still waiting. -/
def grantWord (sh : Bool) (w wait : Nat) : Nat :=
  if sh then objWord false wait (objSh w + 1) else objWord true wait (objSh w)

/-- An agent becomes a holder. -/
def State.grant (s : State) (id : Nat) (k : ObjKey) (o : Held) (wait : Nat) : State :=
  match s.agentOf id with
  | none => s
  | some ag =>
    let s := s.setObj ag o k (grantWord o.shared (s.obj k) wait)
    s.upd id (fun a => { a with held := a.held ++ [o] })

/-- Whether some thread of a memory word in flight accesses bytes that `p` picks: scratch or global, address, length. -/
def Agent.touches (ag : Agent) (f : Inflight) (p : Bool → Nat → Nat → Bool) : Bool :=
  match memOp f.instr with
  | none => false
  | some m =>
    !m.pft && (if m.unif then [0] else threadsOf f.e).any (fun t =>
      match (ag.target m f.base.toNat (f.av.getD t 0) t).1 with
      | .ok (.glob va _) => p false va (tySize m.ty)
      | .ok (.scr off) => p true off (tySize m.ty)
      | _ => false)

/-- A word on a typed buffer: BLD or BST. -/
def onBuf (i : Instr) : Bool := (memOp i).any (fun m => m.buf.isSome)

/-- The slots of the words that `p` picks. -/
def Agent.slotsOf (ag : Agent) (p : Inflight → Bool) : BitVec 8 :=
  BitVec.ofNat 8 ((List.range 8).foldl (fun m i => if ag.inflight.any (fun f => f.slot == i && p f) then m + 2 ^ i else m) 0)

/-- The slots of the earlier words that an acquire of an object waits for: those that touch its element, and BUF words (R187). -/
def Agent.acqSlots (ag : Agent) (o : Held) : BitVec 8 :=
  ag.slotsOf (fun f => !f.finished && (onBuf f.instr || ag.touches f (fun scr a n => scr == o.scr && overlaps a n o.addr 8)))

/-- ACQ (R175, R295): once the earlier words that it must follow are complete (R187), a request goes to the object's home. With nothing before
it and the object free it is granted at once; otherwise issue is held until the grant. -/
def execAcq (h : Head) (a : Opnd) (sh os : Bool) (s : State) : Out :=
  .next (s.xword h { needX false [if os then plain a else pairSrc a] with badE := notK a } (fun s =>
    let ag := s.agent
    let o : Held := { scr := os, addr := s.objArg a os, shared := sh }
    match s.objCheck o with
    | .error f => .bad f
    | .ok (k, w) =>
      if ag.holds o || decide (16 ≤ ag.held.length) then .bad (ag.flt 0x0A)
      else if ag.acqSlots o ≠ 0 then s.holdFor h.nas (.slots (ag.acqSlots o))
      else if s.isDet ag && !s.detNow ag then s.holdFor h.nas .det
      else if !s.isDet ag && !s.waiters.any (fun x => x.key == k) && grantable sh w then
        .ok (s.grant ag.id k o (objWait w)) s.npc
      else match s.holdFor h.nas (.acq k o h.nas) with
        | .hold s' =>
          let s' := s'.setObj ag o k (objWord (objEx w) (objWait w + 1) (objSh w))
          .hold { s' with waiters := s'.waiters ++ [{ ag := ag.id, key := k, sh := sh }] }
        | r => r))

/-- The NAS of an ACQ that was granted while its warp was away, or replays words, acts; the warp's hold stays (R263). -/
def State.lateNas (s : State) (id : Nat) : State :=
  match s.agentOf id with
  | none => s
  | some ag => match ag.wait with
    | .granted nas =>
      let s := s.within id (fun s => match s.agent.nasNext nas s.npc with
        | .error _ => s
        | .ok a => ({ s with agent := a }).finish s.agent)
      s.upd id (fun a => { a with hold := ag.hold, wait := .none })
    | _ => s

/-- The home of an object has been found. -/
def ObjKey.here : ObjKey → Bool
  | .away .. => false
  | _ => true

/-- The object that an agent waits for. -/
def Agent.asked (a : Agent) : Option Held :=
  match a.hold, a.wait with
  | .acq _ o _, _ | _, .acq _ o _ => some o
  | _, _ => none

/-- The requests that a resume has brought to a die find their objects' homes there, once the pages can be reached (R263, R283); log 57. -/
def State.found (s : State) : State :=
  { s with waiters := s.waiters.map (fun w =>
      if w.key.here then w
      else match s.agentOf w.ag with
        | none => w
        | some a => match a.asked.map (s.keyOf a) with
          | some (.ok k) => { w with key := k }
          | _ => w) }

/-- ACQ_GRANT: the home grants the waiting request of an agent, first come first served (R175); in determinate mode only a commit
grants (R195). The warp's issue resumes: its NAS acts; log 42. -/
def State.acqGrant (s : State) (id : Nat) : State :=
  let s := s.found
  match s.waiters.find? (fun w => w.ag == id), s.agentOf id with
  | some w, some ag =>
    let first := match s.waiters.find? (fun x => x.key == w.key) with
      | none => false
      | some x => x.ag == id
    let give (k : ObjKey) (o : Held) : State :=
      let s := { s with waiters := s.waiters.filter (fun x => !(x.ag == id)) }
      s.grant id k o (objWait (s.obj k) + 65535)
    match ag.hold, ag.wait with
    | .acq _ o nas, _ => if first && w.key.here && grantable w.sh (s.obj w.key) then (give w.key o).within id (fun s => s.resumeNas nas) else s
    | _, .acq _ o nas =>
      if first && w.key.here && grantable w.sh (s.obj w.key) then
        let s := (give w.key o).upd id (fun a => { a with wait := .granted nas })
        if ag.resident then s.lateNas id else s
      else s
    | _, _ => s
  | _, _ => s

/-- ACQ_GRANT (R175), the waiting warp resident or held in a saved image; log 42. -/
def execAcqGrant (ag : Nat) (s : State) : Out :=
  .next (match s.allAgents.find? (fun a => a.id == ag) with
    | none => s
    | some a =>
      if s.isDet a then s
      else if (s.agentOf ag).isSome then s.acqGrant ag else s.awake (fun s => s.acqGrant ag))

/-! ## Waits of REL and the fences -/

/-- A binding names an object (R173): by its address, a clasp object by that of its group (R177). `g`: the group, where the object is
its clasp object. -/
def State.names (s : State) (ag : Agent) (x : Binding) (o : Held) (g : Option Nat) : Bool :=
  match x.obj with
  | .global va => !o.scr && va == o.addr
  | .scratch off => o.scr && off == o.addr
  | .clasp i => g == some i || (!o.scr && (s.groupOf ag.launch i).any (fun gr => gr.clasp == o.addr))

/-- The regions that were bound to an object when a word with serial number `no` issued: those bound now, and those unbound since (R402). -/
def State.boundTo (s : State) (ag : Agent) (o : Held) (g : Option Nat) (no : Nat) : List Binding :=
  (ag.binds ++ (ag.past.filter (fun e => decide (no < e.2))).map (·.1)).filter (fun x => s.names ag x o g)

/-- A page whose writes a release waits for, bound or not (R175): one with DT or MIRROR (R136). -/
def State.noted (s : State) (ag : Agent) (va : Nat) : Bool :=
  match s.translate ag.ctx ag.die va .write with
  | .ok x => bit x.leaf.desc 7 || bit x.leaf.desc 6
  | .error _ => false

/-- A word in flight that the release of an object waits for (R175), BUF words (R187) and those that touch the object's own element among them
(R186). -/
def State.relWaits (s : State) (ag : Agent) (o : Held) (g : Option Nat) (f : Inflight) : Bool :=
  let bs := s.boundTo ag o g f.no
  !f.finished &&
    (ag.touches f (fun scr a n => (scr == o.scr && overlaps a n o.addr 8) || bs.any (fun b => b.rs == scr && overlaps a n b.base b.len)) ||
      onBuf f.instr ||
      ((match memOp f.instr with
          | none => false
          | some m => !m.load) && ag.touches f (fun scr a _ => !scr && s.noted ag a)))

/-- What a release still waits for, if anything (R175): words and acknowledgements. Earlier row requests have been accepted, or
the word would not issue (R154). -/
def State.relHold (s : State) (ag : Agent) (o : Held) (g : Option Nat) : Option Hold :=
  let m := ag.slotsOf (s.relWaits ag o g)
  if m ≠ 0 then some (.slots m)
  else if s.mirrors.any (fun x => x.ag == ag.id && x.copy.isNone) then some .mirror
  else none

/-- The fault of a mirrored write of the warp that the buddy failed to acknowledge (R136). -/
def State.mirrorBad (s : State) : Option Flt :=
  (s.mirrorLost s.agent).map (fun va => { cause := 0x0F, mask := s.agent.exm, addr := va })

/-- The hold of an object that a warp has. -/
def Agent.holdOf (ag : Agent) (o : Held) : Held := (ag.held.find? (fun x => x.scr == o.scr && x.addr == o.addr)).getD o

/-- REL (R175, R381). -/
def execRel (h : Head) (a : Opnd) (os : Bool) (s : State) : Out :=
  .next (s.xword h { needX false [if os then plain a else pairSrc a] with badE := notK a } (fun s =>
    let ag := s.agent
    let o : Held := { scr := os, addr := s.objArg a os, shared := false }
    match s.objCheck o with
    | .error f => .bad f
    | .ok _ =>
      if !ag.holds o then .bad (ag.flt 0x0A)
      else match s.mirrorBad with
        | some f => .bad f
        | none => match s.relHold ag o none with
          | some w => s.holdFor h.nas w
          | none => .ok (s.release ag.id (ag.holdOf o)) s.npc))

/-! ## Clasps (R177, R211) -/

/-- The clasp object of a group. -/
def claspObj (g : Group) : Held := { scr := false, addr := g.clasp, shared := true }

/-- A member's arrival counts in the current round of its group. -/
def State.reachRound (s : State) (launch wid g : Nat) : State :=
  let r := s.round launch g
  s.setRound { r with arrived := setIn r.arrived wid true }

/-- The REL part and the arrival of a member whose waits are over (R177). In determinate mode they take effect at the commit of the
word's quantum (R195). -/
def State.arrive (s : State) (id g : Nat) : State :=
  match s.agentOf id with
  | none => s
  | some ag => match s.groupOf ag.launch g with
    | none => s
    | some gr =>
      let o := claspObj gr
      let s := if ag.holds o then s.release id (ag.holdOf o) else s
      let s := if s.isDet ag then s.buffer id ag.lclk (.arrive g) else s.reachRound ag.launch ag.wid.toNat g
      s.upd id (fun a => { a with arriving := setIn a.arriving g false })

/-- CLASPA releases whose waits are over take effect. -/
def State.arriveAll (s : State) (launch g : Nat) : State :=
  (s.agents.filter (fun a => a.launch == launch && a.arriving.contains g)).foldl (fun s a =>
    match s.groupOf launch g with
    | none => s
    | some gr => if (s.relHold a (claspObj gr) (some g)).isNone then s.arrive a.id g else s) s

/-- A member that has not exited: in determinate mode, not below the last commit (R195). -/
def State.stays (s : State) (launch : Nat) (a : Agent) : Bool :=
  a.alive || (match s.launchOf launch with
    | some l => l.det && decide (l.commits * l.quantum < a.lclk)
    | none => false)

/-- The members of a group that still have to arrive: a member that has exited counts as arrived. A member that a saved image holds has
not exited. -/
def State.missing (s : State) (launch g : Nat) (gr : Group) : List Nat :=
  gr.members.filter (fun w => !(s.round launch g).arrived.contains w &&
    (match s.warpOf launch w with
      | none => s.savedAgents.any (fun a => a.kind == .warp && a.launch == launch && a.wid.toNat == w && a.alive)
      | some a => s.stays launch a))

/-- A completed round: its members may have their shared acquires (R177). -/
def State.closeRound (s : State) (launch g : Nat) : State :=
  match s.groupOf launch g with
  | none => s
  | some gr =>
    let r := s.round launch g
    if r.arrived.isEmpty || !(s.missing launch g gr).isEmpty then s
    else s.setRound { r with passing := r.arrived ++ r.passing, arrived := [] }

/-- The shared acquires of the waiting members of a completed round, granted together once the object is not held exclusively. -/
def State.grantRound (s : State) (launch g : Nat) : State :=
  match s.groupOf launch g with
  | none => s
  | some gr =>
    let r := s.round launch g
    let go := r.waiting.filter (fun id => match s.agentOf id with
      | none => false
      | some a => r.passing.contains a.wid.toNat)
    go.foldl (fun s id => match s.agentOf id with
      | none => s
      | some a => match s.keyOf a (claspObj gr), a.hold with
        | .ok k, .clasp _ _ nas =>
          if objEx (s.obj k) then s
          else
            let s := s.grant id k (claspObj gr) (objWait (s.obj k))
            let r := s.round launch g
            let s := s.setRound { r with waiting := setIn r.waiting id false, passing := setIn r.passing a.wid.toNat false }
            let s := s.upd id (fun a => { a with arrived := setIn a.arrived g false, arrPending := false })
            s.within id (fun s => s.resumeNas nas)
        | _, _ => s) s

/-- What can be done for a group's clasp is done (R177). -/
def State.claspRound (s : State) (launch g : Nat) : State := ((s.arriveAll launch g).closeRound launch g).grantRound launch g

/-- CLASP_ROUND_COMPLETE (R177); in determinate mode a clasp completes at a commit (R195). -/
def execClaspRoundComplete (launch g : Nat) (s : State) : Out :=
  .next (match s.launchOf launch with
    | none => s
    | some l => if l.det then s else s.claspRound launch g)

/-- The checks of R211 and R174 on a clasp instruction; else the group. `part`: 0 CLASP, 1 CLASPA, 2 CLASPW. -/
def State.claspCheck (s : State) (part : Nat) (w : Word) : Except Flt Group :=
  let ag := s.agent
  let g := w.toNat
  if !ag.inGroup w then .error (ag.flt 0x0A)
  else match s.groupOf ag.launch g with
    | none => .error (ag.flt 0x0A)
    | some gr =>
      let arr := ag.arrived.contains g
      if !gr.gang || gr.clasp == 0 then .error (ag.flt 0x0A)
      else if (part == 2 && !arr) || (part == 1 && arr) || (part == 0 && arr && !ag.arrPending) then .error (ag.flt 0x0A)
      else match s.objCheck (claspObj gr) with
        | .error f => .error f
        | .ok _ =>
          let held := ag.held.length - (if ag.holds (claspObj gr) then 1 else 0)
          if (part == 2 || ag.arrPending) && ag.holds (claspObj gr) && !ag.arriving.contains g then .error (ag.flt 0x0A)
          else if part ≠ 1 && decide (16 ≤ held) then .error (ag.flt 0x0A) else .ok gr

/-- A warp waits for its shared acquire. -/
def State.claspWait (s : State) (g : Nat) (whole : Bool) (nas : Nas) : Res :=
  match s.holdFor nas (.clasp g whole nas) with
  | .hold s' =>
    let ag := s'.agent
    let r := s'.round ag.launch g
    let s' := s'.setRound { r with waiting := setIn r.waiting ag.id true }
    .hold (if s'.isDet ag then s' else s'.claspRound ag.launch g)
  | r => r

/-- What a clasp word asks (R307). -/
def claspNeed (a : Opnd) : Need := { needX false [plain a] with badE := negImm a }

/-- CLASP: release, arrival, wait and shared acquire (R177, R211, R307). -/
def execClasp (h : Head) (a : Opnd) (s : State) : Out :=
  .next (s.xword h (claspNeed a) (fun s =>
    let ag := s.agent
    let w := s.uval .int a
    match s.claspCheck 0 w with
    | .error f => .bad f
    | .ok gr =>
      if ag.arrPending then s.claspWait w.toNat true h.nas
      else if s.isDet ag && !s.detNow ag then s.holdFor h.nas .det
      else match s.mirrorBad with
        | some f => .bad f
        | none => match s.relHold ag (claspObj gr) (some w.toNat) with
          | some x => s.holdFor h.nas x
          | none => match s.agent.nasBad h.nas s.npc with
            | some c => .bad (s.agent.flt c)
            | none =>
              let s := s.me (fun a => { a with arrived := setIn a.arrived w.toNat true })
              (s.arrive ag.id w.toNat).claspWait w.toNat true h.nas))

/-- CLASPA: release and arrival; it does not hold issue (R177, R211, R307). In determinate mode the commit of its quantum comes after the
accesses that its REL part waits for (R193). -/
def execClaspa (h : Head) (a : Opnd) (s : State) : Out :=
  .next (s.xword h (claspNeed a) (fun s =>
    let w := s.uval .int a
    match s.claspCheck 1 w with
    | .error f => .bad f
    | .ok _ => match s.mirrorBad with
      | some f => .bad f
      | none =>
        let s := s.me (fun a => { a with arrived := setIn a.arrived w.toNat true, arriving := setIn a.arriving w.toNat true })
        .ok (if s.isDet s.agent then s.arrive s.agent.id w.toNat else s.arriveAll s.agent.launch w.toNat) s.npc))

/-- CLASPW: wait and shared acquire (R177, R211, R307). -/
def execClaspw (h : Head) (a : Opnd) (s : State) : Out :=
  .next (s.xword h (claspNeed a) (fun s =>
    let ag := s.agent
    let w := s.uval .int a
    match s.claspCheck 2 w with
    | .error f => .bad f
    | .ok gr =>
      if ag.acqSlots (claspObj gr) ≠ 0 then s.holdFor h.nas (.slots (ag.acqSlots (claspObj gr)))
      else if s.isDet ag && !s.detNow ag then s.holdFor h.nas .det else s.claspWait w.toNat false h.nas))

/-! ## Fences (R181, R182) -/

/-- An access that a fence of a kind completes before it ends (R181). -/
def fenced (k : FenceKind) (i : Instr) : Bool :=
  match memOp i with
  | none => false
  | some m =>
    !m.pft && (match k with
      | .rel => m.buf.isNone
      | .acq => m.buf.isNone && !m.store && !m.red
      | .ar => true)

/-- A scope that reaches the buddy and the system. -/
def wideScope : Scope → Bool
  | .mod | .sys => true
  | _ => false

/-- What a fence still waits for. -/
def State.fenceHold (s : State) (k : FenceKind) (sc : Scope) : Option Hold :=
  let ag := s.agent
  let m := if sc == .warp then 0 else ag.slotsOf (fun f => !f.finished && fenced k f.instr)
  if m ≠ 0 then some (.slots m)
  else if wideScope sc && !(k == .acq) && s.mirrors.any (fun x => x.ag == ag.id && x.copy.isNone) then some .mirror
  else none

/-- The mirror failure that a fence reports. -/
def State.fenceBad (s : State) (k : FenceKind) (sc : Scope) : Option Flt :=
  if wideScope sc && !(k == .acq) then s.mirrorBad else none

/-- FENCE (R181, R320). -/
def execFence (h : Head) (kind : FenceKind) (sc : Scope) (s : State) : Out :=
  .next (s.xword h needX (fun s => match s.fenceBad kind sc with
    | some f => .bad f
    | none => match s.fenceHold kind sc with
      | some w => s.holdFor h.nas w
      | none => .ok s s.npc))

/-- An operation of a path that XFENCE waits for (R182): matrix operations before a completed rendezvous, and acknowledged
incoming writes, are complete already. -/
def onPath (p : Path) (i : Instr) : Bool :=
  match p with
  | .v => match memOp i with
    | none => false
    | some m => !m.pft
  | .c => match i with
    | .cpy .. | .tload .. | .tstor .. => true
    | _ => false
  | .g => match i with
    | .gzreq .. => true
    | _ => false
  | .m | .n => false

/-- XFENCE (R182, R412). -/
def execXfence (h : Head) (p _q : Path) (_sc : Scope) (s : State) : Out :=
  .next (s.xword h needX (fun s =>
    let m := s.agent.slotsOf (fun f => !f.finished && onPath p f.instr)
    if m = 0 then .ok s s.npc
    else match s.mirrorFlt (inMask m) with
      | some f => .bad f
      | none => s.holdFor h.nas (.slots m)))

/-! ## Mailboxes (R178, R233) -/

/-- MBXW: a release fence of the die, then the write (R178, R233, R355). -/
def execMbxw (h : Head) (a b : Opnd) (s : State) : Out :=
  .next (s.xword h { needX false [plain a, pairSrc b] with badE := notK b } (fun s =>
    let ag := s.agent
    let n := (s.uval .int a).toNat
    if 7 < n then .bad (ag.flt 0x0E)
    else if s.isDet ag && !s.detNow ag then s.holdFor h.nas .det
    else match s.fenceHold .rel .die with
      | some w => s.holdFor h.nas w
      | none =>
        let c := s.ctx ag.ctx
        .ok (s.setCtx ag.ctx { c with mailboxes := aset c.mailboxes n (BitVec.ofNat 64 (ag.pairOf b)) }) s.npc))

/-- A detached word put in flight, with the word of its operand A (R249). -/
def State.pushDetached (s : State) (h : LHead) (i : Instr) (dests : List Reg) (a : Word) (aux : Nat) : State :=
  s.push { s.inflight0 h.slot.val h.la.val i with dests := dests, detached := true, av := [a], aux := aux }

/-- A long-latency class-X word. -/
def State.lxword (s : State) (h : LHead) (need : Need) (body : State → Res) : State :=
  s.issueLong h.nas h.slot.val need (s.agent.guardU h.g) body

/-- MBXR goes in flight (R178, R233, R354); `aux` is the clock at issue (R194). -/
def execMbxr (h : LHead) (d a : Opnd) (s : State) : Out :=
  .next (s.lxword h { pairDst (needX true [plain a]) d with badE := false } (fun s =>
    let w := s.uval .int a
    if 7 < w.toNat then .bad (s.agent.flt 0x0E)
    else .ok (s.pushDetached h (.mbxr h d a) (regRun d 2) w s.agent.lclk) s.npc))

/-- The read of an MBXR is performed (R233). -/
def State.performMbxr (s : State) (id slot : Nat) (f : Inflight) : State :=
  match s.agentOf id with
  | none => s
  | some ag =>
    if !(s.die ag.die).runs || !s.headV ag slot || (s.isDet ag && !(s.detReady ag f.aux && s.turnFirst ag f)) then s
    else
      let w := aget (s.ctx ag.ctx).mailboxes 0 (f.av.getD 0 0).toNat
      s.doneK id slot [BitVec.ofNat 32 w.toNat, BitVec.ofNat 32 (w.toNat / 2 ^ 32)]

/-! ## Mirrored writes (R136, R234) -/

/-- MIRROR_ACKNOWLEDGEMENT: the buddy acknowledges a mirrored write, or fails to. A failed write of a program's copy ends the
program with cause 0x0F at that copy's word (R218, R234). -/
def execMirrorAcknowledgement (write : Nat) (ok : Bool) (s : State) : Out :=
  .next (match s.mirrors.find? (fun m => m.id == write) with
    | none => s
    | some m =>
      if ok then { s with mirrors := s.mirrors.filter (fun x => !(x.id == write)) }
      else match s.agentOf m.ag with
        | none => { s with mirrors := s.mirrors.filter (fun x => !(x.id == write)) }
        | some a =>
          if a.kind == .seq then
            let s := { s with mirrors := s.mirrors.filter (fun x => !(x.id == write)) }
            match a.inflight.find? (fun f => !f.finished && m.copy.isSome && m.copy == f.copyId) with
            | none => s
            | some f => s.upd m.ag (fun a => a.programFault f 0x0F m.va)
          else { s with mirrors := s.mirrors.map (fun x => if x.id = write then { x with failed := true } else x) })

end Sys2Proof.Machine
end

