-- ==== Sys2Proof/Machine/Task.lean ====
section
/-! DEFINITION. Task records and the ready queues (R199-R204, R273), join counters and the release of successors (R201, R207),
completion words (R200), and what a launch's warps have written (R180, R212). -/

namespace Sys2Proof.Machine

/-! ## Virtual devices (R271) -/

/-- The context that a VF has on a die. -/
def State.ctxOn (s : State) (vf d : Nat) : Option Nat :=
  (s.ctxs.find? (fun e => e.2.die == d && e.2.desc.vf == vf && !(e.2.residency == .absent))).map (·.1)

/-- The dies of a virtual device, in ascending order. -/
def State.vfDies (s : State) (vf : Nat) : List Nat := (List.range Config.dies).filter (fun d => (s.ctxOn vf d).isSome)

/-- The die and context that keep a virtual device's queues (R201). -/
def State.vfHome (s : State) (vf : Nat) : Option (Nat × Nat) :=
  match s.vfDies vf with
  | [] => none
  | d :: _ => (s.ctxOn vf d).map (fun c => (d, c))

/-- A scheduler event counted for a virtual device (R201, R276). -/
def State.countDrop (s : State) (vf : Nat) : State :=
  match s.vfHome vf with
  | none => s
  | some (_, c) => s.count c 15 1

/-! ## Fields of a record (R199) -/

/-- `size` bytes at `off` of a record or table entry, read as one number. -/
def rfield (n off size : Nat) : Nat := fld n (8 * off) (8 * size)

/-- A copy node (R199 KIND). -/
def recIsCopy (n : Nat) : Bool := bit n (8 * 0x16 + 2)

/-- Group count. -/
def recGroups (n : Nat) : Nat := fld n (8 * 0x18) 9

/-- PRIO. -/
def recPrio (n : Nat) : Nat := fld n (8 * 0x0F) 3

/-- Number of warps. -/
def recWarps (n : Nat) : Nat := rfield n 0x10 2 * rfield n 0x12 2 * rfield n 0x14 2

/-- The conditions of R200 on the record alone, and that a copy node, which has no group, does not set PAIR (R204). -/
def recBad (n : Nat) : Bool :=
  let gtab := rfield n 0x28 8
  let succ := rfield n 0x30 8
  !(fld n (8 * 0x0F + 4) 4 == 0) || decide (9 < fld n (8 * 0x16 + 4) 4) || !(fld n (8 * 0x18 + 14) 2 == 0) ||
    decide (256 < recGroups n) || decide (20 < fld n (8 * 0x18 + 9) 5) || decide (256 < rfield n 0x20 2) ||
    decide (512 < rfield n 0x22 2) || decide (256 < rfield n 0x24 2) || decide (256 < rfield n 0x26 2) ||
    !(gtab % 8 == 0) || (gtab == 0) != (recGroups n == 0) || !(succ % 8 == 0) || (succ == 0 && !(rfield n 0x1A 1 == 0)) ||
    (if recIsCopy n then
      bit n (8 * 0x16 + 3) || !(rfield n 0x00 6 == 0) || !(rfield n 0x10 6 == 0) || !(rfield n 0x17 1 == 0) || !(fld n (8 * 0x18) 14 == 0) ||
        !(rfield n 0x1B 5 == 0) || !(rfield n 0x20 8 == 0) || !(gtab == 0)
    else
      rfield n 0x17 1 == 0 || decide (32 < rfield n 0x17 1) || !(rfield n 0x00 6 % 8 == 0) || !(rfield n 0x08 7 % 8 == 0))

/-- A group-table entry read and checked against R203 and R204; none where it is refused. -/
def State.readGroup (s : State) (c die a total : Nat) : Option Group :=
  match s.readNum c die a 48 with
  | .error _ => none
  | .ok n =>
    let gang := bit n 4
    let clasp := rfield n 8 8
    let g : Group := { fd := bit n 0, pair := bit n 1, cor := bit n 2, drain := bit n 3, gang := gang, clasp := clasp, members := [] }
    if !(fld n 5 3 == 0) || !(fld n 11 5 == 0) || !(fld n 16 48 == 0) || !(clasp % 8 == 0) || (!(clasp == 0) && !gang) then none
    else if !bit n 8 then
      let nr := fld n 9 2 + 1
      let pair (i : Nat) : Nat × Nat := (rfield n (16 + 8 * i) 4, rfield n (20 + 8 * i) 4)
      if (List.range 4).any (fun i =>
          if i < nr then decide ((pair i).2 < (pair i).1) || decide (total ≤ (pair i).2)
          else !((pair i).1 == 0) || !((pair i).2 == 0)) then none
      else some { g with members := ((List.range nr).flatMap (fun i => span (pair i).1 ((pair i).2 + 1))).eraseDups }
    else
      let first := rfield n 0x18 4
      let nb := rfield n 0x1C 4
      if total < first + nb then none
      else match s.readNum c die (rfield n 0x10 8) ((nb + 7) / 8) with
        | .error _ => none
        | .ok m => some { g with members := ((List.range nb).filter (fun i => bit m i)).map (first + ·) }

/-- The group table of a record; none where it cannot be read or breaks R203. -/
def State.readGroups (s : State) (c die n : Nat) : Option (List Group) :=
  (List.range (recGroups n)).mapM (fun i => s.readGroup c die (rfield n 0x28 8 + 48 * i) (recWarps n))

/-- The scratch allocations that some warps take: one per warp, or per COR group (R123). -/
def allocCount (gs : List Group) (ws : List Nat) : Nat :=
  let cor (w : Nat) : Option Nat := gs.findIdx? (fun g => g.cor && g.members.contains w)
  (ws.filter (fun w => (cor w).isNone)).length + (ws.filterMap cor).eraseDups.length

/-- The conditions of R204 and R238 on a whole group table. -/
def groupsBad (gs : List Group) (pair : Bool) (vn scr : Nat) : Bool :=
  let all := (gs.flatMap (·.members)).eraseDups
  let fits (g : Group) : Bool :=
    decide (g.members.length ≤ min 128 (4096 / vn)) && decide (allocCount gs g.members * scr ≤ 256)
  all.any (fun w => decide (4 < (gs.filter (·.members.contains w)).length) ||
      decide (1 < (gs.filter (fun g => g.pair && g.members.contains w)).length)) ||
    gs.any (fun g => (g.pair && !(g.members.length == 2)) || ((g.pair || g.cor) && !fits g)) || pair != gs.any (·.pair)

/-- The addresses of the successors' records; none where the list cannot be read. -/
def State.readSuccs (s : State) (c die succ cnt : Nat) : Option (List Nat) :=
  (List.range cnt).mapM (fun i => match s.readNum c die (succ + 8 * i) 8 with
    | .error _ => none
    | .ok a => some a)

/-- The rows of a record and of all that it names opened, before the dispatcher reads them (R155): its list of successors, its group table and
the bitmaps of that. -/
def State.openRecord (s : State) (c die record : Nat) : State :=
  let s := s.touch c die record 64
  match s.readNum c die record 64 with
  | .error e => s.denies c e
  | .ok n =>
    let s := s.touch c die (rfield n 0x30 8) (8 * rfield n 0x1A 1)
    if recIsCopy n || decide (256 < recGroups n) then s
    else
      let s := s.touch c die (rfield n 0x28 8) (48 * recGroups n)
      (List.range (recGroups n)).foldl (fun s i => match s.readNum c die (rfield n 0x28 8 + 48 * i) 48 with
        | .error e => s.denies c e
        | .ok g =>
          if bit g 8 && decide (rfield g 0x18 4 + rfield g 0x1C 4 ≤ recWarps n) then
            s.touch c die (rfield g 0x10 8) ((rfield g 0x1C 4 + 7) / 8)
          else s) s

/-- The launch of a record. -/
def launchOfRec (n record ctx vf prio time : Nat) (gs : List Group) : Launch :=
  { record := record, ctx := ctx, vf := vf, code := rfield n 0x00 6, args := rfield n 0x08 7, prio := recPrio n,
    queuePrio := prio, spread := bit n (8 * 0x0F + 3), nx := rfield n 0x10 2, ny := rfield n 0x12 2, nz := rfield n 0x14 2,
    det := bit n (8 * 0x16), pre := bit n (8 * 0x16 + 1), pair := bit n (8 * 0x16 + 3), qn := fld n (8 * 0x16 + 4) 4,
    vn := 8 * rfield n 0x17 1, pw := fld n (8 * 0x18 + 9) 5, priv := rfield n 0x1B 5, scr := 1024 * rfield n 0x20 2,
    wneed := 1024 * rfield n 0x22 2, xneed := 1024 * rfield n 0x24 2, cneed := 1024 * rfield n 0x26 2,
    scnt := rfield n 0x1A 1, succ := rfield n 0x30 8, cword := rfield n 0x38 8, groups := gs, admitted := [], exited := [],
    triggered := [], released := false, ended := false, commits := 0, wdStart := 0, wdFired := false, dispatched := time }

/-! ## Completion words (R200) -/

/-- A completion word. -/
def completionWord (st time : Nat) : Nat := 2 ^ 63 + st * 2 ^ 60 + time % 2 ^ 48

/-- A completion word written, if its address can still be written. -/
def State.putCompletion (s : State) (c die a st : Nat) : State :=
  match s.writeRun c die 0 a (leBytes 8 (completionWord st s.time)) with
  | .error e => s.denies c e
  | .ok s => s

/-- A completion word cannot be used (R200). -/
def State.cwordBad (s : State) (c die a : Nat) : Bool :=
  !(a % 8 == 0) || (match s.translate c die a .write with
    | .error _ => true
    | .ok _ => false)

/-! ## The ready queues (R201, R273) -/

/-- The records that stood in the queues of a context when it was saved, and that its image holds (R280). -/
def State.savedQueue (s : State) : List QRec := (s.images.filter s.holdsImage).flatMap (·.queue)

/-- A record was submitted and its completion word is not yet written. -/
def State.submitted (s : State) (vf addr : Nat) : Bool :=
  (s.queue ++ s.savedQueue).any (fun q => q.vf == vf && q.record == addr) || s.launches.any (fun e => e.2.vf == vf && e.2.record == addr) ||
    (s.copies ++ (s.images.filter s.holdsImage).flatMap (·.copies)).any (fun x =>
      x.kind == .node && x.ag == addr && (s.ctx x.ctx).desc.vf == vf)

/-- A submitted record whose join counter has come to 0 becomes ready, at the tail of its queue (R201), which a saved image may hold. -/
def State.makeReady (s : State) (vf addr : Nat) : State :=
  let move (l : List QRec) : List QRec :=
    match l.find? (fun q => q.vf == vf && q.record == addr && q.poster.isNone && !q.ready) with
    | none => l
    | some q => l.filter (fun x => !(x.vf == vf && x.record == addr)) ++ [{ q with ready := true, since := s.time }]
  { s with queue := move s.queue, images := s.images.map (fun i => { i with queue := move i.queue }) }

/-- A record that stands in the queues read by the scheduler: it becomes ready, waits for its join counter, or is dropped. -/
def State.readRecord (s : State) (q : QRec) : State :=
  let rest := s.queue.filter (fun x => !(x.vf == q.vf && x.record == q.record))
  match s.vfHome q.vf with
  | none => { s with queue := rest }
  | some (d, c) =>
    let s := s.touch c d q.record 64
    match s.readNum c d q.record 64 with
    | .error e => (({ s with queue := rest }).denies c e).countDrop q.vf
    | .ok n =>
      { s with queue := rest ++ [{ q with poster := none, ready := rfield n 6 2 == 0, prio := recPrio n, since := s.time }] }

/-- A record enters the queues (R201, R212, R273): `poster` as in `QRec`. -/
def State.post (s : State) (vf addr : Nat) (poster : Option (Nat × IssueAt)) : State :=
  match s.vfHome vf with
  | none => s
  | some _ =>
    if !(addr % 64 == 0) || s.submitted vf addr then s.countDrop vf
    else
      let q : QRec := { record := addr, vf := vf, poster := poster, ready := false, prio := 0, since := s.time }
      let s := { s with queue := s.queue ++ [q] }
      match poster with
      | none => s.readRecord q
      | some _ => s

/-- A join counter decremented by a release (R201): at 0 a record that has been submitted becomes ready. -/
def State.unjoin (s : State) (c die vf addr : Nat) : State :=
  let s := s.touch c die (addr + 6) 2
  match s.readNum c die (addr + 6) 2 with
  | .error e => (s.denies c e).countDrop vf
  | .ok j =>
    if (s.runWritable c die (addr + 6) 2 true).isSome then (s.denies c ((s.runWritable c die (addr + 6) 2 true).getD 0)).countDrop vf
    else if j = 0 then s.countDrop vf
    else match s.writeRun c die 0 (addr + 6) (leBytes 2 (j - 1)) with
      | .error _ => s.countDrop vf
      | .ok s =>
        if j = 1 then s.makeReady vf addr else s

/-- Successors released in list order (R206). An entry that can no longer be read is skipped and counted. -/
def State.releaseSuccs (s : State) (c die vf succ cnt : Nat) : State :=
  (List.range cnt).foldl (fun s i =>
    let s := s.touch c die (succ + 8 * i) 8
    match s.readNum c die (succ + 8 * i) 8 with
    | .error e => (s.denies c e).countDrop vf
    | .ok a => s.unjoin c die vf a) s

/-- A launch or copy node ends (R206): its completion word, then its successors where it retired; buffers, scratch and the records
of its agents go. -/
def State.retireLaunch (s : State) (l st : Nat) : State :=
  match s.launchOf l with
  | none => s
  | some x =>
    let (d, c) := ((s.ctx x.ctx).die, x.ctx)
    let s := s.putCompletion c d x.cword st
    let s := if st = 0 && !x.released then s.releaseSuccs c d x.vf x.succ x.scnt else s
    let mine (a : Agent) : Bool := a.launch == l && !(a.status == .vacant)
    let scr := (s.agents.filter mine).map (·.scratch)
    { s with agent := if mine s.agent then Agent.vacant else s.agent
             others := s.others.filter (fun a => !mine a)
             launches := adel s.launches l
             bufs := s.bufs.filter (fun b => !(b.launch == l))
             scratches := s.scratches.filter (fun e => !scr.contains e.1)
             rounds := s.rounds.filter (fun r => !(r.launch == l)) }

/-! ## Writes of an agent -/

/-- A word whose effect is a write on path V or G. -/
def writesVG (i : Instr) : Bool :=
  match i with
  | .gzreq .. => true
  | i => match memOp i with
    | none => false
    | some m => m.store || m.atom.isSome

/-- The words of an agent issued before serial number `no` that `p` picks are complete. An agent whose trap withdrew words waits
for their replay. -/
def Agent.doneBefore (a : Agent) (no : Nat) (p : Instr → Bool) : Bool :=
  a.status == .retired || (!a.caught && a.inflight.all (fun f => f.finished || decide (no ≤ f.no) || !p f.instr))

/-- The V- and G-path writes that an agent issued before a place are visible at `.sys`: complete, committed in
determinate mode, and acknowledged by the buddy. Those that a saved image holds captured are not; log 40. -/
def State.wroteBefore (s : State) (id : Nat) (at_ : IssueAt) : Bool :=
  match s.agentOf id with
  | none => !s.images.any (fun im => im.agents.any (fun a => a.id == id))
  | some a => a.doneBefore at_.no writesVG && a.detBuf.all (fun e => decide (at_.clock ≤ e.clock)) &&
      !s.mirrors.any (fun m => m.ag == id && m.copy.isNone && !m.failed)

/-- An arrival that has disarmed its slot takes effect (R209): the payload address goes to frame offset 0 of the record's ARGS, and the
record's join counter is decremented. -/
def State.land (s : State) (c : Nat) (r : Arrival) (payload : Nat) : State :=
  let x := s.ctx c
  let s := s.touch c x.die (r.record + 8) 7
  match s.readNum c x.die (r.record + 8) 7 with
  | .error e => (s.denies c e).count c 15 1
  | .ok args => match s.writeRun c x.die 0 args (leBytes 8 payload) with
    | .error e => (s.denies c e).unjoin c x.die x.desc.vf r.record
    | .ok s => s.unjoin c x.die x.desc.vf r.record

/-- The arrivals of a context that wait for the writes that the arming warp had made before its LARM, and need to no more (R346). -/
def State.landCtx (s : State) (c : Nat) : State :=
  let (now, wait) := (s.ctx c).landed.partition (fun e => s.wroteBefore e.1.by_.1 e.1.by_.2)
  if now.isEmpty then s else now.foldl (fun s e => s.land c e.1 e.2) (s.setCtx c { s.ctx c with landed := wait })

/-- The records whose posting warps' writes are visible, read (R212), and the arrivals whose arming warps' writes are (R346); log 40. -/
def State.absorb (s : State) : State :=
  let s := s.ctxs.foldl (fun s e => s.landCtx e.1) s
  (s.queue.filter (fun q => match q.poster with
    | none => false
    | some (id, at_) => s.wroteBefore id at_)).foldl (fun s q => s.readRecord q) s

end Sys2Proof.Machine
end

