-- ==== Sys2Proof/Machine/CopyEng.lean ====
section
/-! DEFINITION. Tensor identifiers (R128-R131, R388, R389), operand words and the layout of chunks (R220, R221, R227), and the copy
engine: CPY (R286, R309, R310), TLOAD (R392-R394), TSTOR (R246, R400, R401), copy nodes (R202). -/

namespace Sys2Proof.Machine

/-! ## Tensor identifiers (R128) -/

/-- The 64 bytes of an entry as one number. -/
def entryNat (e : List Word) : Nat := e.foldr (fun w a => w.toNat + 2 ^ 32 * a) 0

/-- FMT. -/
def tFmt (e : List Word) : Nat := rfield (entryNat e) 0 1
/-- Quantisation TYPE. -/
def tType (e : List Word) : Nat := fld (entryNat e) 8 2
/-- Sparsity: 0 dense, 1 2:4, 2 1:4. -/
def tSparse (e : List Word) : Nat := fld (entryNat e) 10 2
/-- Swizzle. -/
def tSwz (e : List Word) : Nat := fld (entryNat e) 16 2
/-- Rows. -/
def tRows (e : List Word) : Nat := rfield (entryNat e) 0x04 4
/-- Columns. -/
def tCols (e : List Word) : Nat := rfield (entryNat e) 0x08 4
/-- K bound. -/
def tKb (e : List Word) : Nat := rfield (entryNat e) 0x0C 4
/-- Row stride. -/
def tStride (e : List Word) : Nat := rfield (entryNat e) 0x10 8
/-- Base address. -/
def tBase (e : List Word) : Nat := rfield (entryNat e) 0x18 8
/-- Scale-array base. -/
def tScale (e : List Word) : Nat := rfield (entryNat e) 0x20 8
/-- Rotation seed. -/
def tSeed (e : List Word) : Nat := rfield (entryNat e) 0x28 8
/-- Sparsity seed. -/
def tSpSeed (e : List Word) : Nat := rfield (entryNat e) 0x30 8
/-- Scale-array row stride. -/
def tScStride (e : List Word) : Nat := rfield (entryNat e) 0x38 4

/-- An entry that TIDSET refuses (R129). -/
def tidBad (e : List Word) : Bool :=
  let n := entryNat e
  tFmt e == 0 || decide (7 < tFmt e) || tSparse e == 3 || !(fld n 12 4 == 0) || !(fld n 18 14 == 0) || decide (tCols e < tKb e) ||
    (tFmt e == 7 && (!(tCols e % 32 == 0) || tScale e == 0)) || (!(tSparse e == 0) && !(tFmt e == 7 || tFmt e == 2)) ||
    (!(tScale e == 0) && !(tFmt e == 7)) || (!(tSpSeed e == 0) && tSparse e == 0) || !(fld n (8 * 0x3C + 2) 14 == 0)

/-- An entry of a context; one never written is zero. What TIDSET writes is seen by every warp and engine at once (DESIGN CHOICE); log 7. -/
def State.tid (s : State) (c i : Nat) : List Word := aget (s.ctx c).tids (List.replicate 16 0) i

/-- An entry replaced. -/
def State.setTid (s : State) (c i : Nat) (e : List Word) : State :=
  let x := s.ctx c
  s.setCtx c { x with tids := aset x.tids i e }

/-- The residency fields of an entry written (R128): a buffer code and an offset in KiB. -/
def State.setResidency (s : State) (c i code off : Nat) : State :=
  s.setTid c i ((s.tid c i).set 15 (BitVec.ofNat 32 (code + off * 2 ^ 16)))

/-- TIDSET (R129, R389). -/
def execTidset (h : Head) (a b : Opnd) (s : State) : Out :=
  .next (s.xword h { needX false [plain a, { o := b, n := 16, al := 16 }] with badE := notK b } (fun s =>
    let ag := s.agent
    let i := (s.uval .int a).toNat
    let k := match b with
      | .k n => n.val
      | _ => 0
    let e := (List.range 16).map (fun j => ag.kreg (k + j))
    if 255 < i || tidBad e then .bad (ag.flt 0x0E) else .ok (s.setTid ag.ctx i e) s.npc))

/-- TIDGET (R130, R388). -/
def execTidget (h : Head) (d a b : Opnd) (s : State) : Out :=
  .next (s.xword h { needX false [plain a, plain b] with dst := some d } (fun s =>
    let ag := s.agent
    let i := (s.uval .int a).toNat
    let w := (s.uval .int b).toNat
    if 255 < i || 15 < w then .bad (ag.flt 0x0E)
    else .ok (s.me (fun ag => effU d { r := (s.tid ag.ctx i).getD w 0 } ag)) s.npc))

/-! ## Operand words and chunks (R220, R221) -/

/-- TIDX of an operand word. -/
def owTid (w : Word) : Nat := fld w.toNat 24 8
/-- KO of an operand word. -/
def owKo (w : Word) : Nat := fld w.toNat 16 8
/-- OFF of an operand word, in KiB. -/
def owOff (w : Word) : Nat := fld w.toNat 0 10
/-- Reserved bits of an operand word are set. -/
def owBad (w : Word) : Bool := !(fld w.toNat 10 6 == 0)

/-- K-step width of a format. -/
def fmtKs (f : Nat) : Nat := if f = 2 || f = 3 then 128 else if f = 7 then 512 else 256
/-- Bits per element. -/
def fmtBits (f : Nat) : Nat := if f = 2 || f = 3 then 16 else if f = 7 then 4 else 8
/-- A format that a chunk can hold. -/
def fmtOk (f : Nat) : Bool := decide (2 ≤ f) && decide (f ≤ 7)
/-- 1 / ρ: 1 dense, 2 for 2:4, 4 for 1:4. -/
def tDiv (e : List Word) : Nat := 2 ^ tSparse e
/-- Size of a chunk in KiB. -/
def chunkKib (e : List Word) : Nat := 32 / tDiv e + (if tFmt e = 7 then 1 else 0)
/-- Columns of a stored row. -/
def storedCols (e : List Word) (t : Bool) : Nat := if t then 128 else fmtKs (tFmt e) / tDiv e
/-- Stored rows of a chunk. -/
def storedRows (e : List Word) (t : Bool) : Nat := if t then fmtKs (tFmt e) else 128
/-- Bytes of a stored row. -/
def rowBytes (e : List Word) (t : Bool) : Nat := storedCols e t * fmtBits (tFmt e) / 8
/-- A stored row is too short for the swizzle. -/
def swzShort (e : List Word) (t : Bool) : Bool := !(tSwz e == 0) && decide (rowBytes e t < 2 ^ (tSwz e + 5))
/-- The place of byte offset `a` of row `r` under a swizzle code; its own inverse (R128). -/
def swizzle (z r a : Nat) : Nat := if z = 0 then a else a ^^^ (r % 2 ^ (z + 1) * 16)

/-- The conditions of R222 (2) and R394 on an entry and a layout. -/
def shapeBad (e : List Word) (t : Bool) : Bool :=
  !fmtOk (tFmt e) || (t && (!(tSeed e == 0) || !(tSparse e == 0))) || swzShort e t

/-- The tag that an entry gives a granule (R127): TID index, swizzle, rotation seed. -/
def granuleTag (tid : Nat) (e : List Word) : List DWord :=
  [BitVec.ofNat 64 tid, BitVec.ofNat 64 (tSwz e), BitVec.ofNat 64 (tSeed e)]

/-- The buffer that BUF names. -/
def bufOf (x : Bool) : BufName := if x then .x else .w

/-! ## The parts of a copy (R183, R286, R310, R393, R246) -/

/-- What an access of a copy does: a value, a fault at an address, or a wait. -/
inductive Moved (α : Type) where
  | ok (s : State) (x : α)
  | fault (cause addr : Nat)
  | wait (s : State)
  deriving DecidableEq, Repr

/-- A copy's access to `n` bytes, `back` the address that a fault reports. It waits while too many pages fault (R138), and for the demand
activation of its row (R157). -/
def State.copyReach (s : State) (x : Copy) (va n back : Nat) (a : Acc) : Moved Xl :=
  match s.translate x.ctx x.die va a with
  | .error e => if e = 0x07 && s.pageWait x.die x.ctx va then .wait s else .fault e back
  | .ok l =>
    if s.demandWait l then .wait (s.join l) else .ok (((s.cache x.ctx va l.leaf).countHops x.ctx x.die l n).demand l) l

/-- Poison of 32-byte units set or cleared from a run of bytes at `a`, a whole unit by `l`, else only set. -/
def runPoison (old : List Nat) (a n : Nat) (l : List Bool) : List Nat :=
  l.zipIdx.foldl (fun p e =>
    let u := a / 32 + e.2
    if e.1 then setIn p u true else if a ≤ 32 * u && 32 * u + 32 ≤ a + n then setIn p u false else p) old

/-- Bytes written by the copy engine, with the poison of each codeword that they touch. -/
def State.copyWrite (s : State) (x : Copy) (va back : Nat) (bs : List Byte) (pois : List Bool) : Moved Unit :=
  match s.copyReach x va bs.length back .write with
  | .fault e a => .fault e a
  | .wait s => .wait s
  | .ok s l =>
    let s := (s.count x.ctx 6 bs.length).writeAt l x.ctx x.ag va (some x.id) bs false
    .ok (match l.place with
      | .remote => s
      | _ => { s with memPoison := runPoison s.memPoison l.pa bs.length pois }) ()

/-- `n` bytes of a copy's source from byte `o` on, with the poison of each codeword. -/
def State.srcRead (s : State) (x : Copy) (o n : Nat) : Moved (List Byte × List Bool) :=
  let a := x.src + o
  let units := span (a / 32) ((a + n + 31) / 32)
  match x.srcSp with
  | .g => match s.copyReach x a n (x.src + o / 64 * 64) .read with
    | .fault e b => .fault e b
    | .wait s => .wait s
    | .ok s l =>
      .ok (s.count x.ctx 5 n) (s.bytesAt l n, units.map (fun u => s.poisonedAt { l with pa := l.pa + (max a (32 * u) - a) } 1))
  | _ =>
    let sc := s.scratch x.scratch
    .ok (s.count x.ctx 5 n) (Memory.read sc.bytes a n, units.map sc.poison.contains)

/-- Bytes written to a copy's destination from byte `o` on (R310). -/
def State.dstWrite (s : State) (x : Copy) (o : Nat) (bs : List Byte) (pois : List Bool) : Moved Unit :=
  let a := x.dst + o
  match x.dstSp with
  | .g => s.copyWrite x a (x.dst + o / 64 * 64) bs pois
  | .s =>
    let sc := s.scratch x.scratch
    .ok ((s.count x.ctx 6 bs.length).setScratch x.scratch
      { sc with bytes := Memory.write sc.bytes a bs, poison := runPoison sc.poison a bs.length pois }) ()
  | sp =>
    let n := bufOf (sp == .x)
    let was := s.bufsOf x.launch x.die x.core
    let b := was.store n a bs false
    .ok ((s.count x.ctx 6 bs.length).setBufs (b.put n (b.mem n) (runPoison (was.pois n) a bs.length pois))) ()

/-- Where byte `q` of the code area or scale granule of chunk `j` of a TLOAD comes from (R393): whole bytes of memory, or the two halves
of bytes, none for an element that is not present. -/
def Copy.chunkSrc (x : Copy) (j q : Nat) : List (Option (Nat × Nat)) :=
  let e := x.entry
  let t := x.transposed
  let ks := fmtKs (tFmt e)
  let div := tDiv e
  let k := owKo x.opword + j
  let rb := rowBytes e t
  let area := storedRows e t * rb
  /- tensor row and stored column of the element at stored row `r`, column `c` -/
  let place (r c : Nat) : Nat × Nat := if t then (x.row0 + c, k * ks + r) else (x.row0 + r, k * (ks / div) + c)
  let present (p : Nat × Nat) : Bool := decide (p.1 < tRows e) && decide (p.2 * div < tCols e)
  if q < area then
    let r := q / rb
    let a := swizzle (tSwz e) r (q % rb)
    if tFmt e = 7 then
      [2 * a, 2 * a + 1].map (fun c =>
        let p := place r c
        if present p then
          some ((tBase e + p.1 / 32 * tStride e + 512 * (p.2 / 32) + 16 * (p.1 % 32) + p.2 % 32 / 2) % 2 ^ 64, p.2 % 2)
        else none)
    else
      let n := fmtBits (tFmt e) / 8
      let p := place r (a / n)
      [if present p then some ((tBase e + p.1 * tStride e + p.2 * n + a % n) % 2 ^ 64, 2) else none]
  else
    let w := (if t then 128 else ks) / 32
    let b := (q - area) / 2
    let p := if t then (x.row0 / 32 + b % w, k * ks / 32 + b / w) else (x.row0 / 32 + b / w, k * ks / 32 + b % w)
    [if b < 64 && decide (32 * p.1 < tRows e) && decide (32 * p.2 < tCols e) then
      some ((tScale e + p.1 * tScStride e + 2 * p.2 + q % 2) % 2 ^ 64, 2)
    else none]

/-- One byte of memory as a TLOAD finds it, with its poison; 0 where it cannot be read. -/
def State.peek (s : State) (x : Copy) (va : Nat) : Nat × Bool :=
  match s.translate x.ctx x.die va .read with
  | .error _ => (0, false)
  | .ok l => (leNat (s.bytesAt l 1), s.poisonedAt l 1)

/-- A byte of a chunk put together from its sources. -/
def State.chunkByte (s : State) (x : Copy) (l : List (Option (Nat × Nat))) : Byte × Bool :=
  let one (o : Option (Nat × Nat)) : Nat × Bool := match o with
    | none => (0, false)
    | some (va, h) => let (b, p) := s.peek x va; (if h = 2 then b else b / 16 ^ h % 16, p)
  let v := l.map one
  (BitVec.ofNat 8 ((v.zipIdx.map (fun (e, i) => e.1 * 16 ^ i)).foldl (· + ·) 0), v.any (·.2))

/-- The blocks of 64 bytes that a read of a TLOAD touches, opened in turn. -/
def State.openBlocks (s : State) (x : Copy) : List Nat → Moved Unit
  | [] => .ok s ()
  | va :: l => match s.copyReach x va 4 va .read with
    | .fault e a => .fault e a
    | .wait s => .wait s
    | .ok s _ => s.openBlocks x l

/-- An FP32 element converted to the format of an entry (R401). -/
def storeConv (f n : Nat) : Nat × Nat :=
  if f = 1 then (4, n)
  else if f = 6 then (1, match Fmt.fp32.toInt .rne n with
    | none => 0
    | some v => wrapN 8 (clampInt (-128) 127 v))
  else
    let dst : Fmt := if f = 2 then .bf16 else if f = 3 then .fp16 else if f = 4 then .e4m3 else .e5m2
    (dst.width / 8, match Fmt.fp32.val n with
      | .nan => Fmt.fp32.cutNan dst n
      | _ => Fmt.fp32.conv dst .rne false n)

/-- Address of element `i` of a TSTOR (R246): row by row. -/
def Copy.elementVa (x : Copy) (i : Nat) : Nat :=
  let cols := min (tCols x.entry) 128
  (tBase x.entry + i / cols * tStride x.entry + i % cols * (storeConv (tFmt x.entry) 0).1) % 2 ^ 64

/-- Element `i` of a TSTOR written (R246). A poisoned C unit writes a poisoned codeword, which is reported (R235). -/
def State.storeElement (s : State) (x : Copy) (i : Nat) : Moved Unit :=
  let cols := min (tCols x.entry) 128
  let b := s.bufsOf x.launch x.die x.core
  let at_ := 65536 * x.tile + 512 * (i / cols) + 4 * (i % cols)
  let (n, v) := storeConv (tFmt x.entry) (leNat (Memory.read b.c at_ 4))
  let va := x.elementVa i
  let bad := b.cpois.contains (at_ / 32)
  if va % n ≠ 0 then .fault 0x09 va
  else match s.copyWrite x va va (leBytes n v) [bad] with
    | .ok s () => .ok (if bad then s.upd x.ag (fun a => a.reportPoison fullMask va x.pc ((a.inSlot x.slot).any (·.hnd)) (((a.inSlot x.slot).map (·.no)).getD a.lastNo)) else s) ()
    | r => r

/-- The units of a copy: blocks, granules or elements. -/
def Copy.units (x : Copy) : Nat :=
  match x.kind with
  | .cpy | .node => x.blocks
  | .tload => x.chunks * chunkKib x.entry
  | .tstor => tRows x.entry * min (tCols x.entry) 128

/-- Elements of a TSTOR from its current one on that lie in one row and one block of 64 bytes. -/
def Copy.run (x : Copy) : Nat :=
  let cols := min (tCols x.entry) 128
  let n := (storeConv (tFmt x.entry) 0).1
  min (cols - x.done % cols) ((63 - x.elementVa x.done % 64) / n + 1)

/-- The parts of the current unit: elements of a block, words of a granule, elements of a run. A block of a SWEPT page is one part, and one
written to a page that may be executed moves by 8-byte words (R67); log 33. -/
def Copy.parts (x : Copy) : Nat :=
  match x.kind with
  | .cpy | .node => 64 / x.grain
  | .tload => 256
  | .tstor => x.run

/-- The bytes of a part of a copy's block: the whole of it where a page that it lies in is SWEPT, an 8-byte word where its destination may be
executed (R67), else an element (R183); log 33. -/
def State.copyGrain (s : State) (x : Copy) : Nat :=
  let at_ (sp : CpySpace) (a : Nat) (acc : Acc) (i : Nat) : Bool := sp == .g && (match s.translate x.ctx x.die (a + 64 * x.done) acc with
    | .ok l => bit l.leaf.desc i
    | .error _ => false)
  if at_ x.srcSp x.src .read 5 || at_ x.dstSp x.dst .write 5 then 64 else if at_ x.dstSp x.dst .write 4 then 8 else 4

/-- Part `p` of the current unit read. -/
def State.partRead (s : State) (x : Copy) (p : Nat) : Moved (List Byte × List Bool) :=
  match x.kind with
  | .tload =>
    let l := (List.range 4).map (fun i => x.chunkSrc (x.done / chunkKib x.entry) (x.done % chunkKib x.entry * 1024 + 4 * p + i))
    match s.openBlocks x ((l.flatten.filterMap (fun o => o.map (fun e => e.1 / 64 * 64))).eraseDups) with
    | .fault e a => .fault e a
    | .wait s => .wait s
    | .ok s () =>
      let bs := l.map (s.chunkByte x)
      .ok (s.count x.ctx 5 4) (bs.map (·.1), [bs.any (·.2)])
  | _ => s.srcRead x (64 * x.done + x.grain * p) x.grain

/-- The granule of a TLOAD whose parts are all read written whole, and tagged (R393); log 33. -/
def State.granule (s : State) (x : Copy) : State :=
  let got (i : Nat) : List Byte × List Bool := aget x.got ([], []) i
  let n := bufOf x.bufX
  let g := owOff x.opword + x.done
  let b := s.bufsOf x.launch x.die x.core
  let pois := (List.range 32).foldl (fun p u =>
    setIn p (32 * g + u) ((List.range 8).any (fun i => (got (8 * u + i)).2.contains true))) (b.pois n)
  let bs := (List.range 256).flatMap (fun i => (got i).1)
  (s.count x.ctx 6 1024).setBufs
    ((b.put n (Memory.write (b.mem n) (1024 * g) bs) pois).setTag n g (some (granuleTag (owTid x.opword) x.entry)))

/-- Part `p` of the current unit written. -/
def State.partWrite (s : State) (x : Copy) (p : Nat) : Moved Unit :=
  match x.kind with
  | .tload => .ok s ()
  | .tstor => s.storeElement x (x.done + p)
  | _ =>
    let (bs, pois) := aget x.got ([], []) p
    s.dstWrite x (64 * x.done + x.grain * p) bs pois

/-- The current unit is done. -/
def Copy.next (x : Copy) : Copy := { x with done := x.done + (if x.kind == .tstor then x.run else 1), got := [], put := [] }

/-- The poison of a block that is written: a clean half clears its unit. -/
def State.blockPoison (s : State) (x : Copy) : State :=
  let n := 32 / x.grain
  let half (h : Nat) : Bool := (List.range n).any (fun i => (aget x.got ([], []) (n * h + i)).2.contains true)
  let clean (l : List Nat) (a : Nat) : List Nat := (List.range 2).foldl (fun l h => if half h then l else setIn l (a / 32 + h) false) l
  let a := x.dst + 64 * x.done
  match x.kind, x.grain == 64, x.dstSp with
  | .tload, _, _ | .tstor, _, _ | _, true, _ => s
  | _, _, .g => (match s.translate x.ctx x.die a .write with
    | .ok l => (match l.place with
      | .remote => s
      | _ => { s with memPoison := clean s.memPoison l.pa })
    | .error _ => s)
  | _, _, .s => s.setScratch x.scratch { s.scratch x.scratch with poison := clean (s.scratch x.scratch).poison a }
  | _, _, sp =>
    let b := s.bufsOf x.launch x.die x.core
    let n := bufOf (sp == .x)
    s.setBufs (b.put n (b.mem n) (clean (b.pois n) a))

/-- One part of a copy moves, the `k`-th of a step: it is read, while its unit is not wholly read, else written (R286). Which of the
parts left it is, timing chooses (R183); log 33. -/
def State.copyPart (s : State) (x : Copy) (k : Nat) : Moved Copy :=
  let x := if x.got.isEmpty && x.put.isEmpty then { x with grain := s.copyGrain x } else x
  let pick (l : List Nat) : Nat := l.getD (Config.copyOrder s.fresh k % l.length) 0
  let unread := (List.range x.parts).filter (fun p => (aget? x.got p).isNone)
  if !(x.kind == .tstor) && !unread.isEmpty then
    let p := pick unread
    match s.partRead x p with
    | .fault e a => .fault e a
    | .wait s => .wait s
    | .ok s v =>
      let x := { x with got := aset x.got p v }
      if x.kind == .tload && unread.length == 1 then .ok (s.granule x) x.next else .ok s x
  else
    let unput := (List.range x.parts).filter (fun p => !x.put.contains p)
    let p := pick unput
    match s.partWrite x p with
    | .fault e a => .fault e a
    | .wait s => .wait s
    | .ok s () => if unput.length ≤ 1 then .ok (s.blockPoison x) x.next else .ok s { x with put := p :: x.put }

/-- Parts of a copy move in turn, at most as many as given: the state, the copy, and the fault that ends it; log 33. -/
def State.copyParts (s : State) (x : Copy) : Nat → State × Copy × Option (Nat × Nat)
  | 0 => (s, x, none)
  | k + 1 =>
    if x.units ≤ x.done then (s, x, none)
    else match s.copyPart x k with
      | .fault e a => (s, x, some (e, a))
      | .wait s => (s, x, none)
      | .ok s x => s.copyParts x k

/-- A copy may stop where it is (R283): between blocks or granules, and where a store's next address is a multiple of 64. -/
def Copy.rests (x : Copy) : Bool :=
  x.got.isEmpty && x.put.isEmpty && (!(x.kind == .tstor) || x.elementVa x.done % 64 == 0)

/-- A copy that is to stop goes on to where it may; none where a part of it has to wait. -/
def State.copyRest (s : State) (x : Copy) : Nat → Option (State × Copy × Option (Nat × Nat))
  | 0 => some (s, x, none)
  | k + 1 =>
    if x.rests || x.units ≤ x.done then some (s, x, none)
    else match s.copyPart x k with
      | .fault e a => some (s, x, some (e, a))
      | .wait _ => none
      | .ok s x => s.copyRest x k

/-! ## The end of a copy -/

/-- Bytes that a copy has moved (R279). -/
def Copy.moved (x : Copy) (n : Nat) : Nat :=
  match x.kind with
  | .cpy | .node => 64 * n
  | .tload => 1024 * n
  | .tstor => (storeConv (tFmt x.entry) 0).1 * n

/-- A fault of a detached word reaches its agent: recorded in a warp (R286), in the place of its word (R250); the end of a sequencer
program (R218). -/
def Agent.detachedFault (a : Agent) (slot pc cause addr : Nat) : Agent :=
  let hnd := (a.inSlot slot).any (·.hnd)
  let no := match a.inSlot slot with
    | some f => f.no
    | none => 0
  if a.kind == .seq then
    if a.status == .retired || a.status == .faulted then a
    else { a with status := .faulted, hold := .none
                  seqFault := some { cause := cause, mask := if decide (0x13 < cause && cause < 0x17) then 0 else fullMask, addr := addr, fpc := pc, rpc := none, hnd := false } }
  else
    a.record { cause := cause, mask := if cause = 0x0E then a.exm else fullMask, addr := addr, fpc := pc, rpc := none, no := no, hnd := hnd }

/-- A copy ends after `n` units, with a fault or without. -/
def State.endCopy (s : State) (x : Copy) (n : Nat) (fault : Option (Nat × Nat)) : State :=
  let s := match fault with
    | some (c, a) => s.faulting x.die x.ctx a c
    | none => s
  let s := { s with copies := s.copies.filter (fun y => !(y.id == x.id))
                    mirrors := s.mirrors.filter (fun m => !(m.copy == some x.id)) }
  let wid := match s.agentOf x.ag with
    | some a => a.wid.toNat
    | none => 0xFFFFFFFF
  let node := x.kind == .node
  let s := s.trace x.ctx { kind := 2, die := x.die, source := if node then 0 else x.core, code := if node then 0 else x.slot,
                           wid := if node then 0xFFFFFFFF else wid, arg := x.moved n, payload := Config.copyVa x.src x.dst }
  if node then s.retireLaunch x.launch (if fault.isSome then 4 else 0)
  else
    let s := match fault with
      | none => if x.kind == CopyKind.tload then s.setResidency x.ctx (owTid x.opword) (x.bufX.toNat + 1) (owOff x.opword) else s
      | some (c, a) => s.upd x.ag (fun ag => ag.detachedFault x.slot x.pc c a)
    let s := s.slotDone x.ag x.slot
    match s.agentOf x.ag with
    | none => s
    | some a => match a.report with
      | some r => if a.kind == Kind.seq then s.upd x.ag (fun a => a.detachedFault x.slot x.pc 0x17 r.addr) else s
      | none => s

/-- No earlier command of the same agent is unfinished: commands complete in issue order (R185). -/
def State.copyFirst (s : State) (x : Copy) : Bool :=
  x.kind == .node || (match s.copies.find? (fun y => y.ag == x.ag && !(y.kind == .node)) with
    | none => true
    | some y => y.id == x.id)

/-- A copy's mirrored writes that the buddy has not answered (R234). -/
def State.copyUnacked (s : State) (x : Copy) : Bool := s.mirrors.any (fun m => m.copy == some x.id && !m.failed)

/-- A copy's writes that the buddy failed to acknowledge; log 33. -/
def State.copyLost (s : State) (x : Copy) : Bool := s.mirrors.any (fun m => m.copy == some x.id && m.failed)

/-- The word that issued a copy still waits for it. -/
def State.copyAwaited (s : State) (x : Copy) : Bool :=
  match s.agentOf x.ag with
  | none => false
  | some a => a.inflight.any (fun f => !f.finished && f.slot == x.slot && f.aux == x.id)

/-- A copy after some of its parts have moved: it ends at a fault, or once its units are done and the buddy has acknowledged its mirrored
writes. A failure of those is reported at the first word that waits on the slot, which then completes (R234). -/
def State.settleCopy (s : State) (x : Copy) (f : Option (Nat × Nat)) : State :=
  let n := x.done
  let s := { s with copies := s.copies.map (fun y => if y.id = x.id then x else y) }
  if f.isSome || (decide (x.units ≤ x.done) && !s.copyUnacked x && (!s.copyLost x || x.kind == .node || !s.copyAwaited x)) then
    s.endCopy x n (match f with
      | some e => some e
      | none => if x.kind == .node && s.copyLost x then some (0x0F, x.dst) else none)
  else s

/-- A copy goes on by some of its parts, as many as timing has it; log 33. -/
def State.runCopy (s : State) (x : Copy) : State :=
  let (s, x, f) := s.copyParts x (min (Config.copyPace s.fresh + 1) (512 * x.units))
  s.settleCopy x f

/-- COPY_COMPLETE (R286): a copy of a die that runs moves on; it finishes its last block, or ends at a faulting block. -/
def execCopyComplete (copy : Nat) (s : State) : Out :=
  .next (match s.copies.find? (fun x => x.id == copy) with
    | none => s
    | some x => if s.copyFirst x && (s.die x.die).runs then s.runCopy x else s)

/-! ## CPY -/

/-- A copy command of the current agent. -/
def State.copy0 (s : State) (h : LHead) (kind : CopyKind) : Copy :=
  let ag := s.agent
  { id := s.handles + 1, kind := kind, ctx := ag.ctx, die := ag.die, core := ag.core, launch := ag.launch, ag := ag.id, slot := h.slot.val,
    pc := ag.pc, srcSp := .g, dstSp := .g, src := 0, dst := 0, blocks := 0, done := 0, descAddr := 0, scratch := ag.scratch,
    opword := 0, row0 := 0, transposed := false, chunks := 0, bufX := false, tile := 0, entry := [], grain := 4, got := [], put := [] }

/-- A copy command accepted: its word goes in flight, detached; log 32. -/
def State.startCopy (s : State) (h : LHead) (i : Instr) (x : Copy) (a : Word) : State :=
  let s := { s.fresh1 with copies := s.copies ++ [x] }
  s.pushDetached h i [] a x.id

/-- What a descriptor says to a copy, or its fault (R286, R310); log 31. -/
def State.copyDesc (s : State) (x : Copy) (n : Nat) : Except Nat Copy :=
  let src := rfield n 0 8
  let dst := rfield n 8 8
  let len := rfield n 16 8
  let b := s.bufsOf x.launch x.die x.core
  let high (sp : CpySpace) (a : Nat) : Bool := !(sp == .g) && decide (2 ^ 32 ≤ a)
  let beyond (sp : CpySpace) (a : Nat) : Option Nat := match sp with
    | .g => none
    | .s => if (s.scratch x.scratch).size < a + len then some 0x08 else none
    | .w => if b.wsize < a + len then some 0x13 else none
    | .x => if b.xsize < a + len then some 0x13 else none
  if !(rfield n 24 8 == 0) || !(src % 64 == 0) || !(dst % 64 == 0) || !(len % 64 == 0) || decide (2 ^ 40 ≤ len) || high x.srcSp src ||
      high x.dstSp dst then .error 0x0E
  else if x.srcSp == .w || x.srcSp == .x then .error 0x13
  else match beyond x.srcSp src with
    | some c => .error c
    | none => match beyond x.dstSp dst with
      | some c => .error c
      | none => .ok { x with src := src, dst := dst, blocks := len / 64 }

/-- Earlier stores of the agent in flight that touch some bytes of global memory. -/
def State.storesOver (s : State) (a n : Nat) : BitVec 8 :=
  s.agent.slotsOf (fun f => !f.finished && writesVG f.instr && s.agent.touches f (fun scr b m => !scr && overlaps a n b m))

/-- A word that has to wait where it is: its NAS is checked (R78), and it issues again. -/
def State.stayFor (s : State) (nas : Nas) (t : State) : Res :=
  match s.agent.nasBad nas s.npc with
  | some c => .bad (s.agent.flt c)
  | none => .hold t

/-- A read of an agent joins the order of demand activations (R157). -/
def State.joinVa (s : State) (ag : Agent) (va : Nat) : State :=
  match s.translate ag.ctx ag.die va .read with
  | .ok x => s.join x
  | .error _ => s

/-- CPY (R286, R309, R310): the descriptor is read at issue, after the agent's earlier stores to it; a fault of it is recorded, and
nothing is copied; log 31. -/
def execCpy (h : LHead) (a : Opnd) (src dst : CpySpace) (s : State) : Out :=
  .next (s.lxword h { needX false [pairSrc a] with badE := notK a } (fun s =>
    let ag := s.agent
    let d := ag.pairOf a
    let m := s.storesOver d 32
    if d % 32 ≠ 0 then badAt 0x09 d
    else if s.isDet ag && !s.detNow ag then s.holdFor h.nas .det
    else if m ≠ 0 then s.holdFor h.nas (.slots m)
    else
      let x : Copy := { s.copy0 h .cpy with srcSp := src, dstSp := dst, descAddr := d }
      let bad (s : State) (c : Nat) : Res :=
        let s := s.pushDetached h (.cpy h a src dst) [] 0 0
        .ok ((s.upd ag.id (fun a => a.detachedFault h.slot.val ag.pc c d)).slotDone ag.id h.slot.val) s.npc
      match s.get ag ag.lclk (.glob d false) 32 .read with
      | .wait => s.stayFor h.nas (s.joinVa ag d)
      | .fault c => if c = 0x07 && s.pageWait ag.die ag.ctx d then s.stayFor h.nas s else bad (s.faulting ag.die ag.ctx d c) c
      | .ok s (_, true) => bad s 0x17
      | .ok s (bs, false) => match s.copyDesc x (leNat bs) with
        | .error c => bad s c
        | .ok x => .ok (s.startCopy h (.cpy h a src dst) x 0) s.npc))

/-! ## TLOAD -/

/-- The core that a tensor word names: the warp's own, or one of the sequencer's cluster. -/
def Agent.targetCore (ag : Agent) (core : Nat) : Nat := if ag.kind == .seq then 4 * ag.cluster + core else ag.core

/-- A special register operand. -/
def isSp : Opnd → Bool
  | .sp _ => true
  | _ => false

/-- TLOAD (R392-R394); log 32. -/
def execTload (h : LHead) (a b : Opnd) (x t : Bool) (n : Fin 8) (core : Fin 4) (s : State) : Out :=
  .next (s.lxword h { needX true [plain a, plain b] with
      bad1 := s.agent.kind == .warp && !(core == 0)
      badE := isSp a } (fun s =>
    let ag := s.agent
    let w := s.uval .int a
    let row0 := (s.uval .int b).toNat
    let e := s.tid ag.ctx (owTid w)
    let bf := s.bufsOf ag.launch ag.die (ag.targetCore core.val)
    let size := chunkKib e * (n.val + 1)
    if owBad w || shapeBad e t || (tFmt e == 7 && !(row0 % 32 == 0)) ||
        decide ((tCols e + fmtKs (tFmt e) - 1) / fmtKs (tFmt e) < owKo w + n.val + 1) then .bad (ag.flt 0x0E)
    else if bf.size (bufOf x) < 1024 * (owOff w + size) then .bad (Flt.at 0x13 (1024 * owOff w))
    else if s.isDet ag && !s.detNow ag then s.holdFor h.nas .det
    else
      let c : Copy :=
        { s.copy0 h .tload with core := ag.targetCore core.val, opword := w, row0 := row0, transposed := t, chunks := n.val + 1,
                                bufX := x, entry := e, src := tBase e }
      .ok (s.startCopy h (.tload h a b x t n core) c w) s.npc))

/-! ## TSTOR -/

/-- TSTOR (R246, R400, R401); log 32. -/
def execTstor (h : LHead) (a : Opnd) (tile core : Fin 4) (s : State) : Out :=
  .next (s.lxword h { needX true [plain a] with bad1 := s.agent.kind == .warp && !(core == 0) } (fun s =>
    let ag := s.agent
    let i := (s.uval .int a).toNat
    let e := s.tid ag.ctx i
    let bf := s.bufsOf ag.launch ag.die (ag.targetCore core.val)
    if 255 < i || 128 < tRows e || tFmt e = 0 || 7 ≤ tFmt e || tSparse e ≠ 0 || tSeed e ≠ 0 then .bad (ag.flt 0x0E)
    else if bf.csize < 65536 * (tile.val + 1) then .bad (Flt.at 0x13 (65536 * tile.val))
    else if s.isDet ag && !s.detNow ag then s.holdFor h.nas .det
    else
      let c : Copy := { s.copy0 h .tstor with core := ag.targetCore core.val, tile := tile.val, entry := e, dst := tBase e }
      .ok (s.startCopy h (.tstor h a tile core) c (s.uval .int a)) s.npc))

end Sys2Proof.Machine
end

