-- ==== Sys2Proof/Machine/Ready.lean ====
section
/-! DEFINITION. Which agents may take a step, and which of them a core or sequencer chooses (R216, R413). -/

namespace Sys2Proof.Machine

/-- The unit an agent issues on: its core, or its cluster's sequencer. -/
def Agent.unit (a : Agent) : Nat := if a.kind == .seq then 1024 + a.die * 8 + a.cluster else a.die * 32 + a.core

/-- Every array of a core mask has room for an operation (R219). -/
def State.hasRoom (s : State) (die cluster : Nat) (m : BitVec 4) : Bool :=
  (List.range 4).all (fun i => !m.getLsbD i ||
    decide ((s.mops.filter (fun o => o.die == die && o.cluster == cluster && o.cm.getLsbD i)).length < 4))

/-- A hold that has not ended, or a row request that has not been accepted (R154). -/
def State.heldOff (s : State) (ag : Agent) : Bool :=
  s.reqs.any (fun r => r.ag == ag.id && !r.accepted) || match ag.hold with
  | .none => false
  | .slots m => (List.range 8).any (fun i => m.getLsbD i && ag.slotBusy i)
  | .mirror => s.mirrors.any (fun m => m.ag == ag.id && m.copy.isNone && !m.failed)
  | .det => !s.detNow ag
  | .room m => !s.hasRoom ag.die ag.cluster m
  | .park => s.mops.any (fun o => o.die == ag.die)
  | .sleep t => decide (s.time < t)
  | .acq .. | .clasp .. | .replay _ | .notice | .granted _ => true

/-- The (n+1)th word of a window waits (R69). -/
def Agent.windowShut (ag : Agent) : Bool := ag.inflight.any (fun f => !f.finished && !(f.la == 15) && f.left == 0)

/-- A trap is due and may be taken: while TRET waits for its replays, only a fault of theirs (R257). A warp with no thread left issues no
further word (R238), so it has no word boundary at which to take one; log 30. -/
def Agent.trapDue (ag : Agent) : Bool :=
  ag.status == .live && match ag.hold with
  | .replay _ => ag.faulted.isSome
  | _ => ag.due.isSome

/-- A copy in a slot that the agent's next word waits on has lost a mirrored write (R69, R234). -/
def State.mirrorDue (s : State) (ag : Agent) : Bool :=
  (s.mirrorFail ag (fun i => ag.shut i || (match ag.hold with
    | .slots m => m.getLsbD i
    | _ => false))).isSome

/-- A stop of the context has been accepted and has not ended (R283). -/
def State.halted (s : State) (c : Nat) : Bool :=
  s.pctls.any (fun p => p.kind == .stop && p.die == (s.ctx c).die && p.vf == (s.ctx c).desc.vf)

/-- A varying word under a decode table: of class V, or paired with a varying slot (R57, R73, R95). -/
def varyingWord (t : Table) (w : Nat) : Bool :=
  let varies (d : Opnd) : Bool := match d with
    | .v _ | .p _ => true
    | _ => false
  if bit w 59 then varies (opnd (fld w 41 10)) || varies (opnd (fld w 13 10))
  else match t.opcode (Fields.ofWord w).op with
    | none => false
    | some op => op / 256 == 0

/-- The current limiter withholds the issue of the agent's next word: a varying one (R21). -/
def State.limited (s : State) (w : Nat) : Bool :=
  decide (s.time < (s.die s.agent.die).withheldV) && varyingWord (s.ctx s.agent.ctx).table w

/-- A PARK waits on a die (R236). -/
def State.parking (s : State) (die : Nat) : Bool := s.agents.any (fun a => a.die == die && a.resident && a.hold == .park)

/-- The agent's core or sequencer runs, and its context is active (R16, R21-R23, R236, R285). -/
def State.powered (s : State) (ag : Agent) : Bool :=
  let d := s.die ag.die
  d.runs && decide (ag.core < d.cores) && !s.halted ag.ctx &&
    (s.ctx ag.ctx).residency == .active && !(ag.kind == .seq && (d.exchanging || s.parking ag.die)) && !s.standby

/-- An agent that may take its next step. -/
def State.ready (s : State) (ag : Agent) : Bool :=
  ag.status == .live && s.powered ag && (ag.trapDue || s.mirrorDue ag || (!s.heldOff ag && !ag.windowShut))

/-- Whether `a` goes before `b` on one core (R216). -/
def Agent.before (a b : Agent) : Bool :=
  if decide (64 ≤ a.passed) != decide (64 ≤ b.passed) then decide (64 ≤ a.passed)
  else if a.prio = b.prio then decide (a.readySince ≤ b.readySince) else decide (b.prio < a.prio)

/-- The first of some agents by R216. -/
def bestOf : List Agent → Option Agent
  | [] => none
  | a :: l => match bestOf l with
    | none => some a
    | some b => if a.before b then some a else some b

/-- The current limiter withholds an agent's next word (R21): it is no part of the decision, which another word of the core may take. -/
def State.withheld (s : State) (a : Agent) : Bool :=
  decide (s.time < (s.die a.die).withheldV) && !a.trapDue && !s.mirrorDue a && match s.translate a.ctx a.die a.pc .fetch with
    | .error _ => false
    | .ok x => varyingWord (s.ctx a.ctx).table (leNat (s.bytesAt x 8))

/-- The agents that may take a step, those that acted longest ago first. -/
def State.readyAgents (s : State) : List Agent := (s.others ++ [s.agent]).filter (fun a => !(a.status == .vacant) && s.ready a && !s.withheld a)

/-- The agent that a unit chooses. -/
def State.chosen (s : State) (unit : Nat) : Option Agent := bestOf (s.readyAgents.filter (fun a => a.unit == unit))

/-- The unit of the agent that acted longest ago. -/
def State.anyChosen (s : State) : Option Agent :=
  match s.readyAgents with
  | [] => none
  | a :: _ => s.chosen a.unit

/-- The agent chosen, made the current one and its count of passed decisions cleared; the ready agents passed over on its core are counted
(R216). -/
def State.choose (s : State) (a : Agent) : State :=
  let count (b : Agent) : Agent :=
    if b.id = a.id then { b with passed := 0, prompt := false }
    else if b.unit == a.unit && s.ready b && !s.withheld b then { b with passed := b.passed + 1 } else b
  ({ s with agent := count s.agent, others := s.others.map count }).focus a.id

/-- An agent that has become ready at this instant, and has not acted since: no time passes before it acts (R165, R166); log 5. -/
def State.prompted (s : State) (a : Agent) : Bool := s.ready a && !s.withheld a && (a.prompt || !a.wasReady)

/-- The agents that have become ready since the last step are ready from now on; the decisions at which one that is not ready was passed over
are not consecutive with those to come (R216). -/
def State.noteReady (s : State) : State :=
  let note (a : Agent) : Agent :=
    { a with
      wasReady := s.ready a, prompt := s.prompted a
      readySince := if s.ready a && !a.wasReady then s.time else a.readySince
      passed := if s.ready a then a.passed else 0 }
  { s with agent := note s.agent, others := s.others.map note }

/-- Nanoseconds that pass at a step, `n` at most: no step passes over the start of a slot of a sweep that has something to apply (R141,
R157), nor over the instant that a sleeping warp waits for (R278), and none passes while an agent that has become ready has yet to act
(R165); log 5. -/
def State.ticks (s : State) (n : Nat) : Nat :=
  s.agents.foldl (fun n a => match a.hold with
    | .sleep t => if s.time < t then min n (t - s.time) else n
    | _ => n) (if s.agents.any s.prompted then 0 else s.horizon n)

end Sys2Proof.Machine
end

