-- ==== Sys2Proof/Machine/Place.lean ====
section
/-! DEFINITION. Placing warps on cores (R27, R88, R123, R205): what a core can hold, the units that are admitted together, and
the warps they start. -/

namespace Sys2Proof.Machine

/-- A list of numbers in ascending order. -/
def sortNat (l : List Nat) : List Nat :=
  l.foldr (fun x r => r.filter (fun y => decide (y < x)) ++ [x] ++ r.filter (fun y => decide (x ≤ y))) []

/-- Sum of a list. -/
def total (l : List Nat) : Nat := l.foldl (· + ·) 0

/-- The warps that a core holds. -/
def State.occupants (s : State) (die core : Nat) : List Agent :=
  s.agents.filter (fun a => a.kind == .warp && a.resident && a.die == die && a.core == core && (s.ctx a.ctx).residency == .active)

/-- The context of a launch on a die is the active one. -/
def State.launchActive (s : State) (l die : Nat) : Bool :=
  match s.launchOf l with
  | none => false
  | some x => match s.ctxOn x.vf die with
    | none => false
    | some c => (s.ctx c).residency == .active

/-- A core that can take warps of a virtual device. -/
def State.coreUp (s : State) (vf die core : Nat) : Bool :=
  let d := s.die die
  d.released && (d.power == .run || d.power == .idle) && decide (core < d.cores) && !s.standby &&
    (match s.ctxOn vf die with
      | none => false
      | some c => (s.ctx c).residency == .active)

/-- A core can hold `n` more warps of a launch with `allocs` scratch allocations (R27, R123, R125). -/
def State.fits (s : State) (l : Nat) (x : Launch) (die core n allocs : Nat) : Bool :=
  let occ := s.occupants die core
  let scr := total (((occ.map (·.scratch)).eraseDups).map (fun i => (s.scratch i).size))
  let bs := s.bufs.filter (fun b => b.die == die && b.core == core && (b.launch == l || s.launchActive b.launch die))
  let new (need : Nat) : Nat := if bs.any (fun b => b.launch == l) then 0 else need
  s.coreUp x.vf die core && decide (occ.length + n ≤ 128) && decide (total (occ.map (·.vn)) + n * x.vn ≤ 4096) &&
    decide (scr + allocs * x.scr ≤ 256 * 1024) && decide (total (bs.map (·.wsize)) + new x.wneed ≤ 512 * 1024) &&
    decide (total (bs.map (·.xsize)) + new x.xneed ≤ 256 * 1024) && decide (total (bs.map (·.csize)) + new x.cneed ≤ 256 * 1024)

/-- A set of warps enlarged by every group that meets it; log 39. -/
def closure (gs : List (List Nat)) : Nat → List Nat → List Nat
  | 0, l => l
  | n + 1, l => closure gs n ((l ++ (gs.filter (fun g => g.any l.contains)).flatten).eraseDups)

/-- The members of the groups of a launch that have a property. -/
def Launch.memberSets (x : Launch) (f : Group → Bool) : List (List Nat) := (x.groups.filter f).map (·.members)

/-- Warps of a launch. -/
def Launch.warps (x : Launch) : Nat := x.nx * x.ny * x.nz

/-- The warps admitted together with `w` (R192, R205); log 39. -/
def Launch.unitOf (x : Launch) (w : Nat) : List Nat :=
  if x.det then List.range x.warps
  else sortNat (closure (x.memberSets (fun g => g.gang || g.cor || g.pair)) (x.groups.length + 1) [w])

/-- The sets of a unit's warps that go on one core (R205). -/
def Launch.blocks (x : Launch) : Nat → List Nat → List (List Nat)
  | 0, _ => []
  | _ + 1, [] => []
  | n + 1, w :: l =>
    let b := sortNat (closure (x.memberSets (fun g => g.cor || g.pair)) (x.groups.length + 1) [w])
    b :: x.blocks n (l.filter (fun v => !b.contains v))

/-- The COR group of a warp, if any (R123). -/
def Launch.corOf (x : Launch) (w : Nat) : Option Nat := x.groups.findIdx? (fun g => g.cor && g.members.contains w)

/-- The scratch allocations of a set of warps: a COR group shares one. -/
def Launch.allocs (x : Launch) (b : List Nat) : List Nat :=
  (b.map (fun w => match x.corOf w with
    | some g => g
    | none => x.groups.length + w)).eraseDups

/-- A resident index that is free on a core (R251). -/
def State.freeIndex (s : State) (c die core : Nat) : Nat :=
  let used := (s.agents.filter (fun a => a.kind == .warp && a.resident && a.ctx == c && a.die == die && a.core == core)).map (·.ridx)
  ((List.range 128).find? (fun i => !used.contains i)).getD 0

/-- The memberships of a warp: group indices in ascending order, padded (R32, R204). -/
def Launch.memberships (x : Launch) (w : Nat) : List Word :=
  let gs := ((x.groups.zipIdx.filter (fun g => g.1.members.contains w)).map (fun g => BitVec.ofNat 32 g.2)).take 4
  gs ++ List.replicate (4 - gs.length) 0xFFFFFFFF

/-- The warp that a launch starts (R88, R205). -/
def State.newWarp (s : State) (l : Nat) (x : Launch) (die core w scr : Nat) : Agent :=
  let c := (s.ctxOn x.vf die).getD 0
  { Agent.vacant with
    id := s.handles + 1, kind := .warp, status := .live, die := die, core := core, ridx := s.freeIndex c die core, ctx := c,
    launch := l, wid := BitVec.ofNat 32 w, nw := BitVec.ofNat 32 x.warps, wx := BitVec.ofNat 32 (w % x.nx),
    wy := BitVec.ofNat 32 (w / x.nx % x.ny), wz := BitVec.ofNat 32 (w / x.nx / x.ny), gm := x.memberships w, pc := x.code,
    vn := x.vn, exm := fullMask, live := fullMask, prio := x.prio, argp := BitVec.ofNat 64 x.args, scratch := scr,
    privBase := x.priv * 2 ^ 16 + w * 2 ^ (16 + x.pw), pw := x.pw, readySince := s.time }

/-- The buffers of a launch allocated on a core, once (R205): they read zero, RAW, unpoisoned (R237). -/
def State.allocBufs (s : State) (l : Nat) (x : Launch) (die core : Nat) : State :=
  if s.bufs.any (fun b => b.launch == l && b.die == die && b.core == core) then s
  else
    let b : Bufs := { Bufs.empty with launch := l, die := die, core := core, wsize := x.wneed, xsize := x.xneed, csize := x.cneed }
    { s with bufs := s.bufs ++ [b] }

/-- One warp started on a core; `m`: the scratch allocations of its COR groups so far. -/
def State.startWarp (s : State) (l : Nat) (x : Launch) (die core w : Nat) (m : Assoc Nat) : State × Assoc Nat :=
  let g := x.corOf w
  let known := g.bind (aget? m)
  let scr := known.getD (s.handles + 1)
  let s := if known.isSome then s else s.fresh1.setScratch scr { size := x.scr, bytes := [], poison := [] }
  let m := match g with
    | none => m
    | some g => aset m g scr
  let a := s.newWarp l x die core w scr
  let s := { s.fresh1 with others := s.others ++ [a] }
  (s.updLaunch l (fun y => { y with admitted := w :: y.admitted }), m)

/-- A block put on the first of some cores that can hold it. -/
def State.placeBlock (s : State) (l : Nat) (x : Launch) (cores : List (Nat × Nat)) (b : List Nat) : Option State :=
  match cores.find? (fun c => s.fits l x c.1 c.2 b.length (x.allocs b).length) with
  | none => none
  | some (d, c) =>
    some ((b.foldl (fun (acc : State × Assoc Nat) w => acc.1.startWarp l x d c w acc.2) (s.allocBufs l x d c, [])).1)

/-- The cores of a die. -/
def coresOf (d : Nat) : List (Nat × Nat) := (List.range Config.coresPerDie).map (fun c => (d, c))

/-- The cores that a block may go to (R205). -/
def State.coresFor (s : State) (x : Launch) (b : List Nat) : List (Nat × Nat) :=
  let ds := s.vfDies x.vf
  if x.spread then coresOf (ds.getD (b.headD 0 % ds.length) 0) else ds.flatMap coresOf

/-- Blocks placed one after another; none if one of them finds no core. -/
def State.placeBlocks (s : State) (l : Nat) (x : Launch) : List (List Nat) → Option State
  | [] => some s
  | b :: bs => match s.placeBlock l x (s.coresFor x b) b with
    | none => none
    | some s => s.placeBlocks l x bs

/-- A unit admitted whole, its first block on one of `at_` (R205). -/
def State.admitUnit (s : State) (l : Nat) (x : Launch) (u : List Nat) (at_ : List (Nat × Nat)) : Option State :=
  match x.blocks u.length u with
  | [] => none
  | b :: bs => match s.placeBlock l x ((s.coresFor x b).filter at_.contains) b with
    | none => none
    | some s => s.placeBlocks l x bs

/-- The lowest-numbered warp of a launch that has not been admitted. -/
def Launch.next (x : Launch) : Option Nat := if x.ended then none else (List.range x.warps).find? (fun w => !x.admitted.contains w)

/-- A launch's evicted warps that wait for room: not the partner that was parked with a warp (R260, R263). -/
def State.evictedOf (s : State) (l : Nat) : List Agent :=
  s.agents.filter (fun a => a.launch == l && a.status == .evicted && !(match s.partner a with
    | none => false
    | some p => p.status == .parked))

/-- Evicted warps in the order in which they come back (R263): those that hold an object first, then ascending warp id. -/
def State.evictOrder (s : State) (l : Nat) : List Agent :=
  let e := s.evictedOf l
  let those (p : Agent → Bool) : List Agent :=
    (sortNat ((e.filter p).map (·.wid.toNat))).filterMap (fun w => e.find? (fun a => a.wid.toNat == w))
  those (fun a => !a.held.isEmpty) ++ those (fun a => a.held.isEmpty)

/-- A core has room for some warps of a launch. -/
def State.roomFor (s : State) (l : Nat) (x : Launch) (die core : Nat) (as : List Agent) : Bool :=
  s.fits l x die core as.length ((as.map (·.scratch)).eraseDups).length

/-- The sets in which an evicted warp comes back with those that are admitted together with it (R263), its own first. -/
def State.backBlocks (s : State) (x : Launch) (a : Agent) : List (List Nat) :=
  let blocks := x.blocks x.warps ((x.unitOf a.wid.toNat).filter (fun w => (s.evictedOf a.launch).any (fun e => e.wid.toNat == w)))
  blocks.filter (·.contains a.wid.toNat) ++ blocks.filter (fun l => !l.contains a.wid.toNat)

/-- Cores of their dies can take some sets of evicted warps, one set after another. -/
def State.haveRoom (s : State) (l : Nat) (x : Launch) : List (List Nat) → Bool
  | [] => true
  | b :: bs =>
    let as := (s.evictedOf l).filter (fun a => b.contains a.wid.toNat)
    match as with
    | [] => s.haveRoom l x bs
    | a :: _ => match (coresOf a.die).find? (fun c => s.roomFor l x c.1 c.2 as) with
      | none => false
      | some c => (as.foldl (fun s a => s.upd a.id (fun y => { y with status := .live, core := c.2 })) (s.allocBufs l x c.1 c.2)).haveRoom l x bs

/-- The next evicted warp of a launch can come back, with all that are admitted together with it (R263). -/
def State.readmissible (s : State) (l : Nat) (x : Launch) : Bool :=
  match s.evictOrder l with
  | [] => false
  | a :: _ => s.haveRoom l x (s.backBlocks x a)

/-- The next unit of a launch can be admitted. -/
def State.admissible (s : State) (l : Nat) (x : Launch) : Bool :=
  match x.next with
  | none => false
  | some w => (s.admitUnit l x (x.unitOf w) ((s.vfDies x.vf).flatMap coresOf)).isSome

end Sys2Proof.Machine
end

