-- ==== Sys2Proof/Machine/Sched.lean ====
section
/-! DEFINITION. The scheduler: submission, dispatch, ageing, admission, retirement, triggers and arrivals (R199-R209, R212), range
counters (R213), and the words TSPAWN, LARM, RINIT and RGET; commits of determinate launches (R193-R195). -/

namespace Sys2Proof.Machine

/-! ## Submission, dispatch and ageing -/

/-- SUBMIT (R201, R273). -/
def execSubmit (vf : Nat) (addr : DWord) (s : State) : Out := .next (s.post vf addr.toNat none)

/-- TSPAWN (R212, R399); log 40. -/
def execTspawn (h : Head) (a : Opnd) (s : State) : Out :=
  .next (s.xword h { needX false [pairSrc a] with badE := notK a } (fun s =>
    let ag := s.agent
    let r := ag.pairOf a
    if r % 64 ≠ 0 then badAt 0x09 r
    else .ok (s.post (s.ctx ag.ctx).desc.vf r (some (ag.id, { no := s.handles, clock := ag.lclk }))) s.npc))

/-- A record with the ageing that is due by now (R202): a step up for each ms. -/
def QRec.aged (q : QRec) (now : Nat) : QRec :=
  let n := if q.ready then min (7 - q.prio) ((now - q.since) / 1000000) else 0
  { q with prio := q.prio + n, since := q.since + 1000000 * n }

/-- A record that has waited 1 ms at priority 7 (R202). -/
def State.starved (s : State) (q : QRec) : Bool := q.ready && q.prio == 7 && decide (q.since + 1000000 ≤ s.time)

/-- The ready records of a virtual device in the order in which the dispatcher takes them (R202): the oldest of the starved ones alone, or
the highest queue first, each first in, first out. -/
def State.readyRecs (s : State) (vf : Nat) : List QRec :=
  let l := (s.queue.filter (fun q => q.vf == vf && q.ready)).map (fun q => q.aged s.time)
  let bySince (l : List QRec) : List QRec := l.foldl (fun r q =>
    r.filter (fun p => decide (p.since ≤ q.since)) ++ [q] ++ r.filter (fun p => decide (q.since < p.since))) []
  match bySince (l.filter s.starved) with
  | q :: _ => [q]
  | [] => (List.range 8).flatMap (fun i => bySince (l.filter (fun q => q.prio == 7 - i)))

/-- What the scheduler finds in a record when it dispatches it: nothing readable, a refused record, or a launch or copy node. -/
inductive Taken where
  | gone
  | bad (n : Nat)
  | node (n : Nat) (x : Launch)
  | launch (n : Nat) (x : Launch)

/-- A record read and checked (R200). -/
def State.takeRecord (s : State) (q : QRec) : Taken :=
  match s.vfHome q.vf with
  | none => .gone
  | some (d, c) => match s.readNum c d q.record 64 with
    | .error _ => .gone
    | .ok n =>
      if s.cwordBad c d (rfield n 0x38 8) then .gone
      else if recBad n || (s.readSuccs c d (rfield n 0x30 8) (rfield n 0x1A 1)).isNone then .bad n
      else if recIsCopy n then .node n (launchOfRec n q.record c q.vf q.prio s.time [])
      else match s.readGroups c d n with
        | none => .bad n
        | some gs =>
          if groupsBad gs (bit n (8 * 0x16 + 3)) (8 * rfield n 0x17 1) (rfield n 0x20 2) then .bad n
          else .launch n (launchOfRec n q.record c q.vf q.prio s.time gs)

/-- A record can be placed (R202): a launch whose first unit fits. -/
def State.placeable (s : State) (q : QRec) : Bool :=
  match s.takeRecord q with
  | .launch _ x => x.warps == 0 || s.admissible (s.handles + 1) x
  | _ => true

/-- A dispatched launch of the virtual device that competes at a priority of at least `p` and can take room (R202), for its evicted warps
or for those not yet admitted. -/
def State.outranked (s : State) (vf p : Nat) : Bool :=
  s.launches.any (fun e => e.2.vf == vf && decide (p ≤ e.2.queuePrio) && (s.readmissible e.1 e.2 || s.admissible e.1 e.2))

/-- A copy node's command (R202), or the fault of its descriptor. -/
def State.nodeCopy (s : State) (l die c : Nat) (x : Launch) : Except Nat Copy :=
  let y : Copy :=
    { id := s.handles + 2, kind := .node, ctx := c, die := die, core := 0, launch := l, ag := 0, slot := 0, pc := 0, srcSp := .g,
      dstSp := .g, src := 0, dst := 0, blocks := 0, done := 0, descAddr := x.args, scratch := 0, opword := 0, row0 := 0,
      transposed := false, chunks := 0, bufX := false, tile := 0, entry := [], grain := 4, got := [], put := [] }
  if x.args % 32 ≠ 0 then .error 0x09
  else match s.readNum c die x.args 32 with
    | .error e => .error e
    | .ok n => s.copyDesc y n

/-- A record dispatched on a die (R200, R202, R208); log 61. -/
def State.dispatch (s : State) (q : QRec) (die : Nat) : State :=
  let t := s.takeRecord q
  let s := { s with queue := s.queue.filter (fun x => !(x.vf == q.vf && x.record == q.record)) }
  let l := s.handles + 1
  match s.vfHome q.vf with
  | none => s
  | some (d, c) => match t with
    | .gone => s.countDrop q.vf
    | .bad n => s.putCompletion c d (rfield n 0x38 8) 1
    | .node _ x =>
      let s := { s with launches := aset s.launches l x }
      let e := (s.ctxOn q.vf die).getD c
      let s := s.touch e die x.args 32
      match s.nodeCopy l die e x with
      | .error k => (({ s with handles := s.handles + 1 }).faulting die e x.args k).retireLaunch l 4
      | .ok y => { s with copies := s.copies ++ [y], handles := s.handles + 2 }
    | .launch _ x =>
      let s := { s with launches := aset s.launches l x, handles := s.handles + 1
                        ctxs := s.ctxs.map (fun e => if e.2.desc.vf = q.vf then (e.1, { e.2 with stale := [] }) else e) }
      if x.warps = 0 then s.retireLaunch l 0 else s

/-- Dispatch has been stopped for a virtual device's home context (R265, R283). -/
def State.dispatchStopped (s : State) (vf : Nat) : Bool :=
  match s.vfHome vf with
  | none => true
  | some (_, c) => (s.ctx c).stopped

/-- The ready records of a virtual device opened in order, up to the first that can be placed (R155). -/
def State.openReady (s : State) (vf : Nat) : List QRec → State
  | [] => s
  | q :: l => match s.vfHome vf with
    | none => s
    | some (d, c) =>
      let s := s.openRecord c d q.record
      if s.placeable q then s else s.openReady vf l

/-- TASK_DISPATCH (R202): the records whose posters' writes are visible are read; then the first record that can be placed is
dispatched, unless a dispatched launch of its priority or above takes the room. -/
def execTaskDispatch (vf die : Nat) (s : State) : Out :=
  let s := s.absorb
  let s := s.openReady vf (s.readyRecs vf)
  .next (match (s.readyRecs vf).find? s.placeable with
    | none => s
    | some q => if s.dispatchStopped vf || s.outranked vf q.prio then s else s.dispatch q die)

/-- RECORD_AGEING (R202): a record that has been ready for 1 ms moves to the tail of the next higher queue. -/
def execRecordAgeing (addr : Nat) (s : State) : Out :=
  let old (q : QRec) : Bool := q.ready && q.record == addr && decide (q.prio < 7) && decide (q.since + 1000000 ≤ s.time)
  .next { s with queue := s.queue.filter (fun q => !old q) ++
                          (s.queue.filter old).map (fun q => { q with prio := q.prio + 1, since := q.since + 1000000 }) }

/-- WARP_ADMIT (R205): the next unit of a launch is admitted, its first block on the core named; evicted warps of the launch go
first (R263), and a ready record of a higher priority that can be placed (R202); log 39. -/
def execWarpAdmit (launch die core : Nat) (s : State) : Out :=
  .next (match s.launchOf launch with
    | none => s
    | some x =>
      let held := match s.ctxOn x.vf die with
        | none => true
        | some c => (s.ctx c).stopped && x.pre
      if held || !(s.evictedOf launch).isEmpty ||
          (s.readyRecs x.vf).any (fun q => decide (x.queuePrio < q.prio) && s.placeable q) then s
      else match x.next with
        | none => s
        | some w => ((s.admitUnit launch x (x.unitOf w) [(die, core)]).getD s).retimed s)

/-! ## Retirement, triggers, arrivals -/

/-- The launch's warps and programs are done, and so are the copies they issued (R206). -/
def State.launchDone (s : State) (l : Nat) (x : Launch) : Bool :=
  let mine := s.agents.filter (fun a => a.launch == l)
  x.next.isNone && mine.all (fun a => a.status == .retired && a.detBuf.isEmpty && a.inflight.all (·.finished)) && !s.copies.any (fun c => c.launch == l) &&
    !s.reqs.any (fun r => mine.any (fun a => a.id == r.ag)) &&
    !s.savedAgents.any (fun a => a.launch == l && !(a.status == .retired)) &&
    !s.images.any (fun i => s.ctxs.any (fun e => e.2.residency == .saved && e.2.imageNo == some i.no) &&
      i.copies.any (fun c => c.launch == l))

/-- LAUNCH_RETIRE (R206, R258). -/
def execLaunchRetire (launch : Nat) (s : State) : Out :=
  .next (match s.launchOf launch with
    | none => s
    | some x => if s.launchDone launch x then s.retireLaunch launch (if x.ended then 3 else 0) else s)

/-- A warp of a launch has exited, or has triggered with its writes visible (R180, R207). -/
def State.letGo (s : State) (l w : Nat) (x : Launch) : Bool :=
  match s.warpOf l w with
  | none => x.exited.contains w
  | some a =>
    if a.status == .retired then a.detBuf.isEmpty
    else match a.trig with
      | none => false
      | some p => s.wroteBefore a.id p

/-- TRIGGER_RELEASE (R207). -/
def execTriggerRelease (launch : Nat) (s : State) : Out :=
  .next (match s.launchOf launch with
    | none => s
    | some x =>
      if x.released || x.ended || !x.next.isNone || x.triggered.isEmpty ||
          !(List.range x.warps).all (fun w => s.letGo launch w x) then s
      else
        let (d, c) := ((s.ctx x.ctx).die, x.ctx)
        (s.releaseSuccs c d x.vf x.succ x.scnt).updLaunch launch (fun y => { y with released := true }))

/-- The bezel of a die admits an 8-byte arrival at an address (R209, R274, R275): arrivals are enabled and enter through a window that grants
the write, and one from an Evofisal peer comes through the port, by a module that RMOD admits; log 47. -/
def State.arrivalOk (s : State) (die : Nat) (sender : Option Nat) (addr : Nat) : Bool :=
  let z := (s.die die).bezel
  z.link.getLsbD 1 && z.grants addr .write sender.isSome && match sender with
    | none => true
    | some m => z.link.getLsbD 0 && decide (m < 64) && z.rmod.getLsbD m

/-- An 8-byte write to an arrival address of a context of the die (R209, R274, R346), by a network card or by an Evofisal peer, whose bytes its
port counts (R276). -/
def State.arrivalAt (s : State) (die : Nat) (sender : Option Nat) (addr value : DWord) : State :=
  let at_ (e : Nat × Ctx) : Bool := e.2.die == die && (e.2.residency == .active || e.2.residency == .locket) &&
    decide (e.2.desc.ab ≤ addr.toNat) && decide (addr.toNat < e.2.desc.ab + 64 * 256) && (addr.toNat - e.2.desc.ab) % 64 == 0
  if !s.arrivalOk die sender addr.toNat then s.denied die addr.toNat
  else match s.ctxs.find? at_ with
    | none => s
    | some (c, x) =>
      let i := (addr.toNat - x.desc.ab) / 64
      let s := s.count c 11 (if sender.isSome then 8 else 0)
      match aget? x.arrivals i with
      | none => s.count c 15 1
      | some r =>
        if !(r.tag.toNat == fld value.toNat 56 8) then s.count c 15 1
        else
          let x := s.ctx c
          (s.setCtx c { x with arrivals := adel x.arrivals i, landed := x.landed ++ [(r, fld value.toNat 0 56)] }).landCtx c

/-- ARRIVAL (R209): by a network card through a root port. -/
def execArrival (die : Nat) (addr value : DWord) (s : State) : Out := .next (s.arrivalAt die none addr value)

/-- ARRIVAL (R209): by an Evofisal peer. -/
def execEvofisalArrival (die sender : Nat) (addr value : DWord) (s : State) : Out := .next (s.arrivalAt die (some sender) addr value)

/-- LARM (R209, R346). -/
def execLarm (h : Head) (a b : Opnd) (tag : BitVec 8) (s : State) : Out :=
  .next (s.xword h { needX false [plain a, pairSrc b] with priv := true, badE := notK b } (fun s =>
    let ag := s.agent
    let i := (s.uval .int a).toNat
    let r := ag.pairOf b
    let x := s.ctx ag.ctx
    if 255 < i then .bad (ag.flt 0x0E)
    else if r % 64 ≠ 0 then badAt 0x09 r
    else .ok (s.setCtx ag.ctx { x with arrivals := aset x.arrivals i { record := r, tag := tag, by_ := (ag.id, { no := s.handles, clock := ag.lclk }) } }) s.npc))

/-! ## Range counters (R213) -/

/-- RINIT (R213, R383). -/
def execRinit (h : Head) (a b : Opnd) (s : State) : Out :=
  .next (s.xword h { needX false [plain a, { o := b, n := 3 }] with badE := notK b } (fun s =>
    let ag := s.agent
    let i := (s.uval .int a).toNat
    let k := match b with
      | .k n => n.val
      | _ => 0
    let m := ag.kreg (k + 1)
    let d := ag.kreg (k + 2)
    let x := s.ctx ag.ctx
    if 63 < i || m = 0 || d = 0 then .bad (ag.flt 0x0E)
    else .ok (s.setCtx ag.ctx { x with ranges := aset x.ranges i { next := 0, rem := ag.kreg k, m := m, d := d } }) s.npc))

/-- RGET goes to the range unit (R213, R382). -/
def execRget (h : LHead) (d a : Opnd) (s : State) : Out :=
  .next (s.lxword h (pairDst (needX false [plain a]) d) (fun s =>
    let w := s.uval .int a
    if 63 < w.toNat then .bad (s.agent.flt 0x0E)
    else .ok (s.pushDetached h (.rget h d a) (regRun d 2) w s.agent.lclk) s.npc))

/-- A range counter served: the chunk, and the counter after it. -/
def RangeCtr.serve (r : RangeCtr) : Nat × RangeCtr :=
  let d := r.d.toNat
  let n := min r.rem.toNat (max r.m.toNat ((r.rem.toNat + d - 1) / d))
  (n, { r with next := r.next + BitVec.ofNat 32 n, rem := r.rem - BitVec.ofNat 32 n })

/-- RGET_SERVE (R213): in determinate mode on the terms of R194. -/
def execRgetServe (ag slot : Nat) (s : State) : Out :=
  .next (match s.agentOf ag with
    | none => s
    | some a => match a.inSlot slot with
      | none => s
      | some f => match f.instr with
        | .rget .. =>
          let x := s.ctx a.ctx
          if !(s.die a.die).runs || !(x.residency == .active) || (s.isDet a && !(s.detReady a f.aux && s.turnFirst a f)) then s
          else
            let i := (f.av.getD 0 0).toNat
            let r := aget x.ranges { next := 0, rem := 0, m := 0, d := 0 } i
            let (n, r') := r.serve
            let s := if (aget? x.ranges i).isSome then s.setCtx a.ctx { x with ranges := aset x.ranges i r' } else s
            s.doneK ag slot [r.next, BitVec.ofNat 32 n]
        | _ => s)

/-! ## Commits of a determinate launch (R193, R195) -/

/-- A commit may begin: every live warp that is not sleeping has reached its end, and every V-path word below it has acted, one
that a trap withdrew once it has replayed; log 41. -/
def State.commitReady (s : State) (l : Nat) (x : Launch) : Bool :=
  let lim := (x.commits + 1) * x.quantum
  let ws := s.allAgents.filter (fun a => a.kind == .warp && a.launch == l)
  ws.all (fun a => (a.status == .retired || a.sleeping || decide (lim ≤ a.lclk)) && a.clocks.all (fun e => decide (lim ≤ e.2)) &&
    a.inflight.all (fun f => f.finished || (memOp f.instr).isNone || decide (lim ≤ f.aux))) &&
    ws.any (fun a => !(a.status == .retired) || !a.detBuf.isEmpty)

/-- Bytes written by a commit: scratch, or global memory as the warp's tables map it then; log 41. -/
def State.commitBytes (s : State) (a : Agent) (scr : Bool) (addr : Nat) (bs : List Byte) (poison : Bool) : State :=
  if scr then
    let sc := s.scratch a.scratch
    s.setScratch a.scratch
      { sc with bytes := Memory.write sc.bytes addr bs, poison := markPoison sc.poison addr bs.length poison }
  else match s.translate a.ctx a.die addr .write with
    | .error _ => s
    | .ok x => s.writeAt x a.ctx a.id addr none bs poison

/-- Bytes read by a commit, and their poison. -/
def State.commitRead (s : State) (a : Agent) (scr : Bool) (addr n : Nat) : List Byte × Bool :=
  if scr then
    let sc := s.scratch a.scratch
    (Memory.read sc.bytes addr n, (span (addr / 32) ((addr + n + 31) / 32)).any (fun u => sc.poison.contains u))
  else match s.translate a.ctx a.die addr .read with
    | .error _ => (List.replicate n 0, true)
    | .ok x => (s.bytesAt x n, s.poisonedAt x n)

/-- The poison of a codeword cleared by a commit. -/
def State.commitClean (s : State) (a : Agent) (scr : Bool) (addr : Nat) : State :=
  if scr then s.setScratch a.scratch { s.scratch a.scratch with poison := setIn (s.scratch a.scratch).poison (addr / 32) false }
  else match s.translate a.ctx a.die addr .write with
    | .error _ => s
    | .ok x => match x.place with
      | .remote => s
      | _ => { s with memPoison := setIn s.memPoison (x.pa / 32) false }

/-- One buffered entry of a warp committed; results of returning atomics are written after all of them; log 41. -/
def State.commitEntry (s : State) (a : Agent) (e : DetEntry) : State :=
  match e.op with
  | .store scr addr bs p => s.commitBytes a scr addr bs p
  | .red scr addr op wide d p v t pc =>
    let n := if wide then 8 else 4
    let (old, bad) := s.commitRead a scr addr n
    if bad then s
    else match atomResult op (8 * n) ⟨v, t, pc⟩ (leNat old) d.toNat 0 with
      | none => s
      | some r => s.commitBytes a scr addr (leBytes n r) p
  | .atom .. => s
  | .clean scr addr => s.commitClean a scr addr
  | .rel o => s.unhold a o
  | .arrive g => s.reachRound a.launch a.wid.toNat g

/-- The final value of an element that a returning ATOM touched. -/
def State.commitAtom (s : State) (l : Nat) (x : DetAt) : State :=
  match s.warpOf l x.wid, x.entry.op with
  | some a, .atom scr addr bs p => s.commitBytes a scr addr bs p
  | _, _ => s

/-- Agents in order of clock, then warp id. -/
def sortByClock (l : List Agent) : List Agent :=
  let lt (a b : Agent) : Bool := decide (a.lclk < b.lclk) || (a.lclk == b.lclk && decide (a.wid.toNat < b.wid.toNat))
  l.foldl (fun r a => r.filter (fun b => !lt a b) ++ [a] ++ r.filter (lt a)) []

/-- Grants after a commit, in order of (clock at the request, warp id), whenever the requests arrived (R195). -/
def State.commitGrants (s : State) (l : Nat) : State :=
  let as := sortByClock ((s.liveWarps l).filter Agent.sleeping)
  let others := s.waiters.filter (fun w => !as.any (fun a => a.id == w.ag))
  let s := { s with waiters := others ++ as.flatMap (fun a => s.waiters.filter (fun w => w.ag == a.id)) }
  as.foldl (fun s a =>
    match a.hold, a.wait with
    | .acq .., _ | _, .acq .. => s.acqGrant a.id
    | .clasp g _ _, _ => s.claspRound l g
    | _, _ => s) s

/-- The entries below a limit of every warp of a launch applied, the results of returning atomics after them, and the grants that wait
for the commit made (R193, R195). -/
def State.commit (s : State) (launch lim : Nat) : State :=
  let ws := (sortNat ((s.agents.filter (fun a => a.kind == .warp && a.launch == launch)).map (·.wid.toNat))).filterMap
    (fun w => s.warpOf launch w)
  let atoms := s.detAtoms launch 0 lim
  let s := ws.foldl (fun s a => (a.detBuf.filter (fun e => decide (e.clock < lim))).foldl (fun s e => s.commitEntry a e) s) s
  let s := atoms.foldl (fun s e => s.commitAtom launch e) s
  let s := s.updAll (fun a =>
    if a.launch = launch && a.kind == .warp then { a with detBuf := a.detBuf.filter (fun e => decide (lim ≤ e.clock)) } else a)
  let s := s.updLaunch launch (fun y => { y with commits := y.commits + 1 })
  s.commitGrants launch

/-- QUANTUM_COMMIT (R193, R195), of every warp of the launch, wherever it is; log 41. -/
def execQuantumCommit (launch : Nat) (s : State) : Out :=
  .next (match s.launchOf launch with
    | none => s
    | some x =>
      if !x.det || !s.commitReady launch x then s
      else s.awake (fun s => s.commit launch ((x.commits + 1) * x.quantum)))

/-! ## The end of a warp -/

/-- A word in flight that no longer keeps its agent: complete, or with nothing left that could be done, or a copy whose mirrored write was
lost (R234). -/
def State.leftBehind (s : State) (a : Agent) (f : Inflight) : Bool :=
  f.finished || a.overWith f || s.mirrors.any (fun m => m.failed && m.copy.isSome && m.copy == f.copyId)

/-- WARP_RETIRE (R61, R217): a warp with no live thread, or a program past its exit, ends once every slot it has named is
complete. What it holds is released as REL releases it (R176): once its mirrored writes are acknowledged; a failed one has no thread left
to report it (DESIGN CHOICE); log 40, log 56. -/
def execWarpRetire (ag : Nat) (s : State) : Out :=
  .next (match s.agentOf ag with
    | none => s
    | some a =>
      if !(a.status == .exiting) || !a.inflight.all (s.leftBehind a) || s.awaitsAcks a then s
      else if a.kind == .seq then s.endProgram ag else s.retire ag)

end Sys2Proof.Machine
end

