-- ==== Sys2Proof/Machine/Seq.lean ====
section
/-! DEFINITION. Matrix-sequencer programs: FORK (R214, R325), RDV and its meetings (R215, R378), the start of a program (R179,
R214), and its end by a fault (R218). -/

namespace Sys2Proof.Machine

/-! ## FORK -/

/-- The program that a FORK starts (R214). -/
def Agent.program (ag : Agent) (id no pc : Nat) (ks : List Word) (parties : List Nat) (pair : Bool) : Agent :=
  { Agent.vacant with
    id := id, kind := .seq, status := .waiting, die := ag.die, core := ag.core, ctx := ag.ctx, launch := ag.launch, wid := ag.wid,
    nw := ag.nw, pc := pc % 2 ^ 48, k := (ks.zipIdx.map (fun e => (e.2, e.1))), lclk := no, argp := BitVec.ofNat 64 pc,
    forker := ag.id, parties := parties, pairGroup := pair, prio := ag.prio, trig := some { no := no, clock := ag.lclk } }

/-- The parties are the two members of a PAIR group (R242). -/
def State.arePair (s : State) (launch : Nat) (parties : List Nat) : Bool :=
  match s.launchOf launch with
  | none => false
  | some l => l.groups.any (fun g => g.pair && parties.all g.members.contains && g.members.all parties.contains)

/-- FORK (R210, R214, R325). -/
def execFork (h : LHead) (a b : Opnd) (n : Fin 4) (grp : Bool) (s : State) : Out :=
  .next (s.lxword h { needX false [pairSrc a, { o := b, n := 8, al := 2 }] with
      badE := notK a || notK b || (!grp && !(n == 0)) } (fun s =>
    let ag := s.agent
    let pc := ag.pairOf a
    let k := match b with
      | .k i => i.val
      | _ => 0
    let g := ag.gm.getD n.val 0xFFFFFFFF
    if grp && g == 0xFFFFFFFF then .bad (ag.flt 0x0A)
    else if pc % 8 ≠ 0 then badAt 0x09 pc
    else if s.isDet ag && !s.detNow ag then s.holdFor h.nas .det
    else
      let parties := if grp then match s.groupOf ag.launch g.toNat with
          | none => [ag.wid.toNat]
          | some gr => setIn gr.members ag.wid.toNat true
        else [ag.wid.toNat]
      let id := s.handles + 1
      let s := s.fresh1
      let p := ag.program id s.handles pc ((List.range 8).map (fun j => ag.kreg (k + j))) parties (s.arePair ag.launch parties)
      let s := { s with others := s.others ++ [p] }
      .ok (s.pushDetached h (.fork h a b n grp) [] 0 id) s.npc))

/-- The programs that stand in a sequencer's queue, the running one among them. -/
def State.queueOf (s : State) (die cluster : Nat) (ctx : Nat) : List Agent :=
  s.agents.filter (fun a => a.kind == .seq && a.die == die && a.cluster == cluster && a.ctx == ctx &&
    (a.status == .queued || a.status == .live || a.status == .exiting || a.status == .faulted))

/-- A forked program enters its sequencer's queue while it has room, and FORK's slot completes (R214). -/
def State.acceptProgram (s : State) (p : Nat) : State :=
  match s.agentOf p with
  | none => s
  | some a =>
    if !(a.status == .waiting) || 4 ≤ (s.queueOf a.die a.cluster a.ctx).length then s
    else
      let s := (s.upd p (fun a => { a with status := .queued, ridx := s.handles + 1 })).fresh1
      match s.agentOf a.forker with
      | none => s
      | some f => match f.inflight.find? (fun g => !g.finished && g.aux == p && (match g.instr with
          | .fork .. => true
          | _ => false)) with
        | none => s
        | some g => s.slotDone f.id g.slot

/-- A word on path V, C or G (R179). -/
def pathVCG (i : Instr) : Bool :=
  match i with
  | .cpy .. | .tload .. | .tstor .. | .gzreq .. => true
  | i => (memOp i).isSome

/-- The buffered stores of an agent that issued before a clock are committed: until then no other path sees them (R193). -/
def Agent.committed (a : Agent) (clock : Nat) : Bool := a.detBuf.all (fun e => decide (clock ≤ e.clock))

/-- SEQ_PROGRAM_START (R179, R214): the head of an idle sequencer's queue starts once the forking warp's earlier operations are
complete. -/
def execSeqProgramStart (ag : Nat) (s : State) : Out :=
  .next (match s.agentOf ag with
    | none => s
    | some a =>
      let q := s.queueOf a.die a.cluster a.ctx
      let clear := match s.agentOf a.forker with
        | none => !s.savedAgents.any (fun b => b.id == a.forker)
        | some f => f.doneBefore a.lclk pathVCG && f.committed ((a.trig.map (·.clock)).getD 0)
      if !(a.status == .queued) || !q.all (fun b => b.status == .queued && decide (a.ridx ≤ b.ridx)) || !clear || !s.powered a then s
      else
        let s := s.upd ag (fun a => { a with status := .live, readySince := s.time })
        s.trace a.ctx { kind := 5, die := a.die, source := a.cluster, code := 0, wid := a.wid.toNat, arg := 0,
                        payload := a.argp.toNat })

/-- SEQ_PROGRAM_FAULT (R218): the program ends, and its fault goes to the forking warp, to the lowest live party, or ends the
launch. -/
def execSeqProgramFault (ag : Nat) (s : State) : Out :=
  .next (match s.agentOf ag with
    | none => s
    | some a => match a.seqFault with
      | none => s
      | some r =>
        if !(a.status == .faulted) then s
        else
          let s := (s.upd ag (fun a => { a with seqFault := none })).endProgram ag
          let give (id : Nat) : State := s.upd id (fun x => { x with delivered := x.delivered ++ [r] })
          let live := (sortNat a.parties).filterMap (fun w => (s.warpOf a.launch w).filter Agent.alive)
          match (s.agentOf a.forker).filter Agent.alive with
          | some f => give f.id
          | none => match live with
            | p :: _ => give p.id
            | [] => s.updLaunch a.launch (fun l => { l with ended := true }))

/-! ## RDV -/

/-- The program that an agent's RDV belongs to (R215): a sequencer's own, or the most recently forked one with the warp among its
parties. -/
def State.progOf (s : State) (ag : Agent) : Option Agent :=
  if ag.kind == .seq then some ag
  else ((s.agents ++ s.savedAgents).filter (fun p => p.kind == .seq && p.launch == ag.launch && !(p.status == .retired) &&
      p.parties.contains ag.wid.toNat)).foldl (fun best p => match best with
    | none => some p
    | some q => if q.id < p.id then some p else some q) none

/-- The RDVs of meeting `k` issued so far. -/
def Agent.meeting (p : Agent) (k : Nat) : List Rdv := p.rdvs.filter (fun e => e.k == k)

/-- Two RDVs of a meeting name different numbers. -/
def Agent.mismatched (p : Agent) (k : Nat) : Bool := (p.meeting k).any (fun e => (p.meeting k).any (fun g => !(e.n == g.n)))

/-- A mismatched meeting (R215): the program stops, with no fault delivered; each warp party that has issued its RDV has its slot
completed and takes cause 0x0A. -/
def State.mismatch (s : State) (p k : Nat) : State :=
  match s.agentOf p with
  | none => s
  | some pr =>
    let es := (pr.meeting k).filter (fun e => !(e.ag == p))
    let s := es.foldl (fun s e =>
      let s := s.upd e.ag (fun a => a.record
        { cause := 0x0A, mask := a.exm, addr := 0, fpc := e.pc, rpc := some e.next, hnd := (a.inSlot e.slot).any (·.hnd) })
      s.slotDone e.ag e.slot) s
    (s.upd p (fun a => { a with rdvs := a.rdvs.filter (fun e => !(e.k == k)) })).endProgram p

/-- An RDV joins its meeting at a program, which it may mismatch (R215). -/
def State.rdvJoins (s : State) (p : Nat) (e : Rdv) : State :=
  let s := s.upd p (fun p => { p with rdvs := p.rdvs ++ [e], rdvCount := aset p.rdvCount e.ag (e.k + 1) })
  let bad := match s.agentOf p with
    | none => false
    | some p => p.mismatched e.k
  if bad then s.mismatch p e.k else s

/-- RDV (R215, R378): its program and the other parties may be held in saved images. -/
def execRdv (h : LHead) (a : Opnd) (s : State) : Out :=
  .next (s.lxword h (needX true [plain a]) (fun s =>
    let ag := s.agent
    let n := s.uval .int a
    match s.progOf ag with
    | none => .bad (ag.flt 0x0A)
    | some p =>
      let k := aget p.rdvCount 0 ag.id
      let next := match ag.nasNext h.nas s.npc with
        | .ok x => x.pc
        | .error _ => s.npc
      let e : Rdv := { ag := ag.id, k := k, n := n, slot := h.slot.val, pc := ag.pc, next := next, clock := ag.lclk }
      let s := s.pushDetached h (.rdv h a) [] n 0
      .ok (s.awake (fun s => s.rdvJoins p.id e)) s.npc))

/-- A party of a program, by its warp id, counts as arrived at a meeting: it has issued its RDV, or has exited (R215). -/
def State.reached (s : State) (p : Agent) (k w : Nat) : Bool :=
  match s.warpOf p.launch w with
  | none => match s.launchOf p.launch with
    | none => true
    | some l => l.exited.contains w || (p.meeting k).any (fun e =>
      s.savedAgents.any (fun a => a.id == e.ag && a.kind == .warp && a.wid.toNat == w))
  | some a => !a.alive || (p.meeting k).any (fun e => e.ag == a.id)

/-- What a party issued before its RDV is complete (R179); of a party that a saved image holds, it is not known to be. -/
def State.clearBefore (s : State) (e : Rdv) : Bool :=
  match s.agentOf e.ag with
  | none => !s.savedAgents.any (fun a => a.id == e.ag)
  | some a => match a.inSlot e.slot with
    | none => true
    | some f => a.committed e.clock && a.doneBefore f.no (fun i => match i with
      | .rdv .. => false
      | _ => true)

/-- RDV_MEETING_COMPLETE (R179, R215): the earliest unfinished meeting of a program completes once every party has reached it and
what they issued before it is complete. -/
def execRdvMeetingComplete (ag : Nat) (s : State) : Out :=
  .next (match s.agentOf ag with
    | none => s
    | some p => match sortNat (p.rdvs.map (·.k)) with
      | [] => s
      | k :: _ =>
        let es := p.meeting k
        if !((p.status == .retired || es.any (fun e => e.ag == ag)) && p.parties.all (s.reached p k) && es.all s.clearBefore) then s
        else
          let s := s.upd ag (fun p => { p with rdvs := p.rdvs.filter (fun e => !(e.k == k)) })
          es.foldl (fun s e => match s.agentOf e.ag with
            | none => s
            | some a =>
              (s.slotDone e.ag e.slot).trace a.ctx { kind := 7, die := a.die, source := a.core, code := e.slot, wid := a.wid.toNat,
                                                     arg := e.n.toNat, payload := 0 }) s)

end Sys2Proof.Machine
end

