-- ==== Sys2Proof/Machine/Glaze.lean ====
section
/-! DEFINITION. Glazes and row requests: GZREG, GZDEL, GZHOLD, GZPOS (R146-R152, R158, R331-R334, R336), GZREQ and its acceptance
(R153, R154, R335), restores of the sweep (R141) and demand activations (R155-R157). -/

namespace Sys2Proof.Machine

/-- A detached word of an agent ends with a fault that is recorded, and its slot completes (R286, R336). One that would add a faulting page
to the 512 that are outstanding waits (R138). -/
def State.failDetached (s : State) (id slot pc cause addr : Nat) : State :=
  match s.agentOf id with
  | none => s
  | some ag =>
    if cause = 0x07 && s.pageWait ag.die ag.ctx addr then s
    else ((s.faulting ag.die ag.ctx addr cause).upd id (fun a => a.detachedFault slot pc cause addr)).slotDone id slot

/-- A word of the G path waits for the agent's earlier accesses to reach the controllers (R159, R333). -/
def Agent.reachedAfter (a : Agent) (f : Inflight) : Bool :=
  a.inflight.all (fun g => g.finished || decide (f.no ≤ g.no) || (memOp g.instr).isNone)

/-- No earlier GZPOS of the agent is still on its way to the bank controller (R333). -/
def Agent.posFirst (a : Agent) (f : Inflight) : Bool :=
  a.inflight.all (fun g => g.finished || decide (f.no ≤ g.no) || !isGzpos g.instr)

/-! ## GZREG -/

/-- GZREG (R146-R149, R334): the descriptor is read at issue, after the warp's earlier stores to it; log 31. -/
def execGzreg (h : LHead) (d a : Opnd) (s : State) : Out :=
  .next (s.lxword h { needX false [pairSrc a] with dst := some d, badE := notK a } (fun s =>
    let ag := s.agent
    let va := ag.pairOf a
    let m := s.storesOver va 64
    let push (s : State) (ws : List Word) : State :=
      s.push { s.inflight0 h.slot.val h.la.val (.gzreg h d a) with dests := regRun d 1, detached := true, dv := [ws],
                                                                   base := BitVec.ofNat 64 va }
    if va % 64 ≠ 0 then badAt 0x09 va
    else if m ≠ 0 then s.holdFor h.nas (.slots m)
    else match s.get ag ag.lclk (.glob va false) 64 .read with
      | .wait => s.stayFor h.nas (s.joinVa ag va)
      | .fault c => if c = 0x07 && s.pageWait ag.die ag.ctx va then s.stayFor h.nas s else .ok ((push s []).failDetached ag.id h.slot.val ag.pc c va) s.npc
      | .ok s (_, true) => .ok ((push s []).failDetached ag.id h.slot.val ag.pc 0x17 va) s.npc
      | .ok s (bs, false) => .ok (push s ((wordsOf bs).map (BitVec.ofNat 32))) s.npc))

/-- The 64 KiB pages that a run of rows touches: their VAs, and the first VA of the run in each. -/
def glazePages (va rows : Nat) : List (Nat × Nat) :=
  if rows = 0 then []
  else (span (va / 65536) ((va + 1024 * rows - 1) / 65536 + 1)).map (fun p => (p, max va (65536 * p)))

/-- What the pages of a region give: their translations in order, or the causes found. -/
def State.glazeXl (s : State) (ag : Agent) (va rows : Nat) (a : Acc) : List (Nat × Except Nat Xl) :=
  (glazePages va rows).map (fun p => (p.2, s.pageAt ag.ctx ag.die p.2 a))

/-- The first page with a cause. -/
def firstPage (l : List (Nat × Except Nat Xl)) (c : Nat) : Option Nat :=
  l.findSome? (fun e => match e.2 with
    | .error k => if k = c then some e.1 else none
    | .ok _ => none)

/-- The first page whose check failed with any cause. -/
def anyPage (l : List (Nat × Except Nat Xl)) : Option (Nat × Nat) :=
  l.findSome? (fun e => match e.2 with
    | .error k => some (k, e.1)
    | .ok _ => none)

/-- The physical pages of translations that all succeeded. -/
def pagesOf (l : List (Nat × Except Nat Xl)) : List Xl :=
  l.filterMap (fun e => match e.2 with
    | .error _ => none
    | .ok x => some x)

/-- The operation that OPC names (R144). -/
def rowOpOf (n : Nat) : Option RowOp :=
  match n with
  | 1 => some .addc
  | 2 => some .mulc
  | 3 => some .fmac
  | 4 => some .clmp
  | 5 => some .zero
  | 6 => some .axpby
  | _ => none

/-- The element type that ELT names (R143). -/
def eltOf (n : Nat) : Elt :=
  match n with
  | 0 => .i32
  | 1 => .f32
  | 2 => .i16x2
  | _ => .bf16x2

/-- A SWEPT page of a die. -/
def Xl.sweptOn (x : Xl) (die : Nat) : Bool := x.leaf.swept && x.place == .stack die

/-- The physical row addresses of a region, given its pages. -/
def rowsFrom (va rows : Nat) (xs : List Xl) : List Nat :=
  let pas := xs.map (fun x => x.pa / 65536 * 65536)
  (List.range rows).map (fun i => pas.getD ((va % 65536 / 1024 + i) / 64) 0 + (va % 65536 / 1024 + i) % 64 * 1024)

/-- The checks of R147 on a descriptor, in the order of its table: the region, or the cause and address. The pages that a non-zero PBASE
names are checked whatever the operation, before cause 0x18 for it (DESIGN CHOICE); log 34. -/
def State.glazeCheck (s : State) (ag : Agent) (dva : Nat) (n : Nat) : Except (Nat × Nat) Region :=
  let rows := rfield n 4 4
  let base := rfield n 8 8
  let pbase := rfield n 0x18 8
  let per := rfield n 2 2
  let elt := eltOf (fld n 8 2)
  let sat := bit n 10
  let c0 := BitVec.ofNat 32 (rfield n 0x10 4)
  let c1 := BitVec.ofNat 32 (rfield n 0x14 4)
  let few := min rows (2 ^ 26)
  let own := s.glazeXl ag base few .both
  let par := if pbase = 0 then [] else s.glazeXl ag pbase few .read
  let bad : Except (Nat × Nat) Region := .error (0x18, dva)
  match firstPage (own ++ par) 0x07 with
  | some va => .error (0x07, va)
  | none => match anyPage (own ++ par) with
    | some e => .error e
    | none => match rowOpOf (rfield n 0 1) with
      | none => bad
      | some op =>
        let axpby := op == RowOp.axpby
        let mine := rowsFrom base rows (pagesOf own)
        let partner := rowsFrom pbase rows (pagesOf par)
        let delta : Int := ((rowOf (partner.headD 0)).2.2 : Int) - (rowOf (mine.headD 0)).2.2
        if !(fld n 11 5 == 0) || !(rfield n 0x20 32 == 0) || per == 0 || decide (1024 < per) || rows == 0 ||
            decide (2 ^ 26 < rows) || !(base % 1024 == 0) || (sat && (elt == .f32 || elt == .bf16x2)) ||
            (op == .clmp && badClamp elt c0.toNat c1.toNat) || ((pbase == 0) == axpby) ||
            !(pagesOf (own ++ par)).all (fun x => x.sweptOn ag.die) then bad
        else if axpby && (delta == 0 || !(mine.zip partner).all (fun e =>
            (rowOf e.1).2.1 == (rowOf e.2).2.1 && ((rowOf e.2).2.2 : Int) - (rowOf e.1).2.2 == delta)) then bad
        else .ok { ctx := ag.ctx, op := op, elt := elt, sat := sat, per := per, c0 := c0, c1 := c1, nrows := rows,
                   pages := (pagesOf own).map (fun x => x.pa / 65536 * 65536), first := base % 65536 / 1024,
                   delta := if axpby then delta else 0, base := base, desc := dva, t0 := s.time * 512, win0 := 0, holds := [], applied := [] }

/-- The rows of a region. -/
def Region.rowList (g : Region) : List Nat := (List.range g.nrows).map g.rowAt

/-- The budget of R157 with a region added. -/
def State.budgetOk (s : State) (die : Nat) (g : Region) : Bool :=
  let idx := g.rowList.map (fun pa => (rowOf pa).2.2)
  idx.eraseDups.all (fun r => decide (s.load die r + g.weight * (idx.filter (· == r)).length ≤ 896))

/-- A region registered, or refused (R149): the value for k[d], of several that apply the first of the table (DESIGN CHOICE); log 34. -/
def State.register (s : State) (die : Nat) (g : Region) : State × Word :=
  let d := s.die die
  match (List.range 64).find? (fun h => (aget? d.regions h).isNone) with
  | none => (s, 0x80000001)
  | some h =>
    if !s.budgetOk die g then (s, 0x80000002)
    else if g.rowList.any (fun pa => (d.regionAt pa).isSome) then (s, 0x80000003)
    else (s.setDie die { d with regions := aset d.regions h g }, BitVec.ofNat 32 h)

/-- The instant of a GZREG (R147, R149). -/
def State.performGzreg (s : State) (ag : Agent) (slot : Nat) (f : Inflight) : State :=
  let n := entryNat (f.dv.headD [])
  match s.glazeCheck ag f.base.toNat n with
  | .error (c, va) => s.failDetached ag.id slot f.pc c va
  | .ok g =>
    let (s, w) := s.register ag.die g
    s.doneK ag.id slot [w]

/-! ## GZDEL, GZHOLD, GZPOS -/

/-- What GZDEL and GZHOLD ask. -/
def State.handleWord (s : State) (h : LHead) (i : Instr) (a : Opnd) : State :=
  s.lxword h (needX false [plain a]) (fun s =>
    let w := s.uval .int a
    if 63 < w.toNat then .bad (s.agent.flt 0x0E) else .ok (s.pushDetached h i [] w 0) s.npc)

/-- GZDEL goes to the partition (R152, R331). -/
def execGzdel (h : LHead) (a : Opnd) (s : State) : Out := .next (s.handleWord h (.gzdel h a) a)

/-- GZHOLD goes to the partition (R151, R332). -/
def execGzhold (h : LHead) (a : Opnd) (res : Bool) (s : State) : Out := .next (s.handleWord h (.gzhold h a res) a)

/-- The instant of a GZDEL or GZHOLD: the region changed, or cause 0x18 (R336). -/
def State.performHandle (s : State) (ag : Agent) (slot : Nat) (f : Inflight) (g : Assoc Region → Nat → Region → Assoc Region) : State :=
  let h := (f.av.getD 0 0).toNat
  let d := s.die ag.die
  match (aget? d.regions h).filter (fun r => r.ctx == ag.ctx) with
  | none => s.failDetached ag.id slot f.pc 0x18 (Config.glazeVa h)
  | some r => (s.setDie ag.die { d with regions := g d.regions h r }).slotDone ag.id slot

/-- A region held or resumed at an instant (R151). -/
def Region.setHold (r : Region) (now : Nat) (hold : Bool) : Region :=
  if r.heldAt now == hold then r else { r with holds := (now, hold) :: r.holds }

/-- GZPOS goes to the bank (R158, R333). -/
def execGzpos (h : LHead) (d a : Opnd) (s : State) : Out :=
  .next (s.lxword h { pairDst (needX false [pairSrc a]) d with badE := notK a } (fun s =>
    .ok (s.push { s.inflight0 h.slot.val h.la.val (.gzpos h d a) with
                  dests := regRun d 2, detached := true, base := BitVec.ofNat 64 (s.agent.pairOf a) }) s.npc))

/-- The sample of a GZPOS (R158). -/
def State.performGzpos (s : State) (ag : Agent) (slot : Nat) (f : Inflight) : State :=
  let va := f.base.toNat
  match s.pageAt ag.ctx ag.die va .read with
  | .error c => s.failDetached ag.id slot f.pc c va
  | .ok x =>
    if !(x.place == .stack ag.die) then s.failDetached ag.id slot f.pc 0x18 va
    else
      let (pos, wrap) := s.position ag.die (rowOf x.pa).2.1
      s.doneK ag.id slot [BitVec.ofNat 32 (pos + ((s.die ag.die).sweepAt s.time).hot.toNat * 65536), BitVec.ofNat 32 wrap]

/-! ## GZREQ -/

/-- GZREQ goes to the controller; the next word waits for its acceptance (R153, R154, R335). -/
def execGzreq (h : LHead) (d a b : Opnd) (op : RowOp) (elt : Elt) (sat now : Bool) (s : State) : Out :=
  let srcs := if op == RowOp.zero then [pairSrc a] else [pairSrc a, pairSrc b]
  .next (s.lxword h { needX false srcs with
      dst := some d, badE := notK a || (!(op == RowOp.zero) && notK b) } (fun s =>
    let ag := s.agent
    let va := ag.pairOf a
    let c := if op == RowOp.zero then 0 else ag.pairOf b
    if va % 1024 ≠ 0 then badAt 0x09 va
    else if s.isDet ag && !s.detNow ag then s.holdFor h.nas .det
    else
      let id := s.handles + 1
      let q : Req :=
        { id := id, die := ag.die, bank := 0, row := 0, op := op, elt := elt, sat := sat, now := now, c0 := BitVec.ofNat 32 c,
          c1 := BitVec.ofNat 32 (c / 2 ^ 32), ctx := ag.ctx, ag := ag.id, slot := h.slot.val, va := va, accepted := false, entry := 0,
          time := s.time }
      let s := { s.fresh1 with reqs := s.reqs ++ [q] }
      .ok (s.pushDetached h (.gzreq h d a b op elt sat now) (regRun d 1) 0 id) s.npc))

/-- A request ends with a fault: it is recorded, and the slot completes with no token. -/
def State.dropReq (s : State) (q : Req) (pc cause addr : Nat) : State :=
  if cause = 0x07 && (s.agentOf q.ag).any (fun a => s.pageWait a.die a.ctx addr) then s
  else ({ s with reqs := s.reqs.filter (fun r => !(r.id == q.id)) }).failDetached q.ag q.slot pc cause addr

/-- REQUEST_ACCEPT (R153, R154): the request enters its bank's queue while the queue has room and the row index a unit. It takes the lowest
free of the 16 entries (DESIGN CHOICE); log 34. -/
def execRequestAccept (ag slot : Nat) (s : State) : Out :=
  .next (match s.agentOf ag, s.reqs.find? (fun q => q.ag == ag && q.slot == slot && !q.accepted) with
    | some a, some q => match a.inSlot slot with
      | none => { s with reqs := s.reqs.filter (fun r => !(r.id == q.id)) }
      | some f =>
        if !a.reachedAfter f || !a.posFirst f then s
        else match s.pageAt a.ctx a.die q.va .both with
          | .error c => s.dropReq q f.pc c q.va
          | .ok x =>
            if !x.sweptOn a.die || (q.op == RowOp.clmp && badClamp q.elt q.c0.toNat q.c1.toNat) then s.dropReq q f.pc 0x18 q.va
            else
              let (_, bank, row) := rowOf x.pa
              let used := (s.reqs.filter (fun r => r.accepted && r.die == a.die && r.bank == bank)).map (·.entry)
              match (List.range 16).find? (fun i => !used.contains i) with
              | none => s
              | some i =>
                if 896 ≤ s.load a.die row then s
                else
                  let q' := { q with bank := bank, row := row, accepted := true, entry := i, time := s.time }
                  { s with reqs := s.reqs.filter (fun r => !(r.id == q.id)) ++ [q'] }
    | _, _ => s)

/-! ## The sweep -/

/-- ROW_RESTORE (R141, R150, R155): the bank's restore, if the sweep of its die serves it next (R157). -/
def execRowRestore (die bank : Nat) (s : State) : Out :=
  .next (match (s.nextRestore die).filter (fun e => e.bank == bank) with
    | none => s
    | some e => s.restore die e)

/-- DEMAND_ACTIVATION (R155-R157): the row is opened, if its activation starts next in the slot. -/
def execDemandActivation (die bank row : Nat) (s : State) : Out :=
  .next (if s.nextDemand die = some (bank, row) then s.demandRow die bank row else s)

end Sys2Proof.Machine
end

