-- ==== Sys2Proof/Machine/Frames.lean ====
section
/-! DEFINITION. Trap frames as they are read back (R252, R253, R257), register images (R44, R45) and park images (R260). -/

namespace Sys2Proof.Machine

/-! ## Frames read back -/

/-- The head of a word that a replay entry may hold (R253). -/
def replayHead (i : Instr) : Option LHead :=
  match i with
  | .ldV h .. | .ldU h .. | .stV h .. | .stU h .. | .atomV h .. | .atomU h .. | .redV h .. | .redU h .. | .pftV h .. | .pftU h ..
  | .bld h .. | .bst h .. | .vperm h .. => some h
  | _ => none

/-- The destination registers of such a word. -/
def replayDests (i : Instr) : List Reg :=
  let n := match memOp i with
    | some m => m.dests
    | none => 1
  match i with
  | .ldV _ d .. | .ldU _ d .. | .atomV _ d .. | .atomU _ d .. | .bld _ d .. | .vperm _ d .. => regRun d n
  | _ => []

/-- Whether it is of the uniform class. -/
def replayUnif (i : Instr) : Bool :=
  match memOp i with
  | some m => m.unif
  | none => false

/-- A replay entry: whether it is to be replayed, its slot, and the word with what it captured. -/
structure Entry where
  v : Bool
  slot : Nat
  cbm : Mask
  f : Option Inflight
  deriving DecidableEq, Repr

/-- A frame as TRET finds it. -/
structure Frame where
  rpc : Nat
  exm : Mask
  live : Mask
  arr : Bool
  j0 : Nat
  j1 : Nat
  msk : List MaskEntry
  link : List Nat
  loops : List Loop
  lc : List Word
  k : List Word
  entries : List Entry
  deriving DecidableEq, Repr

/-- 32 words at an offset of a number. -/
def lanesAt (n off step : Nat) : List Word := (List.range 32).map (fun t => BitVec.ofNat 32 (rfield n (off + step * t) 4))

/-- A replay entry read from its 960 bytes; none where R257 refuses it. -/
def readEntry (table : Option (List (BitVec 16))) (n : Nat) : Option Entry :=
  let st := rfield n 0x14 4
  let slot := fld st 0 3
  let cbm := BitVec.ofNat 32 (rfield n 0x10 4)
  if !(fld st 4 4 == 0) || !(fld st 16 16 == 0) || !(rfield n 0x1C 4 == 0) || !(rfield n 0x33C 132 == 0) then none
  else if !bit st 3 then some { v := false, slot := slot, cbm := cbm, f := none }
  else match decode table (rfield n 0 8) with
    | .error _ => none
    | .ok i => match replayHead i with
      | none => none
      | some h =>
        if !(h.slot.val == slot) then none
        else
          let f : Inflight :=
            { slot := slot, instr := i, word := BitVec.ofNat 64 (rfield n 0 8), pc := rfield n 0x08 6, la := h.la.val,
              left := h.la.val + 1, e := fullMask, base := BitVec.ofNat 64 (rfield n 0x28 8), av := lanesAt n 0x30 4,
              bv := lanesAt n 0xB0 4, dv := (List.range 4).map (fun j => lanesAt n (0x130 + 4 * j) 16),
              pa := BitVec.ofNat 32 (rfield n 0x330 4), pb := BitVec.ofNat 32 (rfield n 0x334 4),
              pd := BitVec.ofNat 32 (rfield n 0x338 4), dests := replayDests i, detached := false, finished := false, ecause := 0,
              fmask := 0, eaddr := 0, part := 0, pwNo := 0, alone := true, aux := 0, hnd := false, no := 0 }
          some { v := true, slot := slot, cbm := cbm, f := some f }

/-- The loop ends of a frame nest (R64). -/
def loopsNest : List Loop → Bool
  | a :: b :: l => decide (b.stop < a.stop) && loopsNest (b :: l)
  | _ => true

/-- A frame read from its 8,192 bytes; none where R257 refuses it; log 22. -/
def readFrame (table : Option (List (BitVec 16))) (bs : List Byte) : Option Frame :=
  let n := leNat (bs.take 512)
  let st := rfield n 0x28 4
  let cnt := fld n 16 4
  let loops : List Loop := (List.range (fld st 12 2)).map (fun i =>
    { start := rfield n (0x100 + 16 * i) 6, stop := rfield n (0x108 + 16 * i) 6 })
  if !(fld n 11 5 == 0) || !(fld n 20 12 == 0) || !(rfield n 0x16 2 == 0) || !(rfield n 0x1E 2 == 0) || !(fld st 5 3 == 0) ||
      !(fld st 14 18 == 0) || !(rfield n 0x2C 4 == 0) || !(rfield n 0x36 2 == 0) || !(rfield n 0x3E 2 == 0) ||
      !(rfield n 0x13C 4 == 0) || !(rfield n 0x150 176 == 0) || decide (16 < fld st 0 5) || decide (8 < fld st 8 4) ||
      decide (8 < cnt) || !loopsNest loops then none
  else match (List.range cnt).mapM (fun i => readEntry table (leNat ((bs.drop (0x200 + 960 * i)).take 960))) with
    | none => none
    | some es =>
      some { rpc := rfield n 0x18 6, exm := BitVec.ofNat 32 (rfield n 0x20 4), live := BitVec.ofNat 32 (rfield n 0x24 4), arr := bit n 10,
             j0 := rfield n 0x30 6, j1 := rfield n 0x38 6,
             msk := ((List.range (fld st 0 5)).map (fun i => ({ outer := BitVec.ofNat 32 (rfield n (0x40 + 8 * i) 4),
                                                                alt := BitVec.ofNat 32 (rfield n (0x44 + 8 * i) 4) } : MaskEntry))).reverse,
             link := ((List.range (fld st 8 4)).map (fun i => rfield n (0xC0 + 8 * i) 6)).reverse, loops := loops,
             lc := (List.range 3).map (fun i => BitVec.ofNat 32 (rfield n (0x130 + 4 * i) 4)),
             k := (List.range 4).map (fun i => BitVec.ofNat 32 (rfield n (0x140 + 4 * i) 4)), entries := es }

/-! ## Register images (R44) -/

/-- The code of a tag. -/
def Tag.code : Tag → Nat
  | .u _ => 0
  | .a .. => 1
  | .g => 2

/-- The packed entry of a varying register. -/
def VReg.packed (r : VReg) : List Byte :=
  match r.tag with
  | .u x => leBytes 4 x.toNat
  | .a b d => leBytes 4 b.toNat ++ leBytes 4 d.toNat
  | .g => laneBytes r.lanes

/-- Bits put together, the first the lowest; each `w` wide. -/
def packBits (w : Nat) (l : List Nat) : Nat := l.foldr (fun x a => x % 2 ^ w + 2 ^ w * a) 0

/-- The register image of a warp (R44). -/
def Agent.regImage (ag : Agent) : List Byte :=
  let v (n : Nat) : VReg := aget ag.v VReg.zero n
  let ns := List.range ag.vn
  let area := ns.flatMap (fun n => (v n).packed)
  let bad (n : Nat) : Bool := (v n).tag == .g && !((v n).poison == 0)
  leBytes 64 (packBits 2 (ns.map (fun n => (v n).tag.code))) ++ leBytes 32 (packBits 1 (ns.map (fun n => (bad n).toNat))) ++
    (List.range 64).flatMap (fun i => leBytes 4 (ag.kreg i).toNat) ++
    (List.range 32).flatMap (fun i => leBytes 4 (aget ag.a AReg.zero i).base.toNat ++ leBytes 4 (aget ag.a AReg.zero i).stride.toNat) ++
    leBytes 4 (packBits 1 ((List.range 32).map (fun i => (aget ag.a AReg.zero i).o.toNat))) ++
    (List.range 8).flatMap (fun i => leBytes 4 (aget ag.p 0 i).toNat) ++ leBytes 2 ag.b.toNat ++ leBytes 2 ag.vn ++
    leBytes 4 ag.wst.toNat ++ leBytes 4 area.length ++ area ++ (ns.filter bad).flatMap (fun n => leBytes 4 (v n).poison.toNat)

/-- What a register image restores. -/
structure RegImage where
  vn : Nat
  v : Assoc VReg
  k : Assoc Word
  a : Assoc AReg
  p : Assoc Mask
  b : BitVec 4
  wst : BitVec 3
  /-- length of the image -/
  len : Nat
  deriving DecidableEq, Repr

/-- A number read from bytes. -/
def bytesNat (bs : List Byte) (off n : Nat) : Nat := leNat ((bs.drop off).take n)

/-- Varying registers from `i` on, read from the packed area; their tags are given. -/
def unpackRegs (bs : List Byte) (pois : Nat → Mask) : List Nat → Nat → Nat → Assoc VReg
  | [], _, _ => []
  | c :: cs, i, off =>
    let w (j : Nat) : Word := BitVec.ofNat 32 (bytesNat bs (off + 4 * j) 4)
    let r : VReg :=
      if c = 0 then { lanes := List.replicate 32 (w 0), poison := 0, tag := .u (w 0) }
      else if c = 1 then { lanes := (List.range 32).map (fun t => w 0 + BitVec.ofNat 32 t * w 1), poison := 0, tag := .a (w 0) (w 1) }
      else { lanes := (List.range 32).map w, poison := pois i, tag := .g }
    (i, r) :: unpackRegs bs pois cs (i + 1) (off + (if c = 0 then 4 else if c = 1 then 8 else 128))

/-- A register image read; none where R45 rejects it. A tag of 01 or 10 for a register at or above VN, which R44 says holds 00, rejects it
too (DESIGN CHOICE); log 28. -/
def readRegs (bs : List Byte) : Option RegImage :=
  let tags := bytesNat bs 0 64
  let map := bytesNat bs 0x40 32
  let vn := bytesNat bs 0x286 2
  let len := bytesNat bs 0x28C 4
  let cs := (List.range vn).map (fun i => fld tags (2 * i) 2)
  let area := total (cs.map (fun c => if c = 0 then 4 else if c = 1 then 8 else 128))
  let bad := (List.range vn).filter (fun i => bit map i)
  if !(vn % 8 == 0) || vn == 0 || decide (256 < vn) || cs.contains 3 || !(fld tags (2 * vn) (512 - 2 * vn) == 0) || !(len == area) ||
      (List.range 256).any (fun i => bit map i && !(cs.getD i 0 == 2)) || !(fld (bytesNat bs 0x284 2) 4 12 == 0) ||
      !(fld (bytesNat bs 0x288 4) 3 29 == 0) then none
  else
    let pois (i : Nat) : Mask := match bad.idxOf? i with
      | none => 0
      | some j => BitVec.ofNat 32 (bytesNat bs (0x290 + area + 4 * j) 4)
    some { vn := vn, v := unpackRegs bs pois cs 0 0x290
           k := (List.range 64).map (fun i => (i, BitVec.ofNat 32 (bytesNat bs (0x60 + 4 * i) 4)))
           a := (List.range 32).map (fun i => (i, { base := BitVec.ofNat 32 (bytesNat bs (0x160 + 8 * i) 4),
                                                    stride := BitVec.ofNat 32 (bytesNat bs (0x164 + 8 * i) 4),
                                                    o := bit (bytesNat bs 0x260 4) i }))
           p := (List.range 8).map (fun i => (i, BitVec.ofNat 32 (bytesNat bs (0x264 + 4 * i) 4)))
           b := BitVec.ofNat 4 (bytesNat bs 0x284 2), wst := BitVec.ofNat 3 (bytesNat bs 0x288 4)
           len := 0x290 + area + 4 * bad.length }

/-! ## Park images (R260) -/

/-- The 24 bytes of a binding. -/
def Binding.bytes (x : Binding) : List Byte :=
  let (cl, obj) : Bool × Nat := match x.obj with
    | .global va => (false, va)
    | .scratch off => (false, off)
    | .clasp g => (true, g)
  leBytes 8 x.base ++ leBytes 4 x.len ++ leBytes 4 (x.rs.toNat + 2 * cl.toNat) ++ leBytes 8 obj

/-- The runs of a park image, its frame given as runs; log 28. -/
def Agent.imageRuns (ag : Agent) (record : Nat) (evict : Bool) (frame : List (Nat × List Byte)) : List (Nat × List Byte) :=
  let regs := ag.regImage
  [(0, leBytes 4 (0x2700 + regs.length) ++ leBytes 4 ag.wid.toNat ++ leBytes 8 record ++ leBytes 4 evict.toNat ++
      leBytes 4 ag.binds.length ++ leBytes 4 ag.held.length ++ leBytes 4 0 ++ leBytes 8 ag.lclk ++ List.replicate 24 0)] ++
    frame.map (fun r => (0x40 + r.1, r.2)) ++
    [(0x2040, ag.binds.flatMap Binding.bytes),
     (0x2640, ag.held.flatMap (fun h => leBytes 8 (h.addr / 8 * 8 + h.shared.toNat))),
     (0x26C0, (List.range 8).flatMap (fun i => leBytes 4 (ag.cbmOf i).toNat ++
        leBytes 4 (ag.inflight.any (fun f => f.slot == i && f.detached && !f.finished)).toNat)),
     (0x2700, regs)]

/-- What a park image restores. -/
structure ParkImage where
  evict : Bool
  lclk : Nat
  frame : List Byte
  binds : List Binding
  regs : RegImage
  cbm : List Mask
  deriving DecidableEq, Repr

/-- A binding read back. The layout does not say whether an object lies in scratch: the warp's own entry does. -/
def readBinding (bs : List Byte) (own : Option Binding) (i : Nat) : Option Binding :=
  let at_ := 0x2040 + 24 * i
  let fl := bytesNat bs (at_ + 12) 4
  let obj := bytesNat bs (at_ + 16) 8
  if 3 < fl then none
  else
    let o : ObjRef := if bit fl 1 then .clasp obj
      else match own with
        | some { obj := .scratch _, .. } => .scratch obj
        | _ => .global obj
    some { rs := bit fl 0, base := bytesNat bs at_ 8, len := bytesNat bs (at_ + 8) 4, obj := o }

/-- A park image of a warp read back; none where R260 or R45 refuses it. -/
def Agent.readPark (ag : Agent) (record : Nat) (bs : List Byte) : Option ParkImage :=
  let nb := bytesNat bs 0x14 4
  let nh := bytesNat bs 0x18 4
  match readRegs (bs.drop 0x2700), (List.range nb).mapM (fun i => readBinding bs ag.binds[i]? i) with
  | some r, some binds =>
    if !(bytesNat bs 0 4 == 0x2700 + r.len) || !(bytesNat bs 4 4 == ag.wid.toNat) || !(bytesNat bs 8 8 == record) ||
        decide (1 < bytesNat bs 0x10 4) || decide (64 < nb) || decide (16 < nh) || !(bytesNat bs 0x1C 4 == 0) ||
        !(bytesNat bs 0x28 24 == 0) || !(r.vn == ag.vn) || (List.range nh).any (fun i => !(fld (bytesNat bs (0x2640 + 8 * i) 8) 1 2 == 0)) ||
        (List.range 8).any (fun i => decide (1 < bytesNat bs (0x26C4 + 8 * i) 4)) then none
    else some { evict := bytesNat bs 0x10 4 == 1, lclk := bytesNat bs 0x20 8, frame := (bs.drop 0x40).take 8192, binds := binds,
                regs := r, cbm := (List.range 8).map (fun i => BitVec.ofNat 32 (bytesNat bs (0x26C0 + 8 * i) 4)) }
  | _, _ => none

/-- The warp with what its image restores: what it holds, and the slots of detached words, stay its own (R162, R263). -/
def Agent.restored (ag : Agent) (p : ParkImage) : Agent :=
  { ag with vn := p.regs.vn, v := p.regs.v, k := p.regs.k, a := p.regs.a, p := p.regs.p, b := p.regs.b, wst := p.regs.wst,
            lclk := p.lclk, binds := p.binds,
            cbm := (List.range 8).foldl (fun c i =>
              if ag.inflight.any (fun f => f.slot == i) then c else aset c i (p.cbm.getD i fullMask)) ag.cbm }

end Sys2Proof.Machine
end

