-- ==== Sys2Proof/Machine/Traps.lean ====
section
/-! DEFINITION. Traps and pre-emption: TRAP, BKPT, TRET, GEND, PARK (R256-R258, R260, R304, R330, R369, R396, R397), trap entry
(R254), partial eviction and readmission (R262, R263), and the restore of a park image (R260). -/

namespace Sys2Proof.Machine

/-! ## Words that act after their NAS -/

/-- A word whose effect follows its NAS. `body` gives a fault, a hold, or what is done once the word has issued. -/
def State.issueDo (s : State) (nas : Nas) (need : Need) (guard : Bool) (body : State → Except Res (State → State)) : State :=
  match s.agent.firstFault s.mayPriv need guard with
  | some c => s.raise (s.agent.flt c)
  | none => match s.frameFault need.srcs with
    | some f => s.raise f
    | none => match (if guard then body s else .ok id) with
      | .error (.bad f) => s.raise f
      | .error (.hold s') => s'
      | .error (.ok s' _) => s'
      | .ok act => match s.agent.nasNext nas s.npc with
        | .error c => s.raise (s.agent.flt c)
        | .ok ag => act (({ s with agent := ag }).finish s.agent)

/-- A class-X word that acts after its NAS. -/
def State.xdo (s : State) (h : Head) (need : Need) (body : State → Except Res (State → State)) : State :=
  s.issueDo h.nas need (s.agent.guardU h.g) body

/-- The trap of a word that issues and traps (R252, R255): FPC is the word, RPC the successor that its NAS has selected. A warp that its NAS
leaves with no live thread issues no handler word (R238); a word whose frame has to wait (R138) issues again; log 30. -/
def State.swTrap (was : State) (cause addr : Nat) (s : State) : State :=
  let ag := was.agent
  if ag.handler then s.doubleFault ag.id addr
  else if s.agent.live = 0 then s
  else (s.tryTrap { cause := cause, mask := ag.exm, addr := addr, fpc := ag.pc, rpc := s.agent.pc }).getD was

/-- TRAP (R256, R396). -/
def execTrap (h : Head) (a : Opnd) (s : State) : Out :=
  .next (s.xdo h (needX false [plain a]) (fun s =>
    let n := (s.uval .int a).toNat
    if 127 < n then .error (.bad (s.agent.flt 0x0E)) else .ok (State.swTrap s 0x0B n)))

/-- BKPT (R256, R304). -/
def execBkpt (h : Head) (s : State) : Out := .next (s.xdo h needX (fun s => .ok (State.swTrap s 0x1A 0)))

/-! ## TRET -/

/-- The words that were withdrawn and whose slots are complete now count, each as its slot retires (R192). Those of the code under a handler
wait for its TRET; log 21. -/
def Agent.recounted (a : Agent) : Agent :=
  let (open_, done) := a.clocks.partition (fun e => a.slotBusy e.1)
  if a.handler then a else { a with clocks := open_, lclk := a.lclk + done.length }

/-- A replayed slot retires and its word counts (R192); once every one is complete TRET's wait is over (R257). A warp with no live thread
goes to its end. The end of a TRET is progress of its launch (R266). -/
def State.endReplay (s : State) (id : Nat) : State :=
  match s.agentOf id with
  | none => s
  | some ag => match ag.hold with
    | .replay m =>
      let s := s.upd id Agent.recounted
      if (List.range 8).any (fun i => m.getLsbD i && ag.slotBusy i && !(ag.inSlot i).any ag.overWith) then s
      else
        let s := s.upd id (fun a =>
          { a with hold := a.wait, wait := .none, status := if a.live = 0 then .exiting else a.status, returning := false
                   caught := a.caught && a.handler })
        if ag.returning then s.updLaunch ag.launch (fun l => { l with wdFired := false }) else s
    | _ => s

/-- The agent with what TRET restores from a frame (R257). -/
def Agent.fromFrame (a : Agent) (fr : Frame) (handler : Bool) : Agent :=
  let live := a.live &&& fr.live
  { a with
    k := (List.range 4).foldl (fun k i => aset k (60 + i) (fr.k.getD i 0)) a.k
    lc := (List.range 3).foldl (fun l i => aset l i (fr.lc.getD i 0)) a.lc
    j0 := fr.j0, j1 := fr.j1, loops := fr.loops, msk := fr.msk, link := fr.link, live := live, exm := fr.exm &&& live,
    handler := handler, pc := fr.rpc, arrPending := fr.arr }

/-- A replay entry acts: its word goes in flight for the live threads whose bit is clear, a uniform one whole, with the logical clock at
which it first issued (R192); or, dropped, its slot is complete; log 21. -/
def State.replay (s : State) (e : Entry) : State :=
  match e.f with
  | none => s.me (fun a => a.setCbm e.slot fullMask)
  | some f =>
    let todo := if replayUnif f.instr then (if e.cbm = fullMask then 0 else fullMask) else s.agent.live &&& ~~~e.cbm
    let clock := if s.agent.handler then s.agent.lclk else aget s.agent.clocks s.agent.lclk e.slot
    (if replayUnif f.instr then s else s.track todo).push { f with e := todo, aux := clock, hnd := s.agent.handler }

/-- The steps of TRET for the current agent (R257, R263). -/
def State.applyFrame (s : State) (fr : Frame) (handler : Bool) : State :=
  let s := fr.entries.foldl (fun s e => s.replay e) (s.me (fun a => a.fromFrame fr handler))
  let again := fr.entries.filter (·.v)
  let m := again.foldl (fun m e => m ||| BitVec.ofNat 8 (2 ^ e.slot)) 0
  let s := (s.count s.agent.ctx 0 again.length).me (fun a => { a with hold := .replay m })
  (s.lateNas s.agent.id).endReplay s.agent.id

/-- The frame that TRET finds, or its fault. -/
def State.frameAt (s : State) : Except Flt Frame :=
  let ag := s.agent
  let f := ag.tframe.toNat
  match s.readRun ag.ctx ag.die f 8192 with
  | .error c => .error (Flt.at c f)
  | .ok bs => match readFrame (s.ctx ag.ctx).table bs with
    | none => .error (ag.flt 0x0A)
    | some fr => .ok fr

/-- The rows that the current agent's frame lies in opened (R155). -/
def State.openFrame (s : State) : State := s.touch s.agent.ctx s.agent.die s.agent.tframe.toNat 8192

/-- TRET (R257, R397); log 30. -/
def execTret (h : Head) (s : State) : Out :=
  .next (s.xdo h { needX with handlerOnly := true } (fun s => match s.openFrame.frameAt with
    | .error f => .error (.bad f)
    | .ok fr => .ok (fun s => (s.openFrame.me (fun a => { a with returning := true })).applyFrame fr false)))

/-! ## GEND -/

/-- GEND (R258, R330). -/
def execGend (h : Head) (a : Opnd) (s : State) : Out :=
  .next (s.xdo h { needX false [plain a] with priv := true } (fun s =>
    let ag := s.agent
    let g := s.uval .int a
    if !ag.inGroup g then .error (.bad (ag.flt 0x0A)) else .ok (fun s => (s.endGroup ag.launch g.toNat).retire ag.id)))

/-! ## Eviction -/

/-- The buffers of a launch on a core go with its last evicted warp there, unless it has a live program (R236); log 29. -/
def State.freeBufs (s : State) (l die core : Nat) : State :=
  if s.agents.any (fun a => a.launch == l && ((a.kind == .warp && a.resident && a.die == die && a.core == core) ||
      (a.kind == .seq && !(a.status == .retired)))) then s
  else { s with bufs := s.bufs.filter (fun b => !(b.launch == l && b.die == die && b.core == core)) }

/-- A free image in a context's eviction area (R272). -/
def State.evictVa (s : State) (c : Nat) : Option Nat :=
  let at_ (i : Nat) : Nat := (s.ctx c).desc.evict + 65536 * ((Config.evictSlot s.fresh + i) % 4096)
  ((List.range 4096).map at_).find? (fun va => !s.agents.any (fun a => a.status == .evicted && a.ctx == c && a.image == va))

/-- A warp settled and written to the eviction area (R260, R262, R263): what it holds and its request for an object stay. None: there
is no room for the image, or it cannot be written; log 29. -/
def State.evictWarp (s : State) (id : Nat) : Option State :=
  let s := s.wholeStores id
  match s.agentOf id with
  | none => none
  | some a => match s.evictVa a.ctx, s.launchOf a.launch with
    | some va, some l =>
      let keep := match a.hold with
        | .acq .. => a.hold
        | _ => a.wait
      let s := (s.unhold1 id).upd id (fun a => { a.uncounted with wait := keep })
      match s.agentOf id with
      | none => none
      | some b =>
        let t : Trap := { cause := 0, mask := 0, addr := 0, fpc := b.pc, rpc := b.pc }
        match s.writeRuns b.ctx b.die b.id va (b.imageRuns l.record true (b.frameRuns t)) with
        | .error _ => none
        | .ok s =>
          let s := s.upd id (fun a =>
            { a with status := .evicted, image := va, caught := a.caught || a.inflight.any Inflight.captured,
                     inflight := a.inflight.filter (fun w => !w.captured), arrPending := false })
          some (s.freeBufs b.launch b.die b.core)
    | _, _ => none

/-- The unit of a warp for eviction (R262). -/
def Launch.evictUnit (x : Launch) (w : Nat) : List Nat :=
  if x.det then List.range x.warps
  else sortNat (closure (x.memberSets (fun g => g.drain || g.gang || g.cor || g.pair)) (x.groups.length + 1) [w])

/-- The resident members of a warp's unit. -/
def State.evictees (s : State) (a : Agent) : List Agent :=
  match s.launchOf a.launch with
  | none => []
  | some x => (x.evictUnit a.wid.toNat).filterMap (fun w => (s.warpOf a.launch w).filter Agent.resident)

/-- The rank of a victim (R262): the smaller goes first. Its priority, how late its launch was dispatched, whether its unit holds an
object, and how high the lowest warp of the unit is. -/
def State.victimRank (s : State) (a : Agent) : List Int :=
  match s.launchOf a.launch with
  | none => []
  | some x =>
    let u := s.evictees a
    let low := (u.map (·.wid.toNat)).foldl min a.wid.toNat
    [x.prio, -(x.dispatched : Int), -(a.launch : Int), if u.any (fun b => !b.held.isEmpty) then 1 else 0, -(low : Int)]

/-- Lexicographic order. -/
def lexLt : List Int → List Int → Bool
  | a :: l, b :: m => if a = b then lexLt l m else decide (a < b)
  | _, _ => false

/-- The resident warps that a waiting record of priority `p` may displace (R262). -/
def State.victims (s : State) (vf p : Nat) : List Agent :=
  s.agents.filter (fun a => a.kind == .warp && a.resident && (s.ctx a.ctx).desc.vf == vf && (s.ctx a.ctx).residency == .active &&
    (match s.launchOf a.launch with
      | none => false
      | some x => x.pre && decide (x.prio < p)))

/-- Warps evicted one after another; none if one of them cannot be; log 29. -/
def State.evictAll (s : State) : List Nat → Option State
  | [] => some s
  | i :: l => match s.evictWarp i with
    | none => none
    | some s => s.evictAll l

/-- PARTIAL_EVICTION (R262): the unit of a warp that is next in the victim order is evicted for a ready record that cannot be
placed. -/
def execPartialEviction (ag : Nat) (s : State) : Out :=
  .next (match s.agentOf ag with
    | none => s
    | some a =>
      let vf := (s.ctx a.ctx).desc.vf
      match (s.readyRecs vf).head? with
      | none => s
      | some q =>
        let vs := s.victims vf q.prio
        if s.placeable q || (s.ctx a.ctx).stopped || !vs.any (fun b => b.id == ag) ||
            vs.any (fun b => lexLt (s.victimRank b) (s.victimRank a)) then s
        else ((s.evictAll ((s.evictees a).map (·.id))).getD s).retimed s)

/-! ## Coming back -/

/-- The image of an agent that is not resident, read back; none where it is refused: a frame that it keeps is checked as TRET checks one. -/
def State.imageOf (s : State) (a : Agent) : Option ParkImage :=
  match s.launchOf a.launch, s.readNum a.ctx a.die a.image 4 with
  | some l, .ok n =>
    if n < 0x2700 || 65536 < n then none
    else match s.readRun a.ctx a.die a.image n with
      | .error _ => none
      | .ok bs => match a.readPark l.record bs with
        | none => none
        | some p => if (p.evict || a.handler) && (readFrame (s.ctx a.ctx).table p.frame).isNone then none else some p
  | _, _ => none

/-- A warp back on a core with what its image restores (R260, R263) and the completions that the die held for it (R162); none where the image is
refused. An evicted one performs TRET's
steps; a parked one goes on after its PARK in its mode, its frame copied to its new place. -/
def State.bringBack (s : State) (id core : Nat) : Option State :=
  match s.agentOf id with
  | none => none
  | some a => match s.imageOf a, s.launchOf a.launch with
    | some p, some x =>
      let s := s.allocBufs a.launch x a.die core
      let i := s.freeIndex a.ctx a.die core
      let hold := if a.hold == .notice then .notice else .none
      let s := s.upd id (fun a =>
        { (a.restored p).posted with core := core, ridx := i, status := .live, readySince := s.time, passed := 0, hold := hold, refused := none })
      if p.evict then match readFrame (s.ctx a.ctx).table p.frame with
        | none => none
        | some fr => some (s.within id (fun s => s.applyFrame fr a.handler))
      else if !a.handler then some s
      else
        let f := s.frameVa { a with core := core, ridx := i }
        match s.writeRun a.ctx a.die id f p.frame with
        | .error _ => none
        | .ok s => some (s.upd id (fun a => { a with tframe := BitVec.ofNat 64 f }))
    | _, _ => none

/-- An image was refused: the warp is not admitted, its fault record holds cause 0x0A, and the driver is told (R45, R260). -/
def State.refuseImage (s : State) (a : Agent) : State :=
  (s.upd a.id (fun a => { a with status := .parked, refused := some 0x0A })).notice a.ctx
    { kind := Config.rejectKind s.fresh % 256, wid := a.wid, addr := a.image, poster := none }

/-- The rows that an image lies in opened (R155). -/
def State.openImage (s : State) (a : Agent) : State :=
  match s.readNum a.ctx a.die a.image 4 with
  | .error _ => s
  | .ok n => s.touch a.ctx a.die a.image (min n 65536)

/-- Warps that come back onto one core together; if an image is refused, none of them. -/
def State.bringAll (s : State) (core : Nat) (l : List Agent) : State :=
  let s := l.foldl State.openImage s
  match l.find? (fun a => (s.bringBack a.id core).isNone) with
  | some a => s.refuseImage a
  | none => l.foldl (fun s a => (s.bringBack a.id core).getD s) s

/-- PARK_RESTORE (R260): the driver restores a parked warp on a core of its die, with the partner that was parked with it. -/
def execParkRestore (ag core : Nat) (s : State) : Out :=
  .next (match s.agentOf ag with
    | none => s
    | some a => match s.launchOf a.launch with
      | none => s
      | some x =>
        let both := a :: (match s.partner a with
          | none => []
          | some p => if p.status == .evicted then [p] else [])
        if !(a.status == .parked) || !s.roomFor a.launch x a.die core both then s else (s.bringAll core both).retimed s)

/-- Sets of warps brought back, each on one core: the first on the core named, the others where there is room. -/
def State.bringBlocks (s : State) (l : Nat) (x : Launch) (at_ : List (Nat × Nat)) : List (List Nat) → Option State
  | [] => some s
  | b :: bs =>
    let as := (s.evictedOf l).filter (fun a => b.contains a.wid.toNat)
    match as with
    | [] => s.bringBlocks l x at_ bs
    | a :: _ =>
      let cores := if at_.isEmpty then (coresOf a.die).map (·.2) else at_.map (·.2)
      match cores.find? (fun c => s.roomFor l x a.die c as) with
      | none => none
      | some c => (s.bringAll c as).bringBlocks l x [] bs

/-- WARP_READMIT (R263): the first evicted warp of a launch comes back, with those that are admitted together with it. A ready
record of a higher priority that can be placed goes first (R202). -/
def execWarpReadmit (ag core : Nat) (s : State) : Out :=
  .next (match s.agentOf ag with
    | none => s
    | some a => match s.launchOf a.launch, s.evictOrder a.launch with
      | some x, b :: _ =>
        if !(b.id == ag) || ((s.ctx a.ctx).stopped && x.pre) ||
            (s.readyRecs x.vf).any (fun q => decide (x.queuePrio < q.prio) && s.placeable q) then s
        else ((s.bringBlocks a.launch x [(a.die, core)] (s.backBlocks x a)).getD s).retimed s
      | _, _ => s)

/-! ## PARK -/

/-- The first block of a run that cannot be written as PARK asks: its cause and address. -/
def State.runFault (s : State) (c die va n : Nat) : Option (Nat × Nat) :=
  (blocks (n + 1) va n).findSome? (fun (a, k) => (s.runWritable c die a k false).map (fun e => (e, a)))

/-- The current warp parked with its image at `va` (R260, R369); log 28. -/
def State.parkNow (s : State) (va : Nat) : State :=
  let s := if s.agent.handler then s.openFrame else s
  let ag := s.agent
  let f := ag.tframe.toNat
  let frame := if ag.handler then s.readRun ag.ctx ag.die f 8192 else .ok (List.replicate 8192 0)
  match frame, s.launchOf ag.launch with
  | .ok bs, some l => match s.writeRuns ag.ctx ag.die ag.id va (ag.imageRuns l.record false [(0, bs)]) with
    | .error _ => s.doubleFault ag.id va
    | .ok s' =>
      let s' := s'.me (fun a => { a with status := .parked, image := va, hold := .none })
      let s' := match s'.partner ag with
        | none => s'
        | some p => if p.alive && p.resident then (s'.evictWarp p.id).getD s' else s'
      (s'.retimed s).notice ag.ctx { kind := 1, wid := ag.wid, addr := va, poster := some ag.id }
  | _, _ => s.doubleFault ag.id f

/-- PARK (R236, R256, R260, R369): it waits for the warp's own accesses, whose writes are visible before the notice, and for the arrays of
the die; log 28. -/
def execPark (h : Head) (a : Opnd) (s : State) : Out :=
  .next (s.xdo h { needX false [pairSrc a] with priv := true, badE := notK a } (fun s =>
    let ag := s.agent
    let va := ag.pairOf a
    let m := ag.slotsOf Inflight.captured
    if va % 64 ≠ 0 then .error (badAt 0x09 va)
    else match s.runFault ag.ctx ag.die va (0x2700 + ag.regImage.length) with
      | some (c, x) => .error (badAt c x)
      | none =>
        if m ≠ 0 then .error (s.holdFor h.nas (.slots m))
        else if s.mirrors.any (fun x => x.ag == ag.id && x.copy.isNone && !x.failed) then .error (s.holdFor h.nas .mirror)
        else if s.mops.any (fun o => o.die == ag.die) then .error (s.holdFor h.nas .park)
        else .ok (fun s => s.parkNow va)))

/-! ## Trap entry -/

/-- TRAP_ENTRY (R250, R254): at a word boundary the due trap is taken. -/
def execTrapEntry (ag : Nat) (s : State) : Out :=
  .next (match s.agentOf ag with
    | none => s
    | some a =>
      if (a.status == .live || a.status == .exiting) && a.kind == .warp && s.powered a && a.trapDue then s.within ag State.takeDue else s)

end Sys2Proof.Machine
end

