-- ==== Sys2Proof/Machine/Partition.lean ====
section
/-! DEFINITION. Partitions (R271, R280-R283): settling a context, the exchange with the locket (R16, R236, R264, R267), full saves
(R265), stops and resumes, resets (R161) and the watchdog (R266). -/

namespace Sys2Proof.Machine

/-- A context changed. -/
def State.updCtx (s : State) (c : Nat) (f : Ctx → Ctx) : State := s.setCtx c (f (s.ctx c))

/-! ## Settling in place -/

/-- A word that is replayed after an exchange: a pair-weight load that waits for its partner's goes on waiting (R239, R289); log 43. -/
def Inflight.replays (f : Inflight) : Bool := f.captured && f.pwNo == 0

/-- The slots of some words. -/
def slotsIn (l : List Inflight) : BitVec 8 := l.foldl (fun m f => m ||| BitVec.ofNat 8 (2 ^ f.slot)) 0

/-- A warp settled as eviction settles it, its frame travelling with it (R264): words that have not finished are replayed before its
next word issues, and count as they retire (R192); log 43. -/
def Agent.settled (a : Agent) : Agent :=
  let again := slotsIn (a.inflight.filter Inflight.replays)
  let wait := match a.hold with
    | .acq .. => a.hold
    | _ => a.wait
  let was := match a.hold with
    | .replay m => m
    | _ => 0
  { a.uncountedBy Inflight.replays with
    inflight := a.inflight.map (fun f =>
      if f.replays then { f with alone := true, ecause := 0, fmask := 0, eaddr := 0 }
      else if f.captured then { f with ecause := 0, fmask := 0, eaddr := 0 } else f)
    wait := if again ||| was = 0 then .none else wait
    hold := if again ||| was = 0 then (if a.hold == .notice then .notice else wait) else .replay (again ||| was)
    caught := a.caught || !(again == 0) }

/-- The words that an exchange makes a warp replay counted, and the track cycles that their threads take again (R276). -/
def State.countReplays (s : State) (a : Agent) : State :=
  let l := a.inflight.filter Inflight.replays
  (s.count a.ctx 0 l.length).count a.ctx 1 ((l.map (fun f =>
    if (memOp f.instr).any (·.unif) then 0 else (threadsOf (f.e &&& ~~~(a.cbmOf f.slot))).length)).foldl (· + ·) 0)

/-- The resident warps of a context settled. -/
def State.settleCtx (s : State) (c : Nat) : State :=
  (s.agents.filter (fun a => a.kind == .warp && a.ctx == c && a.resident)).foldl (fun s a =>
    let s := s.wholeStores a.id
    let s := match a.hold with
      | .clasp .. => s.unhold1 a.id
      | _ => s
    match s.agentOf a.id with
    | none => s
    | some a => (s.countReplays a).upd a.id Agent.settled) s

/-- A die whose arrays have finished and whose sequencers have stopped (R236). -/
def State.drained (s : State) (die : Nat) : Bool := (s.die die).exchanging && !s.mops.any (fun o => o.die == die)

/-- LOCKET_EXCHANGE_REQUEST (R236): the sequencers of the die stop. -/
def execLocketExchangeRequest (die : Nat) (s : State) : Out :=
  .next (if (s.die die).released then s.setDie die { s.die die with exchanging := true } else s)

/-- A die's share of the thermal design power in W (R20, R25). -/
def dieShare : Nat := 270

/-- The power cap that governs a die (R25, R272): that of its active context, at most the die's share; with none, the cap in force stays. -/
def State.capOf (s : State) (die : Nat) : Option Nat :=
  match s.ctxIn die .active with
  | none => (s.die die).cap
  | some c => some (min (s.ctx c).desc.cap dieShare)

/-- The cap of a die's active context comes into force; after a raise the arrays ramp again (R24). -/
def State.recap (s : State) (die : Nat) : State :=
  let d := s.die die
  let w := s.capOf die
  let raised := match d.cap, w with
    | some was, some now => decide (was < now)
    | _, _ => false
  s.setDie die { d with cap := w, ramp := if raised then [] else d.ramp }

/-- The completions that the die held for the agents of a context are posted, now that they are back (R162). -/
def State.postCtx (s : State) (c : Nat) : State :=
  s.updAll (fun a => if a.ctx = c && !s.away a then a.posted else a)

/-- Nanoseconds of an exchange: 1,536 cycles (R16). -/
def exchangeTime : Nat := 1920

/-- The launches of a context whose timers expire while it is exchanged out (R267); log 43. -/
def State.expiring (s : State) (c : Nat) : Bool :=
  s.launches.any (fun e => s.timerRuns e.1 && s.agents.any (fun a => a.launch == e.1 && a.ctx == c) &&
    decide (e.2.wdStart + 1000 * (s.ctx c).desc.watchdog ≤ s.time + exchangeTime))

/-- LOCKET_EXCHANGE (R16, R162, R264, R267): the active context and the one in the locket change places; every warp of the outgoing one
settles. An expiry of its launches in the meantime marks it SUSPECT; log 43. -/
def execLocketExchange (die : Nat) (s : State) : Out :=
  let d := s.die die
  let act := s.ctxIn die .active
  let loc := s.ctxIn die .locket
  .next (if !s.drained die || !(d.power == .run || d.power == .idle) || (act.isNone && loc.isNone) then s
    else
      let t := match act with
        | none => s
        | some c => (s.settleCtx c).updCtx c (fun x => { x with residency := .locket, suspect := x.suspect || s.expiring c })
      let t := t.later exchangeTime
      let t := match loc with
        | none => t
        | some c => (t.updCtx c (fun x => { x with residency := .active })).postCtx c
      ((t.setDie die { t.die die with exchanging := false }).retimed s).recap die)

/-! ## Reset (R161) -/

/-- A request cancelled: ST = 10 in its token (R161). One that no bank had accepted has no row yet: ROW and BANK read 0 (DESIGN CHOICE);
log 62. -/
def State.cancelReq (s : State) (q : Req) : State := s.finishReq State.demand q (tokenOf 2 false false q.row q.bank)

/-- A submitted record cancelled: its completion word carries ST = 010. -/
def State.cancelRec (s : State) (q : QRec) : State :=
  match s.vfHome q.vf with
  | none => s
  | some (d, c) =>
    let s := s.touch c d q.record 64
    match s.readNum c d q.record 64 with
    | .error e => s.denies c e
    | .ok n => s.putCompletion c d (rfield n 0x38 8) 2

/-- A partition reset (R161, R266, R371): requests, registrations, copies, matrix operations, queued records and launches of the
context go, and its range counters are empty (R213); the launches complete with ST = 010; log 44. -/
def State.resetCtx (s : State) (c : Nat) : State :=
  let x := s.ctx c
  let s := (s.reqs.filter (fun q => q.ctx == c)).foldl (fun s q => s.cancelReq q) s
  let s := s.setDie x.die { s.die x.die with regions := (s.die x.die).regions.filter (fun e => !(e.2.ctx == c)) }
  let gone (l : Nat) : Bool := match s.launchOf l with
    | none => true
    | some y => y.vf == x.desc.vf
  let ids := (s.agents.filter (fun a => gone a.launch)).map (·.id)
  let s := { s with copies := s.copies.filter (fun y => !(y.ctx == c) && !gone y.launch)
                    mops := s.mops.filter (fun o => !(o.ctx == c))
                    mirrors := s.mirrors.filter (fun m => !ids.contains m.ag)
                    waiters := s.waiters.filter (fun w => !ids.contains w.ag) }
  let qs := (s.images.filter (fun i => some i.no == x.imageNo)).flatMap (·.queue) ++ s.queue.filter (fun q => q.vf == x.desc.vf)
  let s := qs.foldl (fun s q => s.cancelRec q) s
  let s := { s with queue := s.queue.filter (fun q => !(q.vf == x.desc.vf))
                    images := s.images.filter (fun i => !(some i.no == x.imageNo)) }
  let s := (s.launches.filter (fun e => e.2.vf == x.desc.vf)).foldl (fun s e => s.retireLaunch e.1 2) s
  s.updCtx c (fun x => { x with suspect := false, stopped := false, imageNo := none, ranges := [], landed := [] })

/-! ## Images (R280) -/

/-- The room of a park image, a multiple of 64 bytes. -/
def parkRoom (l : List (Nat × List Byte)) : Nat := ((l.map (fun e => e.1 + e.2.length)).foldl max 0 + 63) / 64 * 64

/-- A section of an image: its length, and what the spec lays out of it as runs of bytes. -/
structure Section where
  len : Nat
  runs : List (Nat × List Byte)
  deriving DecidableEq, Repr

/-- A section of given bytes, its length a multiple of 64. -/
def Section.of (bs : List Byte) : Section :=
  let n := (bs.length + 63) / 64 * 64
  { len := n, runs := [(0, bs ++ List.replicate (n - bs.length) 0)] }

/-- The park images of an image's warps, one behind another (R260). -/
def Image.warpSection (i : Image) : Section :=
  i.parks.foldl (fun x p => { len := x.len + parkRoom p, runs := x.runs ++ p.map (fun r => (x.len + r.1, r.2)) }) { len := 0, runs := [] }

/-- The bytes of a locket-format core image (R15): 1,888.5 KiB. -/
def coreImage : Nat := 1933824

/-- A ready queue of an image: the addresses of its first and last records. -/
def Image.queueBytes (i : Image) (p : Nat) : List Byte :=
  let l := (i.queue.filter (fun q => q.ready && q.prio == p)).map (·.record)
  leBytes 8 (l.headD 0) ++ leBytes 8 (l.getLast?.getD 0)

/-- An arrival slot of an image: its record, its tag, and whether it is armed. -/
def Ctx.arrivalBytes (x : Ctx) (k : Nat) : List Byte :=
  match aget? x.arrivals k with
  | none => List.replicate 16 0
  | some r => leBytes 8 r.record ++ leBytes 4 r.tag.toNat ++ leBytes 4 1

/-- The progress record of an unfinished copy: descriptor address, bytes done, slot, warp id. -/
def Image.copyBytes (i : Image) (x : Copy) : List Byte :=
  let wid := match i.agents.find? (fun a => a.id == x.ag) with
    | some a => if x.kind == .node then 0xFFFFFFFF else a.wid.toNat
    | none => 0xFFFFFFFF
  leBytes 8 x.descAddr ++ leBytes 8 (x.moved x.done) ++ leBytes 4 x.slot ++ leBytes 4 wid ++ List.replicate 40 0

/-- A region of an image: descriptor, t0, period, the index of the next window, whether it is held. -/
def Region.bytes (g : Region) : List Byte :=
  leBytes 8 g.desc ++ leBytes 8 (g.t0 / 512) ++ leBytes 8 g.per ++ leBytes 8 g.win0 ++ leBytes 8 (g.heldAt 0).toNat ++ List.replicate 24 0

/-- The range counters, the TID table, the mailboxes and the decode table of a context. -/
def Ctx.tableBytes (x : Ctx) : List Byte :=
  (List.range 64).flatMap (fun k =>
    let r := aget x.ranges { next := 0, rem := 0, m := 0, d := 0 } k
    leBytes 4 r.next.toNat ++ leBytes 4 r.rem.toNat ++ leBytes 4 r.m.toNat ++ leBytes 4 r.d.toNat) ++
  (List.range 256).flatMap (fun k => (aget x.tids (List.replicate 16 0) k).flatMap (fun w => leBytes 4 w.toNat)) ++
  (List.range 8).flatMap (fun k => leBytes 8 (aget x.mailboxes 0 k).toNat) ++
  leBytes 8 x.table.isSome.toNat ++ (x.table.getD (List.replicate 1088 0)).flatMap (fun e => leBytes 2 e.toNat)

/-- The 32 counters of a context. -/
def Ctx.counterBytes (x : Ctx) : List Byte := (List.range 32).flatMap (fun k => leBytes 8 (aget x.counters 0 k))

/-- The sections of an image in the order of R280: core images, warps, sequencers, task queues, copies, glazes, tables, counters, grid. What
the spec does not lay out of them is free bytes; log 10. -/
def Image.sections (i : Image) : List Section :=
  [{ len := 32 * coreImage, runs := [] }, i.warpSection, { len := 64 * (Config.imageUnits i.no % 65536 + 1), runs := [] },
   .of ((List.range 8).flatMap i.queueBytes ++ (List.range 256).flatMap i.ctx.arrivalBytes),
   .of (i.copies.flatMap i.copyBytes), .of (i.regions.flatMap (fun e => e.2.bytes)), .of i.ctx.tableBytes, .of i.ctx.counterBytes,
   .of (i.grid.flatMap (fun e => leBytes 8 e.1 ++ leBytes 8 e.2))]

/-- The length of an image's header: offset and length of each section, and 48 reserved bytes; log 10. -/
def headerLen : Nat := 192

/-- The sections with their offsets. -/
def Image.placed (i : Image) : List (Nat × Section) :=
  (i.sections.foldl (fun (l, at_) x => (l ++ [(at_, x)], at_ + x.len)) (([] : List (Nat × Section)), headerLen)).1

/-- The header of an image. -/
def Image.header (i : Image) : List Byte := i.placed.flatMap (fun e => leBytes 8 e.1 ++ leBytes 8 e.2.len) ++ List.replicate 48 0

/-- The length of an image (R287). -/
def Image.len (i : Image) : Nat := headerLen + total (i.sections.map (·.len))

/-- The byte of some runs at an offset. -/
def runByte (l : List (Nat × List Byte)) (j : Nat) : Option Byte := l.findSome? (fun e => if e.1 ≤ j then e.2[j - e.1]? else none)

/-- The bytes of an image (R280); log 10. -/
def Image.bytes (i : Image) : List Byte :=
  let runs := (0, i.header) :: i.placed.flatMap (fun e => e.2.runs.map (fun r => (e.1 + r.1, r.2)))
  (List.range i.len).map (fun j => (runByte runs j).getD (Config.imageByte i.no j))

/-- A section of some bytes that an image's header lays out. -/
def Image.part (i : Image) (bs : List Byte) (k : Nat) : List Byte :=
  let e := i.placed.getD k (0, { len := 0, runs := [] })
  (bs.drop e.1).take e.2.len

/-- Some bytes are those of an image, or have become so by a change of what the spec lays out: its header, its core images and its sequencer
states stand in them; log 10. -/
def Image.names (i : Image) (bs : List Byte) : Bool :=
  let own := i.bytes
  bs.length == own.length && bs.take headerLen == own.take headerLen && i.part bs 0 == i.part own 0 && i.part bs 2 == i.part own 2

/-- The regions, copies and tables that the bytes of an image give (R283); log 10. -/
def Image.read (i : Image) (bs : List Byte) : Image :=
  let num (k off n : Nat) : Nat := bytesNat (i.part bs k) off n
  let w (k off : Nat) : Word := BitVec.ofNat 32 (num k off 4)
  let unit (x : Copy) : Nat := max 1 (x.moved 1)
  { i with
    copies := i.copies.zipIdx.map (fun (x, n) => { x with descAddr := num 4 (64 * n) 8, done := num 4 (64 * n + 8) 8 / unit x })
    regions := i.regions.zipIdx.map (fun (e, n) =>
      (e.1, { e.2 with desc := num 5 (64 * n) 8, t0 := 512 * num 5 (64 * n + 8) 8, per := num 5 (64 * n + 16) 8,
                       win0 := num 5 (64 * n + 24) 8, holds := if num 5 (64 * n + 32) 8 = 0 then [] else [(0, true)] }))
    ctx := { i.ctx with
      ranges := (List.range 64).map (fun k =>
        (k, { next := w 6 (16 * k), rem := w 6 (16 * k + 4), m := w 6 (16 * k + 8), d := w 6 (16 * k + 12) }))
      tids := (List.range 256).map (fun k => (k, (List.range 16).map (fun j => w 6 (1024 + 64 * k + 4 * j))))
      mailboxes := (List.range 8).map (fun k => (k, BitVec.ofNat 64 (num 6 (17408 + 8 * k) 8)))
      table := if num 6 17472 8 = 0 then none else some ((List.range 1088).map (fun k => BitVec.ofNat 16 (num 6 (17480 + 2 * k) 2)))
      arrivals := (List.range 256).filterMap (fun k =>
        if num 3 (128 + 16 * k + 12) 4 = 0 then none
        else some (k, { record := num 3 (128 + 16 * k) 8, tag := BitVec.ofNat 8 (num 3 (128 + 16 * k + 8) 4)
                        by_ := ((aget? i.ctx.arrivals k).map (·.by_)).getD (0, { no := 0, clock := 0 }) }))
      counters := (List.range 32).map (fun k => (k, num 7 (8 * k) 8)) } }

/-- The bytes of the park image of an image's `n`-th warp. -/
def Image.park (i : Image) (bs : List Byte) (n : Nat) : List Byte :=
  ((i.part bs 1).drop (total ((i.parks.take n).map parkRoom))).take (parkRoom (i.parks.getD n []))

/-- A warp stopped for a save (R262, R265, R283): settled, the wait that it keeps set down. -/
def State.stopWarp (s : State) (id : Nat) : State :=
  let s := s.wholeStores id
  match s.agentOf id with
  | none => s
  | some a =>
    let keep := match a.hold with
      | .acq .. | .notice => a.hold
      | _ => a.wait
    (s.unhold1 id).upd id (fun a => { a.uncounted with wait := keep })

/-- The resident warps of a context stopped for a save. -/
def State.stopWarps (s : State) (c : Nat) : State :=
  (s.agents.filter (fun a => a.kind == .warp && a.ctx == c && a.resident)).foldl (fun s a => s.stopWarp a.id) s

/-- The park image of a stopped warp, as runs (R260, R262, R265). -/
def State.parkRuns (s : State) (a : Agent) : List (Nat × List Byte) :=
  let record := match s.launchOf a.launch with
    | some l => l.record
    | none => 0
  a.imageRuns record true (a.frameRuns { cause := 0, mask := 0, addr := 0, fpc := a.pc, rpc := a.pc })

/-- A warp that an image holds by its park image. -/
def Agent.stopped (a : Agent) : Bool := a.kind == .warp && a.resident

/-- What is kept of an agent beside its park image. -/
def Agent.laid (a : Agent) : Agent :=
  if a.stopped then
    { a with caught := a.caught || a.inflight.any Inflight.captured, inflight := a.inflight.filter (fun w => !w.captured), arrPending := false }
  else a

/-- The grid positions of a virtual device's launches (R265). -/
def State.gridOf (s : State) (vf : Nat) : List (Nat × Nat) :=
  (s.launches.filter (fun e => e.2.vf == vf)).map (fun e => (e.2.record, e.2.next.getD e.2.warps))

/-- A context's state gathered into an image, whose bytes go to the save area; what it held on the die is free. -/
def State.saveCtx (s : State) (c : Nat) (regions : Bool) : State :=
  let x := s.ctx c
  let mine (a : Agent) : Bool := a.ctx == c && !(a.status == .vacant)
  let as := s.agents.filter mine
  let scr := as.map (·.scratch)
  let onDie (b : Bufs) : Bool := b.die == x.die && (match s.launchOf b.launch with
    | none => false
    | some l => l.vf == x.desc.vf)
  let now := s.time * 512
  let keep (g : Region) : Region :=
    { g with win0 := g.window now + 1, holds := if g.heldAt now then [(0, true)] else [] }
  let rs := if regions then ((s.die x.die).regions.filter (fun e => e.2.ctx == c)).map (fun e => (e.1, keep e.2)) else []
  let no := s.handles + 1
  let home := s.vfHome x.desc.vf == some (x.die, c)
  let image : Image :=
    { no := no, ctx := x, agents := as.map Agent.laid, regions := rs, copies := s.copies.filter (fun y => y.ctx == c)
      scratches := s.scratches.filter (fun e => scr.contains e.1), bufs := s.bufs.filter onDie
      parks := (as.filter Agent.stopped).map s.parkRuns
      queue := if home then s.queue.filter (fun q => q.vf == x.desc.vf) else []
      reqs := s.reqs.filter (fun q => q.ctx == c && !q.accepted), grid := s.gridOf x.desc.vf }
  let d := s.die x.die
  let s := { s.fresh1 with agent := if mine s.agent then Agent.vacant else s.agent
                           others := s.others.filter (fun a => !mine a)
                           copies := s.copies.filter (fun y => !(y.ctx == c))
                           scratches := s.scratches.filter (fun e => !scr.contains e.1)
                           bufs := s.bufs.filter (fun b => !onDie b)
                           queue := if home then s.queue.filter (fun q => !(q.vf == x.desc.vf)) else s.queue
                           reqs := s.reqs.filter (fun q => !(q.ctx == c && !q.accepted))
                           images := image :: s.images.filter (fun i => !(some i.no == x.imageNo)) }
  let s := if regions then s.setDie x.die { d with regions := d.regions.filter (fun e => !(e.2.ctx == c)) } else s
  let s := s.updCtx c (fun x => { x with residency := .saved, imageNo := some no, tlb := [], noticeWait := [], landed := [] })
  match s.translate c x.die x.desc.save .write with
  | .error e => s.denies c e
  | .ok _ => match s.writeRun c x.die 0 x.desc.save image.bytes with
    | .error e => s.denies c e
    | .ok s => s

/-- A context under the descriptor that firmware has written for it, as the hardware reads it to make it resident (R272). -/
def State.asWritten (s : State) (c : Nat) : State :=
  s.updCtx c (fun x => let (d, b) := x.written.getD (x.desc, x.badDesc); { x with desc := d, badDesc := b, written := none })

/-- The image whose bytes lie in a context's save area, with those bytes. -/
def State.imageIn (s : State) (c : Nat) : Option (Image × List Byte) :=
  let s := s.asWritten c
  let x := s.ctx c
  s.images.findSome? (fun i => match s.readRun c x.die x.desc.save i.len with
    | .error _ => none
    | .ok bs => if i.names bs then some (i, bs) else none)

/-- The rows of a context's save area opened before a resume reads them (R155): the header's, then those of the image that it is of. -/
def State.openSave (s : State) (c : Nat) : State :=
  let was := s.ctx c
  let t := s.asWritten c
  let x := t.ctx c
  let t := t.touch c x.die x.desc.save headerLen
  let t := match t.images.find? (fun i => match t.readRun c x.die x.desc.save headerLen with
    | .error _ => false
    | .ok bs => bs == i.header) with
    | none => t
    | some i => t.touch c x.die x.desc.save i.len
  t.updCtx c (fun x => { x with desc := was.desc, badDesc := was.badDesc, written := was.written })

/-- A region registered again where its pages lie now, its windows counted from the same t0 (R280, R283); none while a page of it cannot be
reached; log 35, log 57. -/
def State.reregister (s : State) (c : Nat) (g : Region) : Option Region :=
  let die := (s.ctx c).die
  let xs := (glazePages g.base g.nrows).map (fun p => s.translate c die p.2 .both)
  let pages := xs.filterMap (fun e => match e with
    | .error _ => none
    | .ok x => some (x.pa / 65536 * 65536))
  if pages.length = xs.length then some { g with ctx := c, pages := pages } else none

/-- Regions registered under their handles, or where one is taken under the lowest free one; none where the partition has no handle or an
index no budget left for one (R149, R157; DESIGN CHOICE: the resume waits); log 57. -/
def State.registerAll (s : State) (c : Nat) : List (Nat × Region) → Option State
  | [] => some s
  | (h, g) :: l =>
    let die := (s.ctx c).die
    let d := s.die die
    match s.reregister c g, if (aget? d.regions h).isNone then some h else (List.range 64).find? (fun i => (aget? d.regions i).isNone) with
    | some g, some h => if s.budgetOk die g then (s.setDie die { d with regions := aset d.regions h g }).registerAll c l else none
    | _, _ => none

/-- The requests for objects that came with a context wait at the homes that their pages lead to now (R263, R283); log 57. -/
def State.rehome (s : State) (c : Nat) : State :=
  { s with waiters := s.waiters.map (fun w => match s.agentOf w.ag with
      | none => w
      | some a => match w.key, a.asked with
        | .mem _, some o | .away .., some o =>
          if a.ctx = c then { w with key := match s.keyOf a o with
            | .ok k => k
            | .error _ => .away c o.addr } else w
        | _, _ => w) }

/-- A stopped warp goes on from its park image (R260, R263, R283): it performs TRET's steps on its frame. An image that R45 or R260 refuses
does not bring it back, and the driver is told. -/
def State.unpark (s : State) (a : Agent) (bs : List Byte) : State :=
  match s.launchOf a.launch with
  | none => s
  | some l => match (a.readPark l.record (bs.take (bytesNat bs 0 4))).bind (fun p => (readFrame (s.ctx a.ctx).table p.frame).map (fun f => (p, f))) with
    | none => s.refuseImage a
    | some (p, f) => (s.upd a.id (fun a => a.restored p)).within a.id (fun s => s.applyFrame f a.handler)

/-- A context can become resident on its die: it is not, the die has a place, and no reserved field of its descriptor is set (R271, R272). -/
def State.canReside (s : State) (c : Nat) : Bool :=
  let x := s.ctx c
  let bad := match x.written with
    | some (_, b) => b
    | none => x.badDesc
  x.residency == .saved && !((s.ctxIn x.die .active).isSome && (s.ctxIn x.die .locket).isSome) && !bad

/-- An image made resident on a context's die from its bytes, with the completions that were held for it (R162, R283). The context that it
was saved from, if another, holds nothing more. None while a region of it cannot be registered. -/
def State.restoreCtx (s : State) (c : Nat) (i : Image) (bs : List Byte) : Option State :=
  let x := s.ctx c
  let res : Residency := if (s.ctxIn x.die .active).isNone then .active else .locket
  let from_ := (s.ctxs.filter (fun e => e.2.residency == .saved && e.2.imageNo == some i.no)).map (·.1)
  let (desc, bad) := x.written.getD (x.desc, x.badDesc)
  let new := i.read bs
  let s := s.setCtx c
    { new.ctx with die := x.die, system := x.system, desc := desc, badDesc := bad, written := none, residency := res, tlb := [],
                   stopped := false, imageNo := none }
  let s : State := { s with ctxs := s.ctxs.map (fun (e : Nat × Ctx) =>
      if !(e.1 == c) && from_.contains e.1 then (e.1, { e.2 with residency := .absent, imageNo := none }) else e) }
  let there : List Agent := (i.agents.filter (fun a => (s.launchOf a.launch).isSome)).map (fun a => { a with ctx := c, die := x.die })
  let s : State := { s with
                    others := s.others ++ there
                    copies := s.copies ++ new.copies.map (fun y => { y with ctx := c, die := x.die })
                    scratches := s.scratches ++ i.scratches
                    bufs := s.bufs ++ (i.bufs.filter (fun b => (s.launchOf b.launch).isSome)).map (fun b => { b with die := x.die })
                    launches := s.launches.map (fun e => if from_.contains e.2.ctx then (e.1, { e.2 with ctx := c }) else e)
                    queue := i.queue ++ s.queue
                    reqs := s.reqs ++ i.reqs.map (fun q => { q with ctx := c, die := x.die })
                    images := s.images.filter (fun j => !(j.no == i.no)) }
  (s.registerAll c new.regions).map (fun s =>
    let s := s.rehome c
    let s := ((i.agents.filter Agent.stopped).zipIdx).foldl (fun s (a, n) => match s.agentOf a.id with
      | none => s
      | some a => s.unpark a (i.park bs n)) s
    (if res == Residency.active then s.postCtx c else s).recap x.die)

/-! ## Full save (R265) -/

/-- FULL_SAVE (R265, R236): dispatch stops; once the launches with PRE = 0 have retired the sequencers stop, and once the arrays have
finished the context is saved; log 43. -/
def execFullSave (ctx : Nat) (s : State) : Out :=
  let x := s.ctx ctx
  let d := s.die x.die
  .next (if !(x.residency == .active) || !d.runs then s
    else if !x.stopped then s.updCtx ctx (fun x => { x with stopped := true })
    else if s.launches.any (fun e => e.2.vf == x.desc.vf && !e.2.pre) then s
    else if !d.exchanging then s.setDie x.die { d with exchanging := true }
    else if !s.drained x.die || s.traces.any (fun e => e.1 == ctx) then s
    else
      let t := (s.stopWarps ctx).saveCtx ctx false
      ((t.setDie x.die { t.die x.die with exchanging := false }).retimed s).recap x.die)

/-! ## Stop (R283) -/

/-- The copies of a context stopped where they may stop, after as many parts as the engine has reached (R283); none while a part that one
must still move has to wait; log 11. -/
def State.stopCopies (s : State) (c : Nat) : Option State :=
  (s.copies.filter (fun y => y.ctx == c)).foldlM (fun s y =>
    let n := Config.copyProgress (s.fresh + y.id) % (512 * (y.units - y.done) + 1)
    let (s, y, f) := s.copyParts y n
    (if f.isSome then some (s, y, f) else s.copyRest y 1024).map (fun (s, y, f) => match f with
      | some e => s.endCopy y y.done (some e)
      | none => { s with copies := s.copies.map (fun z => if z.id = y.id then { y with got := [], put := [] } else z) })) s

/-- The rows that a stop has to open with requests pending on them (R157, R283): those of the context's own requests, and those of its glaze
rows that are due, with their partners. -/
def State.flushRows (s : State) (c : Nat) : List (Nat × Nat × Nat) :=
  let die := (s.ctx c).die
  let now := s.time * 512
  (s.reqs.filter (fun q => q.ctx == c && q.accepted)).map (fun q => (q.die, q.bank, q.row)) ++
    (((s.die die).regions.filter (fun e => e.2.ctx == c)).flatMap (fun e =>
      ((List.range e.2.nrows).filter (fun i => e.2.due i now)).flatMap (fun i =>
        let (_, b, r) := rowOf (e.2.rowAt i)
        (die, b, r) :: (if e.2.op == RowOp.axpby then [(die, b, ((r : Int) + e.2.delta).toNat)] else [])))).filter (fun x =>
      !(s.reqsOn x.1 x.2.1 x.2.2).isEmpty)

/-- They join the order of demand activations, 32 of which start in a slot (R156, R157). -/
def State.joinRows (s : State) (l : List (Nat × Nat × Nat)) : State := l.foldl (fun s x => s.joinRow x.1 x.2.1 x.2.2) s

/-- The rows of running regions that have not been applied in their window applied by demand activation (R283); log 35. -/
def State.flushGlazes (s : State) (c : Nat) : State :=
  let die := (s.ctx c).die
  let now := s.time * 512
  ((s.die die).regions.filter (fun e => e.2.ctx == c)).foldl (fun s e =>
    (List.range e.2.nrows).foldl (fun s i =>
      let g := aget (s.die die).regions e.2 e.1
      if !g.due i now then s
      else
        let pa := g.rowAt i
        (s.activate true die (rowOf pa).2.1 (rowOf pa).2.2).applyGlaze die e.1 g i now) s) s

/-- A context stopped and saved (R283, steps 1, 3, 4 and 5), no request of it being left in a bank. None while a copy cannot stop. -/
def State.stopCtx (s : State) (c : Nat) : Option State :=
  ((s.stopWarps c).stopCopies c).map (fun t => (((t.flushGlazes c).saveCtx c true).retimed s).recap (s.ctx c).die)

/-! ## Watchdog (R266, R267) -/

/-- A launch's timer has expired. -/
def State.expired (s : State) (l : Nat) (x : Launch) : Bool :=
  s.timerRuns l && decide (x.wdStart + 1000 * (s.ctx x.ctx).desc.watchdog ≤ s.time)

/-- WATCHDOG_EXPIRY (R266, R267): the first expiry signals cause 0x19 to every resident warp of the launch, on every die whose active context
is the launch's. -/
def execWatchdogExpiry (launch : Nat) (s : State) : Out :=
  .next (match s.launchOf launch with
    | none => s
    | some x =>
      if x.wdFired || !s.expired launch x then s
      else
        let s := s.updAll (fun a => if a.kind == .warp && a.launch == launch && a.resident && (s.ctx a.ctx).residency == .active then
          { a with wdSignal := true } else a)
        s.updLaunch launch (fun y => { y with wdFired := true, wdStart := s.time }))

/-- WATCHDOG_SECOND_EXPIRY (R266, R267): without a TRET since the first, or in a context marked SUSPECT, the context is reset and
firmware told. -/
def execWatchdogSecondExpiry (launch : Nat) (s : State) : Out :=
  .next (match s.launchOf launch with
    | none => s
    | some x =>
      let suspect := match s.agents.find? (fun a => a.launch == launch && (s.ctx a.ctx).suspect) with
        | none => none
        | some a => some a.ctx
      match suspect, x.wdFired && !x.ended && s.expired launch x with
      | none, false => s
      | c, _ =>
        let c := c.getD x.ctx
        (s.resetCtx c).notice c { kind := 3, wid := 0xFFFFFFFF, addr := 0, poster := none })

end Sys2Proof.Machine
end

