-- ==== Sys2Proof/Machine/System.lean ====
section
/-! DEFINITION. The privileged words of the memory system and of the partitions: TLBI (R137, R391), DTLD (R76, R77, R315), DIRTY
(R282, R313) and PCTL (R281, R283, R287, R370, R371), with the end of a PCTL operation. -/

namespace Sys2Proof.Machine

/-! ## TLBI -/

/-- A cached descriptor covers one of the 64 KiB pages `[p, p + n)`. -/
def TlbEntry.covers (e : TlbEntry) (p n : Nat) : Bool :=
  let k := 2 ^ (pageBits e.level - 16)
  let first := e.page / k * k
  !(n == 0) && decide (first < p + n) && decide (p < first + k)

/-- The cached translations of a virtual device's contexts discarded, where `f` names them (R391); log 45. -/
def State.flushTlb (s : State) (vf : Nat) (f : TlbEntry → Bool) : State :=
  { s with ctxs := s.ctxs.map (fun e =>
      if e.2.desc.vf == vf then (e.1, { e.2 with tlb := e.2.tlb.filter (fun t => !f t) }) else e) }

/-- TLBI (R391): the invalidation is complete on every die before the next word issues; log 45. -/
def execTlbi (h : Head) (a b : Opnd) (all : Bool) (s : State) : Out :=
  .next (s.xword h
    { needX false (if all then [] else [pairSrc a, plain b]) with priv := true, badE := !all && (notK a || notK b) } (fun s =>
    let ag := s.agent
    let p := ag.pairOf a / 2 ^ 16
    let n := (s.uval .int b).toNat
    .ok (s.flushTlb (s.ctx ag.ctx).desc.vf (fun e => all || e.covers p n)) s.npc))

/-! ## DTLD -/

/-- An entry of an opcode's place in a decode table is well formed (R76, R77). The OPN of an entry with V = 0, which names no operation,
is not checked (DESIGN CHOICE); log 45. -/
def opcodeEntryOk (e : Nat) : Bool := fld e 10 5 == 0 && (!bit e 15 || assigned (fld e 0 10))

/-- An entry of the short page is well formed: it names a short-latency operation of class V, U or A. That of an entry with V = 0 is not
checked (DESIGN CHOICE); log 45. -/
def shortEntryOk (e : Nat) : Bool :=
  fld e 8 2 == 0 && fld e 10 5 == 0 && (!bit e 15 || (assigned (fld e 0 8) && (SlotOp.ofByte (fld e 0 8)).isSome))

/-- The 16-bit entries of an image. -/
def halves : List Byte → List (BitVec 16)
  | a :: b :: l => BitVec.ofNat 16 (leNat [a, b]) :: halves l
  | _ => []

/-- A table that R77 admits. -/
def tableOk (t : List (BitVec 16)) : Bool :=
  (t.take 1024).all (fun e => opcodeEntryOk e.toNat) && (t.drop 1024).all (fun e => shortEntryOk e.toNat)

/-- DTLD (R77, R315): its image is read when its slot completes. -/
def execDtld (h : LHead) (a : Opnd) (s : State) : Out :=
  .next (s.lxword h { needX false [pairSrc a] with priv := true, badE := notK a } (fun s =>
    let va := s.agent.pairOf a
    if va % 64 ≠ 0 then badAt 0x09 va
    else .ok (s.push { s.inflight0 h.slot.val h.la.val (.dtld h a) with detached := true, base := BitVec.ofNat 64 va }) s.npc))

/-- The new table comes into force, or the fault is recorded and the old one stays (R77). -/
def State.performDtld (s : State) (ag : Agent) (slot : Nat) (f : Inflight) : State :=
  let va := f.base.toNat
  let s := s.touch ag.ctx ag.die va 2176
  match s.readRun ag.ctx ag.die va 2176 with
  | .error c => s.failDetached ag.id slot f.pc c va
  | .ok bs =>
    let t := halves bs
    if tableOk t then (s.updCtx ag.ctx (fun x => { x with table := some t })).slotDone ag.id slot
    else s.failDetached ag.id slot f.pc 0x1B va

/-! ## DIRTY -/

/-- Bits 64i to 64i + 63 of a dirty array. -/
def Die.dirtyBits (d : Die) (i : Nat) : Nat :=
  (List.range 64).foldl (fun a j => if d.dirty.contains (64 * i + j) then a + 2 ^ j else a) 0

/-- DIRTY (R282, R313): the bits are read and cleared as one step. -/
def execDirty (h : Head) (d a : Opnd) (s : State) : Out :=
  .next (s.xword h { pairDst (needX false [plain a]) d with priv := true, badE := notK d } (fun s =>
    let i := (s.uval .int a).toNat
    let x := s.die s.agent.die
    if 16383 < i then .bad (s.agent.flt 0x0E)
    else
      let s := s.setDie s.agent.die { x with dirty := x.dirty.filter (fun p => !(p / 64 == i)) }
      .ok (s.me (fun ag => ag.putPair d (x.dirtyBits i))) s.npc))

/-! ## PCTL -/

/-- The end of a PCTL operation: its completion word, then its notice (R283, R370); log 44. -/
def State.pctlEnd (s : State) (c die block st : Nat) (wid : Word) : State :=
  (s.putCompletion c die block st).notice c { kind := 6, wid := wid, addr := block, poster := none }

/-- The image that a resume would make resident, with its bytes; none where R371 refuses it. -/
def State.resumable (s : State) (c die block ic : Nat) : Option (Nat × List Byte) :=
  match s.readRun ic die (block + 0x10) 48 with
  | .error _ => none
  | .ok bs => if !s.canReside c || !bs.all (· == 0) then none else (s.imageIn c).map (fun e => (e.1.no, e.2))

/-- A PCTL request refused or accepted (R371). A stop closes dispatch for its context, in the locket too (R283); log 44. -/
def State.pctlAsk (s : State) (kind : PctlKind) (vf c block : Nat) : State :=
  let ag := s.agent
  let s := if kind == .resume then (s.touch ag.ctx ag.die block 64).openSave c else s
  let image := if kind == .resume then s.resumable c ag.die block ag.ctx else none
  let refused := s.pctls.any (fun p => p.vf == vf && p.die == ag.die) || (kind == .stop && c == ag.ctx) ||
    (kind == .resume && image.isNone)
  if refused then s.pctlEnd ag.ctx ag.die block 1 ag.wid
  else
    let p : Pctl :=
      { id := s.handles + 1, kind := kind, vf := vf, die := ag.die, ctx := ag.ctx, ag := ag.id, block := block, image := image }
    let s := { s.fresh1 with pctls := s.pctls ++ [p] }
    if kind == .stop && (s.ctx c).resident then
      let active := (s.ctx c).residency == .active
      let s := s.updCtx c (fun x => { x with stopped := true })
      if active then s.setDie ag.die { s.die ag.die with exchanging := true } else s
    else s

/-- What a PCTL word does at issue (R281, R370). -/
def State.pctlWord (s : State) (h : Head) (kind : PctlKind) (a b : Opnd) : State :=
  s.xword h { needX false [plain a, pairSrc b] with priv := true, badE := notK b } (fun s =>
    let ag := s.agent
    let vf := (s.uval .int a).toNat
    let block := ag.pairOf b
    match s.ctxOn vf ag.die with
    | none => .bad (ag.flt 0x0E)
    | some c =>
      if block % 64 ≠ 0 then badAt 0x09 block
      else match s.translate ag.ctx ag.die block .write with
        | .error e => badAt e block
        | .ok _ => .ok (s.pctlAsk kind vf c block) s.npc)

/-- PCTL.STOP. -/
def execPctlStop (h : Head) (a b : Opnd) (s : State) : Out := .next (s.pctlWord h .stop a b)

/-- PCTL.RESUME. -/
def execPctlResume (h : Head) (a b : Opnd) (s : State) : Out := .next (s.pctlWord h .resume a b)

/-- PCTL.RESET. -/
def execPctlReset (h : Head) (a b : Opnd) (s : State) : Out := .next (s.pctlWord h .reset a b)

/-- The work of an accepted operation, and the status that it ends with (R283, R236); no status while it has to wait: a stop for the arrays, for
the requests that it applies by demand activation (R156) and for what its copies wait for, a resume for its regions. A resume whose
context can no longer become resident is refused (R271, R272); log 44. -/
def State.pctlWork (s : State) (p : Pctl) : State × Option Nat :=
  match s.ctxOn p.vf p.die with
  | none => (s, some 0)
  | some c => match p.kind with
    | .reset => (s.resetCtx c, some 0)
    | .resume => match p.image.bind (fun e => (s.images.find? (fun i => i.no == e.1)).map (fun i => (i, e.2))) with
      | none => (s, some 1)
      | some (i, bs) =>
        if s.canReside c then match s.restoreCtx c i bs with
          | none => (s, none)
          | some t => (t.retimed s, some 0)
        else (s, some 1)
    | .stop =>
      if (s.ctx c).residency == .active && !s.drained p.die then (s, none)
      else if !(s.ctx c).resident then (s, some 0)
      else if !(s.flushRows c).isEmpty then (s.joinRows (s.flushRows c), none)
      else if s.traces.any (fun e => e.1 == c) then (s, none)
      else match s.stopCtx c with
        | none => (s, none)
        | some t =>
          let was := (s.ctx c).residency == .active
          let len := match t.images.find? (fun i => some i.no == (t.ctx c).imageNo) with
            | none => 0
            | some i => i.len
          let t := match t.writeRun p.ctx p.die 0 (p.block + 8) (leBytes 8 len) with
            | .error _ => t
            | .ok t => t
          (if was then t.setDie p.die { t.die p.die with exchanging := false } else t, some 0)

/-- PCTL_COMPLETE (R283): the operation ends, on a die whose clock runs (R285). -/
def execPctlComplete (op : Nat) (s : State) : Out :=
  .next (match s.pctls.find? (fun p => p.id == op) with
    | none => s
    | some p =>
      if !(s.die p.die).runs then s
      else match s.pctlWork p with
        | (t, none) => t
        | (t, some st) =>
          let wid := match s.agentOf p.ag with
            | some a => a.wid
            | none => 0xFFFFFFFF
          ({ t with pctls := t.pctls.filter (fun q => !(q.id == op)) }).pctlEnd p.ctx p.die p.block st wid)

end Sys2Proof.Machine
end

