-- ==== Sys2Proof/Machine/Complete.lean ====
section
/-! DEFINITION. SLOT_COMPLETION and PW_LOAD_MATCH: the accesses of a word in flight come about (R70, R121, R239-R241). -/

namespace Sys2Proof.Machine

/-- What the word in a slot does when it comes about, up to element `upto`, four elements counted for each thread. Words that end by an event of
their own (RDV,
RGET, GZREQ, CPY, TLOAD, TSTOR, matrix operations) do nothing here. -/
def State.perform (s : State) (a : Agent) (slot upto : Nat) (f : Inflight) : State :=
  match memOp f.instr with
  | some m => s.performMem a.id slot upto f m
  | none => match f.instr with
    | .vperm .. => s.performVperm a.id slot upto f
    | .mbxr .. => s.performMbxr a.id slot f
    | .fork .. => s.acceptProgram f.aux
    | .gzreg .. => if a.reachedAfter f then s.performGzreg a slot f else s
    | .gzdel .. => if a.reachedAfter f then s.performHandle a slot f (fun l h _ => adel l h) else s
    | .gzhold _ _ res =>
      if a.reachedAfter f then s.performHandle a slot f (fun l h r => aset l h (r.setHold (s.time * 512) (!res))) else s
    | .gzpos .. => if a.reachedAfter f && a.posFirst f then s.performGzpos a slot f else s
    | .dtld .. => s.performDtld a slot f
    | _ => s

/-- The first program that a forker which has ended still has waiting for a place in a queue (R214). -/
def State.orphan (s : State) (ag : Nat) : Option Agent :=
  (s.agents.filter (fun a => a.status == .waiting && a.forker == ag)).foldl (fun best a => match best with
    | none => some a
    | some b => if a.id < b.id then some a else some b) none

/-- SLOT_COMPLETION: the word in a slot comes about up to element `upto`; a FORK's program enters its queue, its forker
retired or not. -/
def execSlotCompletion (ag slot upto : Nat) (s : State) : Out :=
  .next (match s.agentOf ag with
    | none => s
    | some a =>
      if !(s.ctx a.ctx).resident || !(s.die a.die).runs then s
      else match a.inSlot slot with
        | some f => (s.perform a slot upto f).endReplay ag
        | none => match if a.status == .retired then s.orphan ag else none with
          | none => s
          | some p => s.acceptProgram p.id)

/-- PW_LOAD_MATCH (R239-R241). -/
def execPwLoadMatch (ag slot : Nat) (s : State) : Out :=
  .next (match s.agentOf ag with
    | none => s
    | some a =>
      if !(s.ctx a.ctx).resident then s
      else
        let t := (s.matchLoad ag slot).endReplay ag
        match s.partner a with
        | none => t
        | some p => t.endReplay p.id)

end Sys2Proof.Machine
end

