-- ==== Sys2Proof/Machine/Cross.lean ====
section
/-! DEFINITION. The short-latency words that pass values between threads (R51, R52, R112, R377, R403, R405-R407, R411). -/

namespace Sys2Proof.Machine

/-- A varying register operand. -/
def isVary : Opnd → Bool
  | .v _ => true
  | _ => false

/-- A varying or predicate operand. -/
def isThread : Opnd → Bool
  | .v _ | .p _ => true
  | _ => false

/-- Element `e` of a varying operand: a thread's word, or half of one when `half` (R51). -/
def State.element (s : State) (half : Bool) (o : Opnd) (e : Nat) : Nat :=
  if half then (s.lane .int o (e / 2)).toNat / 2 ^ (16 * (e % 2)) % 65536 else (s.lane .int o e).toNat

/-- What VSLD puts into element `e`: its value and its poison (R51). -/
def State.slid (s : State) (ex : Mask) (half down : Bool) (n : Nat) (a b : Opnd) (e : Nat) : Nat × Bool :=
  let per := if half then 2 else 1
  let t := e / per
  let f := if down then e + n else e - n
  if (down || decide (n ≤ e)) && decide (f < 32 * per) && mbit ex (f / per) then
    (s.element half a f, mbit (s.agent.poisonOf a) (f / per))
  else ((s.lane .int b t).toNat % (if half then 65536 else 2 ^ 32), mbit (s.agent.poisonOf b) t)

/-- VSLD as a typed word (R51). -/
def vsldVt (d a b : Opnd) (half down : Bool) (n : Nat) : Typed :=
  { need := { needV d [plain a, plain b] with bad1 := n == 0, badE := !isVary a }
    eff := fun s e =>
      let r (t : Nat) : Nat × Bool :=
        if half then
          let lo := s.slid e true down n a b (2 * t)
          let hi := s.slid e true down n a b (2 * t + 1)
          (hi.1 * 65536 + lo.1, lo.2 || hi.2)
        else s.slid e false down n a b t
      .ok (s.effV e d (maskOf (fun t => (r t).2)) (fun t => { r := BitVec.ofNat 32 (r t).1 })) }

/-- VSLD (R51, R407). -/
def execVsld (h : Head) (d a b : Opnd) (half down : Bool) (n : Fin 32) (s : State) : Out :=
  .next (s.typed h (vsldVt d a b half down n.val))

/-- One step of a scan or a reduction (R52, R112). -/
def scanStep (op : ScanOp) (o : Origin) (r x : Word) : Val :=
  match op with
  | .add => addF false r x
  | .adds => addF true r x
  | .min => minF false r x
  | .max => maxF false r x
  | .fadd => faddF .rne o r x
  | .fmin => fminmaxF false r x
  | .fmax => fminmaxF true r x

/-- How a scan or a reduction takes an immediate (R31). -/
def scanImm : ScanOp → ImmKind
  | .fadd | .fmin | .fmax => .float .fp32
  | _ => .int

/-- A running value with its poison and saturation, and the results so far, latest thread first. -/
structure Scan where
  r : Word
  p : Bool
  q : Bool
  out : List (Nat × Word × Bool)
  deriving DecidableEq, Repr

/-- A scan over some threads in order (R52). -/
def State.scan (s : State) (op : ScanOp) (ex : Bool) (a : Opnd) (z : Scan) (ts : List Nat) : Scan :=
  ts.foldl (fun z t =>
    let v := scanStep op (s.origin true t) z.r (s.lane .int a t)
    let p := z.p || mbit (s.agent.poisonOf a) t
    { r := v.r, p := p, q := z.q || v.q, out := (t, if ex then (z.r, z.p) else (v.r, p)) :: z.out }) z

/-- VSCAN as a typed word (R52). -/
def vscanVt (d a b : Opnd) (op : ScanOp) (ex : Bool) : Typed :=
  { need := { needV d [plain a, plain b] with badE := !isVary a || isThread b }
    eff := fun s e =>
      let z := s.scan op ex a { r := s.uval (scanImm op) b, p := false, q := false, out := [] } (threadsOf e)
      .ok (fun ag => (s.effV e d (maskOf (fun t => (aget z.out (0, false) t).2))
        (fun t => { r := (aget z.out (0, false) t).1 }) ag).orQsat z.q) }

/-- VSCAN (R52, R406). -/
def execVscan (h : Head) (d a b : Opnd) (op : ScanOp) (ex : Bool) (s : State) : Out := .next (s.typed h (vscanVt d a b op ex))

/-- WRTH as a typed word (R411). -/
def wrthVt (d a b : Opnd) : Typed :=
  { need := { needV d [plain a, plain b] with badE := isThread a || isThread b }
    eff := fun s e =>
      let u := (s.uval .int b).toNat % 32
      .ok (s.effV (e &&& oneMask u) d 0 (fun _ => { r := s.uval .int a }))
    takes := fun s e => e &&& oneMask ((s.uval .int b).toNat % 32) }

/-- WRTH (R411). -/
def execWrth (h : Head) (d a b : Opnd) (s : State) : Out := .next (s.typed h (wrthVt d a b))

/-- RDTH as a typed word: one thread's value, or cause 0x17 (R377). An A that is neither v nor p raises 0x0E (DESIGN CHOICE); log 24. -/
def rdthUt (d a b : Opnd) : Typed :=
  { need := { needU d [{ o := a, vary := true, pred := true }, plain b] false false with badE := !isThread a }
    eff := fun s _ =>
      let u := (s.uval .int b).toNat % 32
      if mbit (s.agent.poisonOf a) u then .error { cause := 0x17, mask := fullMask, addr := 0 }
      else .ok (effU d { r := s.lane .int a u }) }

/-- RDTH (R377). -/
def execRdth (h : Head) (d a b : Opnd) (s : State) : Out := .next (s.typed h (rdthUt d a b))

/-- VRED as a typed word: a reduction over EXM, or cause 0x17 (R405). An A that is no varying register raises 0x0E, where the checks of R78 find
nothing earlier (DESIGN CHOICE); log 24. -/
def vredUt (d a b : Opnd) (op : ScanOp) : Typed :=
  { need := { needU d [{ o := a, vary := true }, plain b] false false with badE := !isVary a }
    eff := fun s _ =>
      let pois := s.agent.poisonOf a &&& s.agent.exm
      if pois = 0 then
        .ok (effU d ((threadsOf s.agent.exm).foldl
          (fun v t =>
            let w := scanStep op (s.origin false 0) v.r (s.lane .int a t)
            { r := w.r, q := v.q || w.q }) { r := s.uval (scanImm op) b }))
      else .error { cause := 0x17, mask := pois, addr := 0 } }

/-- VRED (R112, R405). -/
def execVred (h : Head) (d a b : Opnd) (op : ScanOp) (s : State) : Out := .next (s.typed h (vredUt d a b op))

/-- VOTE as a typed word (R403). -/
def voteUt (d a : Opnd) (op : VoteOp) (neg : Bool) : Typed :=
  { need := { needU d [{ o := a, pred := true }] false false with
      badE := (match a with
        | .p _ => false
        | _ => true) || (op == .ballot && isBit d) }
    eff := fun s _ =>
      let p := match a with
        | .p n => s.agent.preg n
        | _ => 0
      let m := (if neg then ~~~p else p) &&& s.agent.exm
      .ok (effU d (match op with
        | .all => bitVal (m == s.agent.exm)
        | .any => bitVal (!(m == 0))
        | .uni => bitVal (m == 0 || m == s.agent.exm)
        | .ballot => { r := m })) }

/-- VOTE (R403); log 24. -/
def execVote (h : Head) (d a : Opnd) (op : VoteOp) (neg : Bool) (s : State) : Out := .next (s.typed h (voteUt d a op neg))

end Sys2Proof.Machine
end

