-- ==== Sys2Proof/Machine/Quant.lean ====
section
/-! DEFINITION. The arithmetic of the matrix engine: block codes and scale words (R106), the group sums of a matrix operation (R111),
rotation (R109, R110), sparse positions (R227), quantisation of a block (R108). -/

namespace Sys2Proof.Machine

/-- An element of an operand: its exact value and, for a NaN, the FP32 pattern it propagates as (R103). -/
structure El where
  v : FVal
  nan : Nat
  deriving DecidableEq, Repr

/-- Zero. -/
def El.zero : El := ⟨.fin false 0 0, 0⟩

/-- An integer times a power of two. -/
def El.int (n e : Int) : El := ⟨.fin (n < 0) n.natAbs e, 0⟩

/-- A floating-point pattern. -/
def El.float (f : Fmt) (raw : Nat) : El := ⟨f.val raw, f.convNan .fp32 raw⟩

/-- The exact sum of two values; none for infinities of opposite signs or a NaN. -/
def FVal.plus (a b : FVal) : Option FVal :=
  match a, b with
  | .nan, _ | _, .nan => none
  | .inf s, .inf s' => if s == s' then some (.inf s) else none
  | .inf s, .fin .. | .fin .., .inf s => some (.inf s)
  | .fin s m e, .fin s' m' e' =>
    let r := addExact (signedM s m) e (signedM s' m') e'
    some (.fin (r.1 < 0) r.1.natAbs r.2)

/-- A value times 2^n. -/
def FVal.shift (v : FVal) (n : Int) : FVal :=
  match v with
  | .fin s m e => .fin s m (e + n)
  | v => v

/-! ## Blocks (R106) -/

/-- The TYPE of a scale word. -/
def swType (w : Nat) : Nat := fld w 14 2

/-- The scale of a scale word: none when the whole block is NaN. -/
def swScale (w : Nat) : Option FVal :=
  let e := fld w 6 8
  if e = 255 then none else if e = 0 then some (.fin false 0 0) else some (.fin false (64 + fld w 0 6) ((e : Int) - 133))

/-- Magnitudes of a sign/magnitude type, times 2, 64 or 1. -/
def codeMags (type : Nat) : List Nat := if type = 2 then [0, 1, 2, 4, 8, 16, 32, 64] else [0, 1, 2, 3, 4, 6, 8, 12]

/-- The power of two that the magnitudes of a type are multiplied by. -/
def codeExp (type : Nat) : Int := if type = 1 then -1 else if type = 2 then -6 else 0

/-- The value of a code. -/
def codeVal (type c : Nat) : El :=
  if type = 0 then .int (sgn 4 c) 0
  else
    let m : Nat := (codeMags type).getD (c % 8) 0
    .int (if 8 ≤ c % 16 then -(m : Int) else m) (codeExp type)

/-! ## Group sums (R111) -/

/-- The FP32 pattern of an invalid operation of a matrix word (R102): V = 0, t = 0. -/
def invalidM (h : Nat) : Nat := Fmt.fp32.invalidH false 0 h

/-- The NaN of a product: the first operand's, the second's, or that of zero times infinity; log 37. -/
def termNan (h : Nat) (p : El × El) : Option Nat :=
  if p.1.v == .nan then some p.1.nan
  else if p.2.v == .nan then some p.2.nan
  else match p.1.v.mul p.2.v with
    | none => some (invalidM h)
    | some _ => none

/-- The exact sum of values, or the NaN pattern of infinities that cancel. -/
def sumVals (h : Nat) (l : List FVal) : Except Nat FVal :=
  l.foldl (fun acc v => match acc with
    | .error n => .error n
    | .ok a => match a.plus v with
      | none => .error (invalidM h)
      | some r => .ok r) (.ok (.fin false 0 0))

/-- The exact sum of the products of a group, or the NaN it gives: the first in increasing k. -/
def groupSum (h : Nat) (ps : List (El × El)) : Except Nat FVal :=
  match ps.findSome? (termNan h) with
  | some n => .error n
  | none => sumVals h (ps.filterMap (fun p => p.1.v.mul p.2.v))

/-- The result of a group: its sum times the scales and 2^-`e2`, rounded once to FP32. No scale stands for 1; a NaN block gives the
pattern of R106. A zero sum of a block takes the sign that its scaling gives it, so -0 of a negative code sum under a scale of 0 (DESIGN CHOICE:
R111 names no sign); log 37. -/
def groupResult (h e2 : Nat) (scales : List (Option FVal)) (ps : List (El × El)) : Nat :=
  if scales.contains none then 0x7FC00000
  else match groupSum h ps with
    | .error n => n
    | .ok v =>
      let r := scales.foldl (fun v s => (v.mul (s.getD (.fin false 1 0))).getD v) v
      Fmt.fp32.ofVal .rne false (invalidM h) (r.shift (-(e2 : Int)))

/-- A group result added to an accumulator. Where both are NaN the accumulator's is kept (DESIGN CHOICE); log 37. -/
def accAdd (h acc g : Nat) : Nat :=
  (Fmt.fp32.firstNan [acc, g]).getD (Fmt.fp32.sum .rne (invalidM h) (Fmt.fp32.val acc) (Fmt.fp32.val g))

/-! ## Rotation (R109, R110) -/

/-- The sign flips of a group of a row. -/
def flips (seed row g : Nat) : Nat := philox0 (seed % 2 ^ 32) (seed / 2 ^ 32) row g 0 0

/-- One group of 32 elements rotated: flipped, and transformed by hadamard32. -/
def rotate (h seed row g : Nat) (xs : List El) : List El :=
  let w := flips seed row g
  let ys := xs.zipIdx.map (fun (x, i) => if bit w i then x.v.opp else x.v)
  (List.range 32).map (fun i =>
    match xs.find? (fun x => x.v == .nan) with
    | some x => ⟨.nan, x.nan⟩
    | none => match sumVals h (ys.zipIdx.map (fun (y, j) => if popcount 5 (i &&& j) % 2 = 1 then y.opp else y)) with
      | .error n => ⟨.nan, n⟩
      | .ok v => ⟨v, 0⟩)

/-! ## Sparsity (R227) -/

/-- The kept positions of group `q` of stored row `n`, for 1/ρ = `div`. -/
def kept (seed n q div : Nat) : List Nat :=
  let u := philox0 (seed % 2 ^ 32) (seed / 2 ^ 32) n q 0 0
  if div = 2 then [[0, 1], [0, 2], [0, 3], [1, 2], [1, 3], [2, 3]].getD (u % 6) [] else if div = 4 then [u % 4] else [0, 1, 2, 3]

/-! ## Quantisation of a block (R108) -/

/-- The largest magnitude of a type (qmax), times the power of two of its codes. -/
def qmaxOf (type : Nat) : Nat := if type = 0 then 7 else (codeMags type).getD 7 0

/-- `a * 2^ea ≤ b * 2^eb`. -/
def leDyadic (a : Nat) (ea : Int) (b : Nat) (eb : Int) : Bool :=
  let q := min ea eb
  decide (scaleTo a ea q ≤ scaleTo b eb q)

/-- The scale word of a block whose largest magnitude is `m * 2^e`: the smallest scale that is at least amax / qmax, or the largest
scale there is. -/
def scaleWord (type m : Nat) (e : Int) : Nat :=
  let top := type * 2 ^ 14
  let fits (i : Nat) : Bool := leDyadic m e ((64 + i % 64) * qmaxOf type) ((i / 64 : Nat) + 1 - 133 + codeExp type)
  match (List.range (254 * 64)).find? fits with
  | some i => top + (i / 64 + 1) * 64 + i % 64
  | none => top + 254 * 64 + 63

/-- The magnitude of a value: none is infinite. -/
def FVal.mag : FVal → Option (Nat × Int)
  | .fin _ m e => some (m, e)
  | _ => none

/-- The larger of two magnitudes. -/
def maxMag (a b : Option (Nat × Int)) : Option (Nat × Int) :=
  match a, b with
  | none, _ | _, none => none
  | some a, some b => if leDyadic a.1 a.2 b.1 b.2 then some b else some a

/-- The codes of a type as values in its unit, each with whether a tie prefers it. -/
def codeTable (type : Nat) : List (Nat × Int × Bool) :=
  if type = 0 then (List.range 16).map (fun c => (c, sgn 4 c, c % 2 = 0))
  else (List.range 8).map (fun m => (m, (((codeMags type).getD m 0 : Nat) : Int), m % 2 = 0))

/-- The code of an element under a scale word: the value nearest to x / scale. -/
def codeOf (w : Nat) (v : FVal) : Nat :=
  let type := swType w
  let neg := match v with
    | .fin s _ _ | .inf s => s
    | .nan => false
  match v with
  | .nan => 0
  | .inf _ => if type = 0 then (if neg then 8 else 7) else (if neg then 15 else 7)
  | .fin _ m e =>
    match swScale w with
    | none => 0
    | some sc => match sc.mag with
      | none => 0
      | some (sm, se) =>
        let q := min e (se + codeExp type)
        let x := scaleTo (if type = 0 then signedM neg m else m) e q
        let u := scaleTo sm (se + codeExp type) q
        let best := (codeTable type).foldl (fun (b : Nat × Nat × Bool) c =>
          let d := (x - c.2.1 * u).natAbs
          if d < b.2.1 || (d = b.2.1 && c.2.2 && !b.2.2) then (c.1, d, c.2.2) else b) (0, x.natAbs, true)
        if type = 0 || best.1 = 0 then best.1 else if neg then 8 + best.1 else best.1

/-- The scale word of a block from its present elements. -/
def blockWord (type : Nat) (xs : List El) : Nat :=
  if xs.any (fun x => x.v == .nan) then type * 2 ^ 14 + 255 * 64
  else match xs.foldl (fun a x => maxMag a x.v.mag) (some (0, 0)) with
    | none => type * 2 ^ 14 + 254 * 64 + 63
    | some (m, e) => if m = 0 then type * 2 ^ 14 else scaleWord type m e

/-- The code of an element in a block with a scale word: 0 where the whole block is zero or NaN. -/
def blockCode (w : Nat) (x : El) : Nat := if fld w 6 8 = 0 || fld w 6 8 = 255 then 0 else codeOf w x.v

end Sys2Proof.Machine
end

