-- ==== Sys2Proof/Machine/Matrix.lean ====
section
/-! DEFINITION. The matrix operations (R219-R232, R235, R242-R244, R329, R357-R362): their issue on a sequencer, their start with the
checks of R222, and their effect, which takes place in every core of the mask when the operation completes. -/

namespace Sys2Proof.Machine

/-! ## Operands (R220, R221, R225, R227) -/

/-- A buffer operand: its operand word, the copy of its entry, in the X-buffer or the W-buffer, read transposed, chunks. -/
structure MArg where
  w : Word
  e : List Word
  x : Bool
  t : Bool
  n : Nat
  deriving DecidableEq, Repr

/-- K-step width. -/
def MArg.ks (a : MArg) : Nat := fmtKs (tFmt a.e)
/-- First K index of the region. -/
def MArg.k0 (a : MArg) : Nat := owKo a.w * a.ks
/-- The region's first byte. -/
def MArg.off (a : MArg) : Nat := 1024 * owOff a.w
/-- The region's size in granules. -/
def MArg.granules (a : MArg) : Nat := a.n * chunkKib a.e
/-- The K bound, or the effective bound of a rotated operand (R110). -/
def MArg.bound (a : MArg) : Nat := if tSeed a.e = 0 then tKb a.e else (tKb a.e + 31) / 32 * 32
/-- The buffer. -/
def MArg.buf (a : MArg) : BufName := bufOf a.x

/-- The bytes of the chunk that holds K index `k`, and `k` within the chunk. -/
def MArg.chunk (a : MArg) (k : Nat) : Nat × Nat := (a.off + (k - a.k0) / a.ks * (chunkKib a.e * 1024), (k - a.k0) % a.ks)

/-- Where the element at row or column `i` of the product and K index `k` is stored: its byte, and its high nibble or not. None where
it is beyond the K bound or pruned. -/
def MArg.place (a : MArg) (i k : Nat) : Option (Nat × Bool) :=
  let (base, kk) := a.chunk k
  let div := tDiv a.e
  let col : Option Nat :=
    if a.t then some i
    else if div = 1 then some kk
    else ((kept (tSpSeed a.e) i (k / 4) div).idxOf? (k % 4)).map (fun j => 4 / div * (kk / 4) + j)
  if a.bound ≤ k then none
  else col.map (fun c =>
    let r := if a.t then kk else i
    (base + r * rowBytes a.e a.t + swizzle (tSwz a.e) r (c * fmtBits (tFmt a.e) / 8), c % 2 = 1))

/-- Where the scale word of the block that holds an element is stored. -/
def MArg.scaleAt (a : MArg) (i k : Nat) : Nat :=
  let (base, kk) := a.chunk k
  let w := (if a.t then 128 else a.ks) / 32
  let area := storedRows a.e a.t * rowBytes a.e a.t
  base + area + 2 * (if a.t then kk / 32 * w + i / 32 else i / 32 * w + kk / 32)

/-- The scale word of an element. -/
def MArg.scaleWord (a : MArg) (b : Bufs) (i k : Nat) : Nat := Memory.readNat (b.mem a.buf) (a.scaleAt i k) 2

/-- A format of the buffers as a floating-point format. -/
def tensorFmt (f : Nat) : Fmt := if f = 2 then .bf16 else if f = 3 then .fp16 else if f = 4 then .e4m3 else .e5m2

/-- An element as it is read; none contributes zero. -/
def MArg.el (a : MArg) (b : Bufs) (i k : Nat) : Option El :=
  (a.place i k).map (fun (p, hi) =>
    let f := tFmt a.e
    let raw := Memory.readNat (b.mem a.buf) p (if fmtBits f = 16 then 2 else 1)
    if f = 7 then codeVal (swType (a.scaleWord b i k)) (raw / 16 ^ hi.toNat % 16)
    else if f = 6 then .int (sgn 8 raw) 0
    else .float (tensorFmt f) raw)

/-- An element is read from a poisoned unit, or under a poisoned scale word (R235). -/
def MArg.poisoned (a : MArg) (b : Bufs) (i k : Nat) : Bool :=
  match a.place i k with
  | none => false
  | some (p, _) => (b.pois a.buf).contains (p / 32) || (tFmt a.e = 7 && (b.pois a.buf).contains (a.scaleAt i k / 32))

/-- The scale of a block; none where its elements are no codes; log 37. -/
def MArg.scale (a : MArg) (b : Bufs) (i k : Nat) : List (Option FVal) := if tFmt a.e = 7 then [swScale (a.scaleWord b i k)] else []

/-! ## What an operation reads and writes -/

/-- The matrix instructions that multiply operands: forms common to MMAC and MMAP. -/
def MOp.arg (o : MOp) (i : Nat) (x t : Bool) (n : Nat) : MArg := { w := o.words.getD i 0, e := o.entries.getD i [], x := x, t := t, n := n }

/-- The products of MMAC and MMAP: each tile with its activation operand; a dead partner's is not formed (R243). -/
def MOp.acts (o : MOp) : List (Nat × MArg) :=
  match o.instr with
  | .mmac h _ _ _ _ _ n => [(h.c1.val, o.arg 0 true false (n.val + 1))]
  | .mmap h c2 _ _ _ _ n =>
    let dead := o.pair.getD (false, false)
    (if dead.1 then [] else [(h.c1.val, o.arg 0 true false (n.val + 1))]) ++
      (if dead.2 then [] else [(c2.val, o.arg 1 true false (n.val + 1))])
  | _ => []

/-- The weight operand. -/
def MOp.weight (o : MOp) : Option MArg :=
  match o.instr with
  | .mmac _ _ _ t _ _ n => some (o.arg 1 false t (n.val + 1))
  | .mmap _ _ _ _ _ _ n => if o.acts.isEmpty then none else some (o.arg 2 false false (n.val + 1))
  | .mmd2 .. => some (o.arg 1 false false 1)
  | _ => none

/-- The operands in the X-buffer. -/
def MOp.xargs (o : MOp) : List MArg :=
  match o.instr with
  | .mmd2 .. => [o.arg 0 true false 1, o.arg 2 true false 1]
  | _ => o.acts.map (·.2)

/-- The core whose W-buffer the weight comes from, for core `c` of the cluster (R225). -/
def MOp.wcore (o : MOp) (c : Nat) : Nat :=
  match o.instr with
  | .mmac _ _ _ _ src rm _ | .mmap _ _ _ _ src rm _ | .mmd2 _ _ _ _ src rm => if rm then src.val else c
  | _ => c

/-- The tiles that GCMB combines, by the partners' states (R243). -/
def MOp.gcmb (o : MOp) : Bool × Bool := o.pair.getD (false, false)

/-- The tiles an operation reads or writes. -/
def MOp.tiles (o : MOp) : List Nat :=
  match o.instr with
  | .mmac h _ _ _ _ _ _ | .mzero h | .mscl h _ => [h.c1.val]
  | .mmap .. => o.acts.map (·.1)
  | .mmd2 h c2 _ _ _ _ => [h.c1.val, c2.val]
  | .gcmb h c2 _ _ => if o.gcmb.2 then [] else [h.c1.val, c2.val]
  | .mqnt h _ _ _ n => (List.range (n.val + 1)).map (h.c1.val + ·)
  | _ => []

/-- The chunk that MQNT writes. -/
def MOp.target (o : MOp) : Option MArg :=
  match o.instr with
  | .mqnt _ _ x _ _ => some (o.arg 0 x false 1)
  | _ => none

/-- The cores of the mask, ascending. -/
def MOp.cores (o : MOp) : List Nat := (List.range 4).filter (fun i => o.cm.getLsbD i)

/-- The die-local number of core `c` of the cluster. -/
def MOp.core (o : MOp) (c : Nat) : Nat := 4 * o.cluster + c

/-- The buffers of core `c` of the cluster. -/
def State.mbufs (s : State) (o : MOp) (c : Nat) : Bufs := s.bufsOf o.launch o.die (o.core c)

/-- Granules read: cluster core, buffer, first granule, count. -/
def MOp.reads (o : MOp) : List (Nat × Bool × Nat × Nat) :=
  o.cores.flatMap (fun c =>
    o.xargs.map (fun a => (c, true, owOff a.w, a.granules)) ++
      (match o.weight with
        | none => []
        | some a => [(o.wcore c, false, owOff a.w, a.granules)]))

/-- Granules written. -/
def MOp.writes (o : MOp) : List (Nat × Bool × Nat × Nat) :=
  match o.target with
  | none => []
  | some a => o.cores.map (fun c => (c, a.x, owOff a.w, a.granules))

/-- Two lists of granules meet. -/
def granulesMeet (l m : List (Nat × Bool × Nat × Nat)) : Bool :=
  l.any (fun a => m.any (fun b => a.1 == b.1 && a.2.1 == b.2.1 && overlaps a.2.2.1 a.2.2.2 b.2.2.1 b.2.2.2))

/-- Two operations share an array. -/
def MOp.shares (o p : MOp) : Bool := o.die == p.die && o.cluster == p.cluster && !(o.cm &&& p.cm == 0)

/-! ## Issue -/

/-- The head of a matrix word as that of a long-latency word. -/
def MHead.long (h : MHead) : LHead := { nas := h.nas, g := h.g, la := h.la, slot := h.slot }

/-- A dead partner (R238, R242). -/
def State.gone (s : State) (launch w : Nat) : Bool :=
  match s.warpOf launch w with
  | some a => !a.alive
  | none => match s.launchOf launch with
    | none => true
    | some l => l.exited.contains w

/-- The partners of a program whose parties are the members of a PAIR group: conditional dead, unconditional dead (R242). -/
def State.pairState (s : State) (p : Agent) : Option (Bool × Bool) :=
  if p.pairGroup then match sortNat p.parties with
    | [c, u] => some (s.gone p.launch c, s.gone p.launch u)
    | _ => none
  else none

/-- A source that is no k register, immediate or special of the sequencer, where the class rules of the other words do not say so already
(R224, R357). -/
def Use.notMatrix (u : Use) : Bool :=
  match u.o with
  | .b _ => true
  | .sp i => !seqSpecial i
  | _ => false

/-- What a matrix word asks: it runs on the sequencer only (R93, R96), and admits the sources of R224. -/
def needM (srcs : List Use) (badE : Bool) : Need :=
  { needX true srcs with warp := false, bad2 := srcs.any Use.notMatrix, badE := badE }

/-- A matrix word issues (R219): with `words` as its operand words or scalar and the entries that `tens` of them name; `check`
gives the cause of a fault of its operands. It waits until every array of its mask has room. -/
def State.matrix (s : State) (h : MHead) (i : Instr) (need : Need) (words : State → List Word) (tens : Bool)
    (check : State → List Word → List (List Word) → Option Nat) : State :=
  s.lxword (MHead.long h) need (fun s =>
    let ag := s.agent
    let ws := words s
    let es := if tens then ws.map (fun w => s.tid ag.ctx (owTid w)) else []
    if tens && ws.any owBad then .bad (ag.flt 0x0E)
    else match check s ws es with
      | some c => .bad (ag.flt c)
      | none =>
        if !s.hasRoom ag.die ag.cluster h.cm then s.holdFor h.nas (.room h.cm)
        else
          let o : MOp :=
            { id := s.handles + 1, ag := ag.id, slot := h.slot.val, pc := ag.pc, instr := i, die := ag.die, cluster := ag.cluster,
              cm := h.cm, launch := ag.launch, ctx := ag.ctx, words := ws, entries := es, started := false, pair := s.pairState ag }
          let s := { s.fresh1 with mops := s.mops ++ [o] }
          .ok (s.pushDetached (MHead.long h) i [] 0 o.id) s.npc)

/-- The value of register `i` of the pair that an operand names. -/
def State.pairWord (s : State) (o : Opnd) (i : Nat) : Word :=
  match o with
  | .k n => s.agent.kreg (n.val + i)
  | _ => 0

/-- MMAC (R225, R357). -/
def execMmac (h : MHead) (a b : Opnd) (t : Bool) (src : Fin 4) (rm : Bool) (n : Fin 8) (s : State) : Out :=
  .next (s.matrix h (.mmac h a b t src rm n) (needM [plain a, plain b] false) (fun s => [s.uval .int a, s.uval .int b]) true
    (fun _ _ _ => none))

/-- MMAP (R232, R243, R358). -/
def execMmap (h : MHead) (c2 : Fin 4) (a b : Opnd) (src : Fin 4) (rm : Bool) (n : Fin 8) (s : State) : Out :=
  .next (s.matrix h (.mmap h c2 a b src rm n) (needM [{ o := a, n := 2, al := 2 }, plain b] (h.c1 == c2 || notK a))
    (fun s => [s.pairWord a 0, s.pairWord a 1, s.uval .int b]) true (fun _ _ _ => none))

/-- MMD2 (R231, R359). -/
def execMmd2 (h : MHead) (c2 : Fin 4) (a b : Opnd) (src : Fin 4) (rm : Bool) (s : State) : Out :=
  .next (s.matrix h (.mmd2 h c2 a b src rm) (needM [plain a, { o := b, n := 2, al := 2 }] (h.c1 == c2 || notK b))
    (fun s => [s.uval .int a, s.pairWord b 0, s.pairWord b 1]) true (fun _ _ _ => none))

/-- GCMB (R232, R242, R243, R329): with a dead partner and SOLO = 0 the pair is broken. -/
def execGcmb (h : MHead) (c2 : Fin 4) (a : Opnd) (solo : Bool) (s : State) : Out :=
  .next (s.matrix h (.gcmb h c2 a solo) (needM [plain a] (h.c1 == c2)) (fun s => [s.uval (.float .fp32) a]) false
    (fun s _ _ => match s.pairState s.agent with
      | none => none
      | some d => if !solo && (d.1 || d.2) then some 0x16 else none))

/-- MZERO (R229). -/
def execMzero (h : MHead) (s : State) : Out :=
  .next (s.matrix h (.mzero h) (needM [] false) (fun _ => []) false (fun _ _ _ => none))

/-- MQNT (R230, R361): its target's conditions. -/
def mqntBad (c1 n : Nat) (sat : Bool) (w : Word) (e : List Word) : Option Nat :=
  if sat && !(tFmt e == 4 || tFmt e == 5) then some 0x01
  else if decide (3 < c1 + n) || !fmtOk (tFmt e) || decide (fmtKs (tFmt e) < (n + 1) * 128) || !(owKo w == 0) || !(tSparse e == 0)
  then some 0x0E
  else none

/-- MQNT (R230, R361). -/
def execMqnt (h : MHead) (a : Opnd) (x sat : Bool) (n : Fin 4) (s : State) : Out :=
  .next (s.matrix h (.mqnt h a x sat n) (needM [plain a] false) (fun s => [s.uval .int a]) true
    (fun _ ws es => mqntBad h.c1.val n.val sat (ws.getD 0 0) (es.getD 0 [])))

/-- MSCL (R229, R362). -/
def execMscl (h : MHead) (a : Opnd) (s : State) : Out :=
  .next (s.matrix h (.mscl h a) (needM [plain a] false) (fun s => [s.uval (.float .fp32) a]) false (fun _ _ _ => none))

/-! ## Start (R219, R222) -/

/-- The operands read with the core whose buffer each lies in, for core `c`. -/
def MOp.argsAt (o : MOp) (c : Nat) : List (Nat × MArg) :=
  o.xargs.map (fun a => (c, a)) ++ (match o.weight with
    | none => []
    | some a => [(o.wcore c, a)])

/-- R222 (1): what lies beyond the allocations on core `c`; the offset. -/
def State.beyond (s : State) (o : MOp) (c : Nat) : Option Nat :=
  let b := s.mbufs o c
  if !(b.launch == o.launch) then some 0
  else match o.tiles.find? (fun t => decide (b.csize < 65536 * (t + 1))) with
    | some t => some (65536 * t)
    | none =>
      let args := o.argsAt c ++ (match o.target with
        | none => []
        | some a => [(c, a)])
      (args.find? (fun (d, a) => !((s.mbufs o d).launch == o.launch) ||
        decide ((s.mbufs o d).size a.buf < a.off + 1024 * a.granules))).map (fun (_, a) => a.off)

/-- R222 (2), R231: operands that do not go together. -/
def MOp.illMatched (o : MOp) : Bool :=
  let args := o.xargs ++ o.weight.toList
  let two := match o.instr with
    | .mmd2 .. => true
    | _ => false
  args.any (fun a => shapeBad a.e a.t || !(fmtBits (tFmt a.e) == fmtBits (tFmt (args.headD a).e)) ||
    !(owKo a.w == owKo (args.headD a).w) || (a.x && !(tSparse a.e == 0)) ||
    (two && (!(fmtBits (tFmt a.e) == 16) || !(tSeed a.e == 0) || !(tSparse a.e == 0))))

/-- R127, R222 (3): the first granule of an operand whose tag does not fit; its offset. Scale granules are never swizzled, so a RAW
one is read as stored. -/
def State.mistagged (s : State) (o : MOp) (c : Nat) : Option Nat :=
  (o.argsAt c).findSome? (fun (d, a) =>
    (((List.range a.granules).find? (fun i => match (s.mbufs o d).tag a.buf (owOff a.w + i) with
      | none => !(tSwz a.e == 0) && !(tFmt a.e == 7 && i % chunkKib a.e == chunkKib a.e - 1)
      | some t => !(t == granuleTag (owTid a.w) a.e))).map (fun i => a.off + 1024 * i)))

/-- R110, R222 (4): rotation seeds that differ. -/
def MOp.rotMismatch (o : MOp) : Bool :=
  match o.weight with
  | none => false
  | some w => o.acts.any (fun (_, a) => !(tSeed a.e == tSeed w.e))

/-- The checks of R222 on one core: cause and address. -/
def State.checkCore (s : State) (o : MOp) (c : Nat) : Option (Nat × Nat) :=
  match s.beyond o c with
  | some a => some (0x13, a)
  | none =>
    if o.illMatched then some (0x0E, 0)
    else match s.mistagged o c with
      | some a => some (0x14, a)
      | none => if o.rotMismatch then some (0x15, 0) else none

/-- An operation leaves the arrays: its slot completes. -/
def State.endMop (s : State) (o : MOp) : State :=
  { s with mops := s.mops.filter (fun p => !(p.id == o.id)) }.slotDone o.ag o.slot

/-- An earlier accepted operation; log 36. -/
def State.earlier (s : State) (o : MOp) : List MOp := s.mops.filter (fun p => decide (p.id < o.id) && p.shares o)

/-- K-steps that an operation performs in each core (R276); log 38. -/
def MOp.ksteps (o : MOp) : Nat :=
  match o.weight with
  | none => 0
  | some w => w.n

/-- An operation stands still: its die's clock is stopped (R22, R285), or the current limiter withholds its K-steps (R21). -/
def State.withholds (s : State) (o : MOp) : Bool :=
  let d := s.die o.die
  !d.runs || (decide (0 < o.ksteps) && decide (s.time < d.withheldM))

/-- MATRIX_OP_START (R219, R222): in acceptance order in each array, once no earlier operation shares a tile with it or writes a
granule that it reads, and no limit withholds it. A failed check ends the program and changes nothing; log 36. -/
def execMatrixOpStart (op : Nat) (s : State) : Out :=
  .next (match s.mops.find? (fun o => o.id == op) with
    | none => s
    | some o =>
      let es := s.earlier o
      if o.started || s.withholds o || es.any (fun p => !p.started || p.tiles.any o.tiles.contains || granulesMeet p.writes o.reads) then s
      else match o.cores.findSome? (s.checkCore o) with
        | some (c, a) => (s.upd o.ag (fun x => x.detachedFault o.slot o.pc c a)).endMop o
        | none => { s with mops := s.mops.map (fun p => if p.id = op then { p with started := true } else p) })

/-! ## Effects -/

/-- Element [m][n] of a C tile (R221). -/
def Bufs.cel (b : Bufs) (t m n : Nat) : Nat := Memory.readNat b.c (65536 * t + 512 * m + 4 * n) 4

/-- A unit of a C tile is poisoned: unit `u` (0 to 15) of row `m`. -/
def Bufs.cbad (b : Bufs) (t m u : Nat) : Bool := b.cpois.contains (2048 * t + 16 * m + u)

/-- A C tile written: its elements, and the poison of its units. -/
def Bufs.setTile (b : Bufs) (t : Nat) (f : Nat → Nat → Nat) (p : Nat → Nat → Bool) : Bufs :=
  let bytes := (List.range 128).flatMap (fun m => (List.range 128).flatMap (fun n => leBytes 4 (f m n)))
  let pois := (List.range 128).foldl (fun l m => (List.range 16).foldl (fun l u => setIn l (2048 * t + 16 * m + u) (p m u)) l) b.cpois
  { b with c := Memory.write b.c (65536 * t) bytes, cpois := pois }

/-- One element of A·B added into `acc` (R111, R225): rows `m` of the activation in `xb` and `n` of the weight in `wb`. -/
def macEl (h : Nat) (a w : MArg) (xb wb : Bufs) (acc m n : Nat) : Nat :=
  let e2 := if tSeed a.e = 0 then 0 else 5
  (List.range (w.n * w.ks / 32)).foldl (fun acc g =>
    let k := w.k0 + 32 * g
    if a.bound ≤ k || w.bound ≤ k then accAdd h acc 0
    else
      let ps := (span k (k + 32)).filterMap (fun k => match a.el xb m k, w.el wb n k with
        | some x, some y => some (x, y)
        | _, _ => none)
      accAdd h acc (groupResult h e2 (a.scale xb m k ++ w.scale wb n k) ps)) acc

/-- Some element that a row of an operand supplies is poisoned. -/
def MArg.rowBad (a : MArg) (b : Bufs) (i : Nat) : Bool := (span a.k0 (a.k0 + a.n * a.ks)).any (a.poisoned b i)

/-- One product of MMAC or MMAP in one core. -/
def Bufs.mac (b : Bufs) (h t : Nat) (a w : MArg) (xb wb : Bufs) : Bufs :=
  let rows := (List.range 128).map (a.rowBad xb)
  let cols := (List.range 128).map (w.rowBad wb)
  b.setTile t (fun m n => macEl h a w xb wb (b.cel t m n) m n)
    (fun m u => b.cbad t m u || rows.getD m false || ((cols.drop (8 * u)).take 8).contains true)

/-- One element of a product of MMD2 (R231): 128 pairs in four groups. -/
def dotEl (h acc : Nat) (f : Nat → Option (El × El)) : Nat :=
  (List.range 4).foldl (fun acc g => accAdd h acc (groupResult h 0 [] ((span (32 * g) (32 * g + 32)).filterMap f))) acc

/-- The two backward products of MMD2 in one core (R231). -/
def Bufs.back (b : Bufs) (h c1 c2 : Nat) (g w x : MArg) (wb : Bufs) : Bufs :=
  let k0 := g.k0
  let pair (p q : Option El) : Option (El × El) := match p, q with
    | some p, some q => some (p, q)
    | _, _ => none
  let col (a : MArg) (b : Bufs) (i : Nat) : Bool := (List.range 128).any (fun r => a.poisoned b r (k0 + i))
  let any8 (l : List Bool) (u : Nat) : Bool := ((l.drop (8 * u)).take 8).contains true
  let gRows := (List.range 128).map (g.rowBad b)
  let gCols := (List.range 128).map (col g b)
  let wCols := (List.range 128).map (col w wb)
  let xCols := (List.range 128).map (col x b)
  let b' := b.setTile c1
    (fun m i => dotEl h (b.cel c1 m i) (fun j => pair (g.el b m (k0 + j)) (w.el wb j (k0 + i))))
    (fun m u => b.cbad c1 m u || gRows.getD m false || any8 wCols u)
  b'.setTile c2
    (fun i j => dotEl h (b.cel c2 i j) (fun m => pair (x.el b m (k0 + i)) (g.el b m (k0 + j))))
    (fun i u => b.cbad c2 i u || xCols.getD i false || any8 gCols u)

/-- One element of GCMB (R232, R244). -/
def combineEl (o : Origin) (s x y : Nat) : Nat :=
  (Fmt.fp32.firstNan [x, y, s]).getD (Fmt.fp32.fma .rne o [] s (Fmt.fp32.sub .rne o x y) y)

/-- GCMB in one core: `dead` says which partner is (R243). A poisoned unit of either tile poisons that of C1 (R329). -/
def Bufs.combine (b : Bufs) (o : Origin) (c1 c2 s : Nat) (dead : Bool × Bool) : Bufs :=
  if dead.2 then b
  else
    let bad (m u : Nat) : Bool := b.cbad c1 m u || b.cbad c2 m u
    if dead.1 then b.setTile c1 (b.cel c2) bad
    else b.setTile c1 (fun m n => combineEl o s (b.cel c1 m n) (b.cel c2 m n)) bad

/-! ## MQNT (R230) -/

/-- Columns below this one are present. -/
def MArg.present (a : MArg) (n : Nat) : Nat := min (n * 128) a.bound

/-- The element of the accumulator tiles that goes to row `m`, column `c`. -/
def Bufs.accEl (b : Bufs) (c1 n : Nat) (a : MArg) (m c : Nat) : El :=
  if c < min (n * 128) (tKb a.e) then .float .fp32 (b.cel (c1 + c / 128) m (c % 128)) else .zero

/-- The elements of group `g` of row `m` as they are converted (R110). -/
def Bufs.quantRow (b : Bufs) (h c1 n : Nat) (a : MArg) (m g : Nat) : List El :=
  let xs := (List.range 32).map (fun i => b.accEl c1 n a m (32 * g + i))
  if tSeed a.e = 0 then xs else rotate h (tSeed a.e) m g xs

/-- The present ones among them. -/
def MArg.presentOf (a : MArg) (n g : Nat) (xs : List El) : List El := xs.take (a.present n - 32 * g)

/-- An element converted to the format of a chunk that has no scales; a NaN keeps the top of its payload (R103). -/
def quantEl (f : Nat) (sat : Bool) (x : El) : Nat :=
  if f = 6 then match x.v with
    | .nan => 0
    | .inf s => if s then 0x80 else 0x7F
    | .fin s m e => wrapN 8 (clampInt (-128) 127 (if 0 ≤ e then signedM s m * (2 ^ e.toNat : Nat) else divPow .rne (signedM s m) (-e).toNat))
  else
    let dst := tensorFmt f
    if x.v == .nan then Fmt.fp32.cutNan dst x.nan else dst.ofVal .rne sat 0 x.v

/-- The scale words of a chunk, block row by block row. -/
def Bufs.quantWords (b : Bufs) (h c1 n : Nat) (a : MArg) : List Nat :=
  (List.range (4 * (a.ks / 32))).map (fun k =>
    let i := k / (a.ks / 32)
    let g := k % (a.ks / 32)
    blockWord (tType a.e) ((List.range 32).flatMap (fun r => a.presentOf n g (b.quantRow h c1 n a (32 * i + r) g))))

/-- The code of element `i` of group `g` of row `m`; 0 where it is absent. -/
def Bufs.quantCode (b : Bufs) (h c1 n : Nat) (sat : Bool) (a : MArg) (words : List Nat) (m c : Nat) : Nat :=
  if a.present n ≤ c then 0
  else
    let x := (b.quantRow h c1 n a m (c / 32)).getD (c % 32) .zero
    if tFmt a.e = 7 then blockCode (words.getD (m / 32 * (a.ks / 32) + c / 32) 0) x else quantEl (tFmt a.e) sat x

/-- The bytes of the chunk that MQNT writes. -/
def Bufs.quantChunk (b : Bufs) (h c1 n : Nat) (sat : Bool) (a : MArg) : List Byte :=
  let bits := fmtBits (tFmt a.e)
  let words := if bits = 4 then b.quantWords h c1 n a else []
  let code := b.quantCode h c1 n sat a words
  let codes := (List.range 128).flatMap (fun m => (List.range 256).map (fun p =>
    let q := swizzle (tSwz a.e) m p
    BitVec.ofNat 8 (if bits = 4 then code m (2 * q) + 16 * code m (2 * q + 1) else code m (q * 8 / bits) / 256 ^ (q % (bits / 8)))))
  if bits = 4 then codes ++ (words ++ List.replicate (512 - words.length) 0).flatMap (leBytes 2) else codes

/-- Whether what is stored for row `m`, column `c` derives from a poisoned C unit (R235): of its block, of its group where it is
rotated, or its own. -/
def Bufs.quantBad (b : Bufs) (c1 n : Nat) (a : MArg) (m c : Nat) : Bool :=
  let bad (m c : Nat) : Bool := decide (c < min (n * 128) (tKb a.e)) && b.cbad (c1 + c / 128) m (c % 128 / 8)
  let group (m g : Nat) : Bool := (List.range 4).any (fun i => bad m (32 * g + 8 * i))
  if tFmt a.e = 7 then decide (c < a.present n) && (List.range 32).any (fun r => group (m / 32 * 32 + r) (c / 32))
  else if tSeed a.e = 0 then bad m c
  else decide (c < a.present n) && group m (c / 32)

/-- Unit `u` of the chunk that MQNT writes is poisoned. -/
def Bufs.quantUnitBad (b : Bufs) (c1 n : Nat) (a : MArg) (u : Nat) : Bool :=
  let bits := fmtBits (tFmt a.e)
  if u < 1024 then
    (List.range 32).any (fun i =>
      let q := swizzle (tSwz a.e) (u / 8) (u % 8 * 32 + i)
      b.quantBad c1 n a (u / 8) (q * 8 / bits))
  else (List.range 16).any (fun i =>
    let k := (u - 1024) * 16 + i
    let w := a.ks / 32
    decide (k < 4 * w) && (List.range 32).any (fun c => b.quantBad c1 n a (k / w * 32) (k % w * 32 + c)))

/-- MQNT in one core (R230): the chunk, its tags and its poison. -/
def Bufs.quant (b : Bufs) (h c1 n : Nat) (sat : Bool) (a : MArg) : Bufs :=
  let bs := b.quantChunk h c1 n sat a
  let pois := (List.range (bs.length / 32)).foldl (fun l u => setIn l (a.off / 32 + u) (b.quantUnitBad c1 n a u)) (b.pois a.buf)
  let b := b.put a.buf (Memory.write (b.mem a.buf) a.off bs) pois
  (span (owOff a.w) (owOff a.w + a.granules)).foldl (fun b g => b.setTag a.buf g (some (granuleTag (owTid a.w) a.e))) b

/-! ## Completion -/

/-- The buffers of core `c` after an operation. -/
def State.mopCore (s : State) (o : MOp) (c : Nat) : Bufs :=
  let b := s.mbufs o c
  let h := pcHash o.pc
  let wb := s.mbufs o (o.wcore c)
  match o.instr with
  | .mmac .. | .mmap .. => match o.weight with
    | none => b
    | some w => o.acts.foldl (fun b' (t, a) => b'.mac h t a w b wb) b
  | .mmd2 h' c2 _ _ _ _ => b.back h h'.c1.val c2.val (o.arg 0 true false 1) (o.arg 1 false false 1) (o.arg 2 true false 1) wb
  | .gcmb h' c2 _ _ => b.combine ⟨false, 0, o.pc⟩ h'.c1.val c2.val (o.words.getD 0 0).toNat o.gcmb
  | .mzero h' => b.setTile h'.c1.val (fun _ _ => 0) (fun _ _ => false)
  | .mqnt h' _ x sat n => b.quant h h'.c1.val (n.val + 1) sat (o.arg 0 x false 1)
  | .mscl h' _ =>
    b.setTile h'.c1.val (fun m n => Fmt.fp32.mul .rne ⟨false, 0, o.pc⟩ (b.cel h'.c1.val m n) (o.words.getD 0 0).toNat)
      (b.cbad h'.c1.val)
  | _ => b

/-- Bytes that an operation moves in the typed buffers (R276): regions and tiles read, tiles and chunks written; a multicast weight
is read once (R225); log 38. -/
def MOp.pathM (o : MOp) : Nat :=
  let n := o.cores.length
  let size (a : MArg) : Nat := 1024 * a.granules
  let xs := (o.xargs.map size).foldl (· + ·) 0
  let w := match o.weight with
    | none => 0
    | some a => size a * (if o.wcore 0 == o.wcore 1 then 1 else n)
  let tgt := match o.target with
    | none => 0
    | some a => size a
  let moves := match o.instr with
    | .mzero _ => 1
    | .mqnt .. => o.tiles.length
    | .gcmb .. => if o.gcmb.2 then 0 else if o.gcmb.1 then 2 else 3
    | _ => 2 * o.tiles.length
  n * (xs + tgt + 65536 * moves) + w

/-- MATRIX_OP_COMPLETE (R219): a started operation takes effect in every core of its mask, and its slot completes. An earlier
operation of the array that still reads or writes a granule it writes completes before it; log 36. -/
def execMatrixOpComplete (op : Nat) (s : State) : Out :=
  .next (match s.mops.find? (fun o => o.id == op) with
    | none => s
    | some o =>
      if !o.started || s.withholds o || (s.earlier o).any (fun p => granulesMeet (p.reads ++ p.writes) o.writes) then s
      else
        let bs := o.cores.map (s.mopCore o)
        let s := bs.foldl (fun s b => s.setBufs b) s
        let s := match o.target with
          | none => s
          | some a => s.setResidency o.ctx (owTid a.w) (a.x.toNat + 1) (owOff a.w)
        (((s.count o.ctx 2 (o.cores.length * o.ksteps)).count o.ctx 7 o.pathM)).endMop o)

end Sys2Proof.Machine
end

