-- ==== Sys2Proof/Machine/Firmware.lean ====
section
/-! DEFINITION. Notices (R273), accesses from outside a die and the bezel (R167, R274, R275), registers that firmware writes (R272,
R276, R18), time (R277, R278), release and power of dies (R21-R24, R285), boot and debug (R284, R285). -/

namespace Sys2Proof.Machine

/-! ## Notices (R273) -/

/-- NOTICE_POST: the first waiting notice enters the queue when it has room, and its poster goes on. -/
def execNoticePost (ctx : Nat) (s : State) : Out :=
  let x := s.ctx ctx
  .next (match x.noticeWait with
    | [] => s
    | n :: l => match s.placeNotice ctx n with
      | none => s
      | some s =>
        let s := s.updCtx ctx (fun x => { x with noticeWait := l })
        match n.poster with
        | none => s
        | some id => s.upd id (fun a =>
            if a.hold = .notice then { a with hold := .none } else if a.wait = .notice then { a with wait := .none } else a))

/-- NOTICE_QUEUE_ROOM: the driver takes the oldest notice. -/
def execNoticeQueueRoom (ctx : Nat) (s : State) : Out :=
  .next (if (s.ctx ctx).noticeUsed = 0 then s else s.updCtx ctx (fun x => { x with noticeUsed := x.noticeUsed - 1 }))

/-! ## Accesses from outside -/

/-- The leaves under a table at a level (R132-R134): of its entries, the ones whose valid bit memory lists as set. -/
def leavesOf (m : List Host.Cell) : Nat → Nat → Nat → List Leaf
  | 0, _, _ => []
  | fuel + 1, level, table =>
    (m.filter (fun c => decide (table ≤ c.1) && decide (c.1 < table + 4096) && (c.1 - table) % 8 == 0 && c.2.getLsbD 0)).flatMap
      (fun c =>
        let d := Memory.readNat m c.1 8
        if !descOk level d then []
        else if bit d 1 then [{ desc := d, level := level, at_ := c.1 }]
        else leavesOf m fuel (level + 1) (fld d 8 44 * 256))

/-- A leaf maps the 64 KiB page with this number. -/
def Leaf.maps (l : Leaf) (page : Nat) : Bool := page * 2 ^ 16 / 2 ^ pageBits l.level == l.pa 0 / 2 ^ pageBits l.level

/-- A write by physical address counts as one to every page that tracks writes and is mapped there (R282): its D bit, and its bit in the
die's array. -/
def State.markOutside (s : State) (pa n : Nat) : State :=
  let ls := s.ctxs.flatMap (fun e => if e.2.residency == .absent then [] else leavesOf s.mem 5 0 e.2.desc.root)
  (span (pa / 65536) ((pa + n + 65535) / 65536)).foldl (fun s p =>
    (ls.filter (fun l => l.maps p)).foldl (fun s l => s.markDirty ⟨65536 * p, l, .stack (fld (65536 * p) 36 5)⟩) s) s

/-- The rows that a run of bytes at a physical address of a stack touches. -/
def rowsOf (pa n : Nat) : List (Nat × Nat × Nat) :=
  (span (pa / 1024) ((pa + n + 1023) / 1024)).map (fun r => rowOf (1024 * r))

/-- An access from outside that has been admitted, `i` being its event: it waits for the demand activations of its rows (R157), or opens
them and then does `f`; log 51. -/
def State.outside (s : State) (i : Instr) (pa n : Nat) (f : State → State) : State :=
  let rows := rowsOf pa n
  match rows.find? (fun r => s.rowWait r.1 r.2.1 r.2.2) with
  | some (d, b, w) => { s.joinRow d b w with events := i :: s.events }
  | none => f (rows.foldl (fun s r => s.demandRow r.1 r.2.1 r.2.2) s)

/-- Bytes that an access from outside writes at a physical address of a stack. -/
def State.outsideWrite (s : State) (pa : Nat) (bs : List Byte) : State :=
  ({ s with mem := Memory.write s.mem pa bs, memPoison := markPoison s.memPoison pa bs.length false }).markOutside pa bs.length

/-- A read or write of one byte from outside that has been admitted. -/
def State.outsideByte (s : State) (i : Instr) (write : Bool) (pa : Nat) (value : Byte) : State :=
  s.outside i pa 1 (fun s => if write then s.outsideWrite pa [value] else s)

/-- What a check needs of a window. -/
def accOf (write : Bool) : Acc := if write then .write else .read

/-- A counter advanced of the context that a die charges; log 38. -/
def State.countOn (s : State) (die n k : Nat) : State :=
  match s.chargedOn die with
  | none => s
  | some c => s.count c n k

/-- MESH_ACCESS (R275): an access of one byte that reaches the mesh at die `src`; a denied one has no effect; log 47. -/
def execMeshAccess (src : Nat) (write : Bool) (pa : Nat) (value : Byte) (s : State) : Out :=
  .next (match placeOf false pa with
    | .ok (.stack d) =>
      let i := .meshAccess src write pa value
      if d = src then s.outsideByte i write pa value
      else if s.meshOk src d pa (accOf write) false then
        if s.rowWait d (rowOf pa).2.1 (rowOf pa).2.2 then s.outsideByte i write pa value
        else (s.countOn src 10 1).outsideByte i write pa value
      else s.countOn src 13 1
    | _ => s)

/-- The bezels admit an access that entered at a die's Evofisal port (R275). -/
def State.evofisalOk (s : State) (die sender pa : Nat) (write : Bool) : Bool :=
  let z := (s.die die).bezel
  z.link.getLsbD 0 && decide (sender < 64) && z.rmod.getLsbD sender && z.grants pa (accOf write) true &&
    (match placeOf false pa with
      | .ok (.stack d) => d == die || s.meshOk die d pa (accOf write) true
      | _ => false)

/-- EVOFISAL_ACCESS (R275); log 47. -/
def execEvofisalAccess (die sender : Nat) (write : Bool) (pa : Nat) (value : Byte) (s : State) : Out :=
  let i := .evofisalAccess die sender write pa value
  .next (if !s.evofisalOk die sender pa write then s.denied die pa
    else if s.rowWait (rowOf pa).1 (rowOf pa).2.1 (rowOf pa).2.2 then s.outsideByte i write pa value
    else ((s.countOn die 11 1).countOn die 10 (if (rowOf pa).1 = die then 0 else 1)).outsideByte i write pa value)

/-- The windows of a die admit a run of bytes written from the PCIe side to its stack. -/
def State.pcieOk (s : State) (die pa n : Nat) : Bool :=
  (List.range n).all (fun i => (s.die die).bezel.grants (pa + i) .write false && (match placeOf false (pa + i) with
    | .ok p => p == .stack die
    | .error _ => false))

/-- PCIE_PEER_WRITE (R167, R275); log 47. -/
def execPciePeerWrite (die pa : Nat) (bytes : List Byte) (s : State) : Out :=
  .next (if s.pcieOk die pa bytes.length then s.outside (.pciePeerWrite die pa bytes) pa bytes.length (fun s => s.outsideWrite pa bytes)
    else s.denied die pa)

/-- A bezel register written (R274); reserved bits are not kept. -/
def Bezel.write (z : Bezel) (off : Nat) (value : DWord) : Bezel :=
  let w := value.toNat
  let i := (off - 0x10) / 16
  let win := aget z.wins { base := 0, limit := 0, r := false, w := false, remote := false } i
  if off = 0x00 then { z with peer := value.setWidth 24 }
  else if off = 0x04 then { z with link := value.setWidth 2 }
  else if off = 0x08 then { z with rmod := value }
  else if off < 0x10 || 0x110 ≤ off then z
  else if off % 16 = 0 then { z with wins := aset z.wins i { win with base := w } }
  else if off % 16 = 8 then
    { z with wins := aset z.wins i { win with limit := fld w 0 56, r := bit w 56, w := bit w 57, remote := bit w 58 } }
  else z

/-- BEZEL_WRITE (R274): only firmware's writes are taken. -/
def execBezelWrite (die : Nat) (firmware : Bool) (off : Nat) (value : DWord) (s : State) : Out :=
  .next (if firmware && decide (die < Config.dies) then
      s.setDie die { s.die die with bezel := (s.die die).bezel.write off value }
    else s)

/-! ## Registers that firmware writes -/

/-- A context descriptor read from its 128 bytes, and whether a reserved field is not zero (R272). -/
def readDescriptor (bs : List Byte) : Descriptor × Bool :=
  let n := leNat bs
  ({ root := rfield n 0x00 8, he := rfield n 0x08 8, ta := rfield n 0x10 8, evict := rfield n 0x18 8, save := rfield n 0x20 8,
     ab := rfield n 0x28 8, noticeBase := rfield n 0x30 8, noticeSize := rfield n 0x38 4, watchdog := rfield n 0x3C 4,
     moff := BitVec.ofNat 64 (rfield n 0x40 8), mid := rfield n 0x48 2, cap := rfield n 0x4A 2, traceBase := rfield n 0x50 8,
     traceSize := rfield n 0x58 4, traceMask := BitVec.ofNat 32 (rfield n 0x5C 4), vf := rfield n 0x60 2,
     weight := rfield n 0x62 1 },
   !(rfield n 0x4C 4 == 0) || !(rfield n 0x63 29 == 0))

/-- A descriptor that firmware writes: it is read when the context next becomes resident (R272). A new context is not resident; log 58. -/
def State.writeDescriptor (s : State) (c die : Nat) (system : Bool) (bytes : List Byte) : State :=
  let (x, bad) := readDescriptor bytes
  let old := s.ctx c
  if !(old.residency == .absent) then s.setCtx c { old with written := some (x, bad) }
  else if Config.dies ≤ die then s
  else s.setCtx c { Ctx.absent with die := die, system := system, desc := x, badDesc := bad, residency := .saved }

/-- A context that firmware makes resident, from the image in its save area if one was saved (R271, R272): refused while the die has no
place for it, or a reserved field of its descriptor is set; log 58. -/
def State.restoreWrite (s : State) (c : Nat) : State :=
  if !s.canReside c then s
  else
    let x := s.ctx c
    if x.imageNo.isNone then
      let (desc, bad) := x.written.getD (x.desc, x.badDesc)
      let res : Residency := if (s.ctxIn x.die .active).isNone then .active else .locket
      (s.setCtx c { x with desc := desc, badDesc := bad, written := none, residency := res }).recap x.die
    else
      let s := s.openSave c
      match s.imageIn c with
      | none => s
      | some (i, bs) => match s.restoreCtx c i bs with
        | none => s
        | some t => t.retimed s

/-- Memory, launches and all that the tenants of the module hold zeroised: the bytes of every stack, every context of a tenant with its
agents, and every image (R285). -/
def State.zeroise (s : State) : State :=
  let tenant (c : Nat) : Bool := !(s.ctx c).system
  let stack (pa : Nat) : Bool := decide (pa / 2 ^ 36 < Config.dies)
  let gone (a : Agent) : Bool := tenant a.ctx
  let ids := ((s.agent :: s.others).filter gone).map (·.id)
  let home (l : Nat) : Bool := match s.launchOf l with
    | none => false
    | some x => tenant x.ctx
  let scr := ((s.agent :: s.others).filter gone).map (·.scratch)
  { s with
    agent := if gone s.agent then Agent.vacant else s.agent
    others := s.others.filter (fun a => !gone a)
    mem := s.mem.filter (fun c => !stack c.1)
    memPoison := s.memPoison.filter (fun u => !stack (32 * u))
    launches := s.launches.filter (fun e => !home e.1)
    queue := s.queue.filter (fun q => match s.vfHome q.vf with
      | none => false
      | some (_, c) => !tenant c)
    scratches := s.scratches.filter (fun e => !scr.contains e.1)
    bufs := s.bufs.filter (fun b => match s.launchOf b.launch with
      | none => false
      | some x => !tenant x.ctx)
    reqs := s.reqs.filter (fun q => !tenant q.ctx)
    copies := s.copies.filter (fun y => !tenant y.ctx)
    mops := s.mops.filter (fun o => !tenant o.ctx)
    mirrors := s.mirrors.filter (fun m => !ids.contains m.ag)
    rounds := s.rounds.filter (fun r => !home r.launch)
    waiters := s.waiters.filter (fun w => !ids.contains w.ag)
    pctls := s.pctls.filter (fun p => !tenant p.ctx)
    images := s.images.filter (fun i => i.ctx.system)
    traces := s.traces.filter (fun e => !tenant e.1)
    ctxs := s.ctxs.filter (fun e => e.2.system)
    dies := s.dies.map (fun e => (e.1, { e.2 with
      dirty := [], waits := [], faults := [], regions := e.2.regions.filter (fun g => !tenant g.2.ctx) })) }

/-- A die put into reset, with the agents that were on it; one in Vendor debug zeroises again (R23, R285). Its stack's first
sweep begins anew when it is released (R142); log 46. -/
def State.resetDie (s : State) (die : Nat) : State :=
  let d := s.die die
  let s := if d.debug == .vendor then s.zeroise else s
  let d := s.die die
  let here (a : Agent) : Bool := a.die == die
  let s := { s with agent := if here s.agent then Agent.vacant else s.agent
                    others := s.others.filter (fun a => !here a)
                    mops := s.mops.filter (fun o => !(o.die == die))
                    copies := s.copies.filter (fun y => !(y.die == die))
                    reqs := s.reqs.filter (fun q => !(q.die == die)) }
  s.setDie die { d with late := [], wraps := [], waits := [], released := false, cores := 0, ramp := [], power := .off, debug := .closed }

/-- What firmware writes to a register, or orders of a die (R3, R18, R23, R271, R272, R276, R285); log 58. -/
def execRegisterWrite (r : FwReg) (s : State) : Out :=
  .next (match r with
    | .descriptor c die system bytes => s.writeDescriptor c die system bytes
    | .counterSel c n ev =>
      if 16 ≤ n && n < 32 then s.updCtx c (fun x => { x with counterSel := aset x.counterSel n ev }) else s
    | .stackHot die hot =>
      let d := s.die die
      if die < Config.dies then s.setDie die { d with sweep := d.sweepAt s.time, hot := hot } else s
    | .restore c => s.restoreWrite c
    | .idle die on =>
      let d := s.die die
      if on && d.power == .run then s.setDie die { d with power := .idle }
      else if !on && d.power == .idle then s.setDie die { d with power := .run }
      else s
    | .tenantDebug die on =>
      let d := s.die die
      if d.released && !(d.debug == .vendor) then s.setDie die { d with debug := if on then .tenant else .closed } else s
    | .dieReset die => if (s.die die).released then s.resetDie die else s)

/-! ## Time -/

/-- SLEEP_WAKE (R278): the count has reached a sleeping warp's instant. -/
def execSleepWake (ag : Nat) (s : State) : Out :=
  .next (s.upd ag (fun a => match a.hold with
    | .sleep t => if t ≤ s.time then { a with hold := .none, readySince := s.time } else a
    | _ => a))

/-- SERVO_STEP (R277): a forward step of the count, with a record of kind 8 in the ring of every active context. -/
def execServoStep (ns : Nat) (s : State) : Out :=
  let s := s.later ns
  .next ((s.ctxs.filter (fun e => e.2.residency == .active)).foldl (fun s e =>
    s.trace e.1 { kind := 8, die := e.2.die, source := 0, code := 0, wid := 0xFFFFFFFF, arg := 0, payload := ns }) s)

/-! ## Dies -/

/-- DIE_RESET_RELEASE (R23): in ascending die number; the first core comes up, and the stack's first sweep begins (R142); log 46. -/
def execDieResetRelease (die : Nat) (s : State) : Out :=
  .next (if s.boot == .running && decide (die < Config.dies) && !(s.die die).released &&
      (List.range die).all (fun d => (s.die d).released) then
      s.setDie die { s.die die with released := true, power := .run, cores := 1, sweep := { start := s.time * 512, hot := (s.die die).hot, was := none } }
    else s)

/-- CORE_ENABLE (R23): the next core in ascending number; log 46. -/
def execCoreEnable (die : Nat) (s : State) : Out :=
  let d := s.die die
  .next (if d.runs && decide (d.cores < Config.coresPerDie) then s.setDie die { d with cores := d.cores + 1 } else s)

/-- ARRAY_RAMP_STEP (R24): 32 more rows of a core's array. -/
def execArrayRampStep (die core : Nat) (s : State) : Out :=
  let d := s.die die
  let n := aget d.ramp 0 core
  .next (if d.runs && decide (core < d.cores) && decide (n < 128) then s.setDie die { d with ramp := aset d.ramp core (n + 32) } else s)

/-- CURRENT_LIMIT (R21): issue is withheld for whole cycles of 1.25 ns: of matrix K-steps while the arrays have any to issue, else of
varying words; log 46. -/
def execCurrentLimit (die cycles : Nat) (s : State) : Out :=
  let d := s.die die
  let til := s.time + (5 * cycles + 3) / 4
  .next (if !d.runs then s
    else if s.mops.any (fun o => o.die == die && decide (0 < o.ksteps)) && decide (d.withheldM ≤ s.time) then
      s.setDie die { d with withheldM := til }
    else s.setDie die { d with withheldM := max d.withheldM til, withheldV := max d.withheldV til })

/-- THERMAL_TRIP (R22): the die's clock stops, its partition is in Partition-off, and firmware is notified. -/
def execThermalTrip (die : Nat) (s : State) : Out :=
  let d := s.die die
  .next (if d.runs then { s.setDie die { d with power := .off, cores := 0, ramp := [] } with alerts := s.alerts ++ [die] } else s)

/-- PARTITION_OFF_EXIT (R23): the cores come up again from the first. -/
def execPartitionOffExit (die : Nat) (s : State) : Out :=
  let d := s.die die
  .next (if d.released && d.power == .off && !s.standby then s.setDie die { d with power := .run, cores := 1 } else s)

/-- Every die changed. -/
def State.allDies (s : State) (f : Die → Die) : State := { s with dies := s.dies.map (fun e => (e.1, f e.2)) }

/-- MODULE_STANDBY_ENTRY (R285): the compute dies go off. -/
def execModuleStandbyEntry (s : State) : Out :=
  .next (if s.boot == .running && !s.standby then
      { s.allDies (fun d => if d.runs then { d with power := .standby } else d) with standby := true }
    else s)

/-- MODULE_STANDBY_EXIT (R285): they return to Run. -/
def execModuleStandbyExit (s : State) : Out :=
  .next (if s.standby then
      { s.allDies (fun d => if d.power == .standby then { d with power := .run } else d) with standby := false }
    else s)

/-! ## Boot and debug -/

/-- BOOT_VERIFY (R284): a failure of either signature halts the boot; the later images and the configuration record are verified the same
way; log 46. -/
def execBootVerify (rsa slh : Bool) (s : State) : Out :=
  .next (if s.boot == .halted then s else { s with boot := if rsa && slh then .running else .halted })

/-- DEBUG_UNLOCK (R285): Vendor debug is entered with a verified token only, after all tenant memory is zeroised. -/
def execDebugUnlock (die : Nat) (verified : Bool) (s : State) : Out :=
  .next (if verified && (s.die die).released then
      let s := s.zeroise
      s.setDie die { s.die die with debug := .vendor }
    else s)

end Sys2Proof.Machine
end

