-- ==== Sys2Proof/Machine/FpAlu.lean ====
section
/-! DEFINITION. The floating-point words (R316-R327, R337), conversion (R311, R312) and random bits (R114). -/

namespace Sys2Proof.Machine

/-- FADD, varying (R316). -/
def execFaddV (h : Head) (d a b : Opnd) (r : Rnd) (s : State) : Out :=
  .next (s.typed h (binV (.float .fp32) d a b (faddF r)))

/-- FADD, uniform (R316). -/
def execFaddU (h : Head) (d a b : Opnd) (r : Rnd) (s : State) : Out :=
  .next (s.typed h (binU (.float .fp32) d a b (faddF r)))

/-- FSUB, varying (R316). -/
def execFsubV (h : Head) (d a b : Opnd) (r : Rnd) (s : State) : Out :=
  .next (s.typed h (binV (.float .fp32) d a b (fsubF r)))

/-- FSUB, uniform (R316). -/
def execFsubU (h : Head) (d a b : Opnd) (r : Rnd) (s : State) : Out :=
  .next (s.typed h (binU (.float .fp32) d a b (fsubF r)))

/-- FMUL, varying (R316). -/
def execFmulV (h : Head) (d a b : Opnd) (r : Rnd) (s : State) : Out :=
  .next (s.typed h (binV (.float .fp32) d a b (fmulF r)))

/-- FMUL, uniform (R316). -/
def execFmulU (h : Head) (d a b : Opnd) (r : Rnd) (s : State) : Out :=
  .next (s.typed h (binU (.float .fp32) d a b (fmulF r)))

/-- FFMA, varying (R321). -/
def execFfmaV (h : Head) (d a b : Opnd) (r : Rnd) (horner : Bool) (s : State) : Out :=
  .next (s.typed h (terV (.float .fp32) d a b (ffmaF r horner)))

/-- FFMA, uniform (R321). -/
def execFfmaU (h : Head) (d a b : Opnd) (r : Rnd) (horner : Bool) (s : State) : Out :=
  .next (s.typed h (terU (.float .fp32) d a b (ffmaF r horner)))

/-- FMIN, varying (R324). -/
def execFminV (h : Head) (d a b : Opnd) (s : State) : Out :=
  .next (s.typed h (binV (.float .fp32) d a b (fun _ => fminmaxF false)))

/-- FMIN, uniform (R324). -/
def execFminU (h : Head) (d a b : Opnd) (s : State) : Out :=
  .next (s.typed h (binU (.float .fp32) d a b (fun _ => fminmaxF false)))

/-- FMAX, varying (R324). -/
def execFmaxV (h : Head) (d a b : Opnd) (s : State) : Out :=
  .next (s.typed h (binV (.float .fp32) d a b (fun _ => fminmaxF true)))

/-- FMAX, uniform (R324). -/
def execFmaxU (h : Head) (d a b : Opnd) (s : State) : Out :=
  .next (s.typed h (binU (.float .fp32) d a b (fun _ => fminmaxF true)))

/-- FCMP, varying (R318). -/
def execFcmpV (h : Head) (d a b : Opnd) (c : FCond) (s : State) : Out :=
  .next (s.typed h (binV (.float .fp32) d a b (fun _ => fcmpF c)))

/-- FCMP, uniform (R318). -/
def execFcmpU (h : Head) (d a b : Opnd) (c : FCond) (s : State) : Out :=
  .next (s.typed h (binU (.float .fp32) d a b (fun _ => fcmpF c)))

/-- FRND, varying (R326). -/
def execFrndV (h : Head) (d a : Opnd) (r : Rnd) (s : State) : Out :=
  .next (s.typed h (unV (.float .fp32) d a (fun _ => frndF r)))

/-- FRND, uniform (R326). -/
def execFrndU (h : Head) (d a : Opnd) (r : Rnd) (s : State) : Out :=
  .next (s.typed h (unU (.float .fp32) d a (fun _ => frndF r)))

/-- FSCL, varying (R327). -/
def execFsclV (h : Head) (d a b : Opnd) (r : Rnd) (s : State) : Out :=
  .next (s.typed h (binV (.float .fp32) d a b (fun _ => fsclF r)))

/-- FSCL, uniform (R327). -/
def execFsclU (h : Head) (d a b : Opnd) (r : Rnd) (s : State) : Out :=
  .next (s.typed h (binU (.float .fp32) d a b (fun _ => fsclF r)))

/-- FGETX, varying (R323). -/
def execFgetxV (h : Head) (d a : Opnd) (s : State) : Out :=
  .next (s.typed h (unV (.float .fp32) d a (fun _ => fgetxF)))

/-- FGETX, uniform (R323). -/
def execFgetxU (h : Head) (d a : Opnd) (s : State) : Out :=
  .next (s.typed h (unU (.float .fp32) d a (fun _ => fgetxF)))

/-- FGETM, varying (R322). -/
def execFgetmV (h : Head) (d a : Opnd) (s : State) : Out :=
  .next (s.typed h (unV (.float .fp32) d a (fun _ => fgetmF)))

/-- FGETM, uniform (R322). -/
def execFgetmU (h : Head) (d a : Opnd) (s : State) : Out :=
  .next (s.typed h (unU (.float .fp32) d a (fun _ => fgetmF)))

/-- FCLASS, varying (R317). -/
def execFclassV (h : Head) (d a : Opnd) (s : State) : Out :=
  .next (s.typed h (unV (.float .fp32) d a (fun _ => fclassF) true))

/-- FCLASS, uniform (R317). -/
def execFclassU (h : Head) (d a : Opnd) (s : State) : Out :=
  .next (s.typed h (unU (.float .fp32) d a (fun _ => fclassF) true))

/-- HADD2, varying (R337). -/
def execHadd2V (h : Head) (d a b : Opnd) (r : Rnd) (bf : Bool) (s : State) : Out :=
  .next (s.typed h (binV (.halves (halfFmt bf)) d a b (hadd2F r bf)))

/-- HADD2, uniform (R337). -/
def execHadd2U (h : Head) (d a b : Opnd) (r : Rnd) (bf : Bool) (s : State) : Out :=
  .next (s.typed h (binU (.halves (halfFmt bf)) d a b (hadd2F r bf)))

/-- HMUL2, varying (R337). -/
def execHmul2V (h : Head) (d a b : Opnd) (r : Rnd) (bf : Bool) (s : State) : Out :=
  .next (s.typed h (binV (.halves (halfFmt bf)) d a b (hmul2F r bf)))

/-- HMUL2, uniform (R337). -/
def execHmul2U (h : Head) (d a b : Opnd) (r : Rnd) (bf : Bool) (s : State) : Out :=
  .next (s.typed h (binU (.halves (halfFmt bf)) d a b (hmul2F r bf)))

/-- HFMA2, varying (R337). -/
def execHfma2V (h : Head) (d a b : Opnd) (r : Rnd) (bf : Bool) (s : State) : Out :=
  .next (s.typed h (terV (.halves (halfFmt bf)) d a b (hfma2F r bf)))

/-- HFMA2, uniform (R337). -/
def execHfma2U (h : Head) (d a b : Opnd) (r : Rnd) (bf : Bool) (s : State) : Out :=
  .next (s.typed h (terU (.halves (halfFmt bf)) d a b (hfma2F r bf)))

/-- CVT in class V: A in the source type; B, the random word, only in a stochastic conversion (R311). -/
def cvtVt (d a b : Opnd) (m : Rnd) (sat : Bool) (dt st : CvtType) : Typed :=
  if cvtSr dt then
    { need := needV d [plain a, plain b]
      eff := fun s e => .ok (s.effV e d (s.poisons [a, b])
        (fun t => cvtF m sat dt st (s.lane (cvtImm st) a t) (s.lane .int b t))) }
  else unV (cvtImm st) d a (fun _ x => cvtF m sat dt st x 0)

/-- CVT in class U (R311). -/
def cvtUt (d a b : Opnd) (m : Rnd) (sat : Bool) (dt st : CvtType) : Typed :=
  if cvtSr dt then
    { need := needU d [plain a, plain b]
      eff := fun s _ => .ok (effU d (cvtF m sat dt st (s.uval (cvtImm st) a) (s.uval .int b))) }
  else unU (cvtImm st) d a (fun _ x => cvtF m sat dt st x 0)

/-- CVT, varying (R311, R312). -/
def execCvtV (h : Head) (d a b : Opnd) (r : Rnd) (sat : Bool) (dt st : CvtType) (s : State) : Out :=
  .next (s.typed h (cvtVt d a b r sat dt st))

/-- CVT, uniform (R311, R312). -/
def execCvtU (h : Head) (d a b : Opnd) (r : Rnd) (sat : Bool) (dt st : CvtType) (s : State) : Out :=
  .next (s.typed h (cvtUt d a b r sat dt st))

/-- The key pair of RBITS: an even k register (R114). -/
def keyUse (b : Opnd) : Use := { o := b, n := 2, al := 2 }


/-- RBITS in class V: counter A, which may be affine, stream D, key B (R114). -/
def rbitsVt (d a b : Opnd) : Typed :=
  { need := { needV d [plain d, { o := a, aff := true }, keyUse b] with bad2 := (match b with
      | .v _ | .p _ => true
      | _ => false) }
    eff := fun s e =>
      let key := s.agent.pairOf b
      .ok (fun ag => (s.effV e d (s.poisons [d, a]) (fun t => rbitsF key (s.lane .int a t) (s.lane .int d t)) ag).orAov
        (s.agent.oSet a && !(e == 0))) }

/-- RBITS in class U (R114). -/
def rbitsUt (d a b : Opnd) : Typed :=
  { need := needU d [plain d, plain a, keyUse b]
    eff := fun s _ => .ok (effU d (rbitsF (s.agent.pairOf b) (s.uval .int a) (s.uval .int d))) }

/-- RBITS, varying (R114, R376). -/
def execRbitsV (h : Head) (d a b : Opnd) (s : State) : Out := .next (s.typed h (rbitsVt d a b))

/-- RBITS, uniform (R114, R376). -/
def execRbitsU (h : Head) (d a b : Opnd) (s : State) : Out := .next (s.typed h (rbitsUt d a b))

end Sys2Proof.Machine
end

