-- ==== Sys2Proof/Machine/IntAlu.lean ====
section
/-! DEFINITION. The integer words of classes V and U (R301, R302, R308, R328, R338-R345, R350, R351, R360, R374, R384). -/

namespace Sys2Proof.Machine

/-- IADD, varying (R340). -/
def execIaddV (h : Head) (d a b : Opnd) (sat : Bool) (s : State) : Out :=
  .next (s.typed h (binV .int d a b (fun _ => addF sat)))

/-- IADD, uniform (R340). -/
def execIaddU (h : Head) (d a b : Opnd) (sat : Bool) (s : State) : Out :=
  .next (s.typed h (binU .int d a b (fun _ => addF sat)))

/-- ISUB, varying (R340). -/
def execIsubV (h : Head) (d a b : Opnd) (sat : Bool) (s : State) : Out :=
  .next (s.typed h (binV .int d a b (fun _ => subF sat)))

/-- ISUB, uniform (R340). -/
def execIsubU (h : Head) (d a b : Opnd) (sat : Bool) (s : State) : Out :=
  .next (s.typed h (binU .int d a b (fun _ => subF sat)))

/-- IMUL, varying (R340). -/
def execImulV (h : Head) (d a b : Opnd) (sat : Bool) (s : State) : Out :=
  .next (s.typed h (binV .int d a b (fun _ => mulF sat)))

/-- IMUL, uniform (R340). -/
def execImulU (h : Head) (d a b : Opnd) (sat : Bool) (s : State) : Out :=
  .next (s.typed h (binU .int d a b (fun _ => mulF sat)))

/-- ISHL, varying (R340). -/
def execIshlV (h : Head) (d a b : Opnd) (sat : Bool) (s : State) : Out :=
  .next (s.typed h (binV .int d a b (fun _ => shlF sat)))

/-- ISHL, uniform (R340). -/
def execIshlU (h : Head) (d a b : Opnd) (sat : Bool) (s : State) : Out :=
  .next (s.typed h (binU .int d a b (fun _ => shlF sat)))

/-- ISHR, varying (R340). -/
def execIshrV (h : Head) (d a b : Opnd) (s : State) : Out :=
  .next (s.typed h (binV .int d a b (fun _ => shrF)))

/-- ISHR, uniform (R340). -/
def execIshrU (h : Head) (d a b : Opnd) (s : State) : Out :=
  .next (s.typed h (binU .int d a b (fun _ => shrF)))

/-- ISRA, varying (R340). -/
def execIsraV (h : Head) (d a b : Opnd) (s : State) : Out :=
  .next (s.typed h (binV .int d a b (fun _ => sraF)))

/-- ISRA, uniform (R340). -/
def execIsraU (h : Head) (d a b : Opnd) (s : State) : Out :=
  .next (s.typed h (binU .int d a b (fun _ => sraF)))

/-- IAND, varying (R340). -/
def execIandV (h : Head) (d a b : Opnd) (s : State) : Out :=
  .next (s.typed h (binV .int d a b (fun _ => andF)))

/-- IAND, uniform (R340). -/
def execIandU (h : Head) (d a b : Opnd) (s : State) : Out :=
  .next (s.typed h (binU .int d a b (fun _ => andF)))

/-- IOR, varying (R340). -/
def execIorV (h : Head) (d a b : Opnd) (s : State) : Out :=
  .next (s.typed h (binV .int d a b (fun _ => orF)))

/-- IOR, uniform (R340). -/
def execIorU (h : Head) (d a b : Opnd) (s : State) : Out :=
  .next (s.typed h (binU .int d a b (fun _ => orF)))

/-- IXOR, varying (R340). -/
def execIxorV (h : Head) (d a b : Opnd) (s : State) : Out :=
  .next (s.typed h (binV .int d a b (fun _ => xorF)))

/-- IXOR, uniform (R340). -/
def execIxorU (h : Head) (d a b : Opnd) (s : State) : Out :=
  .next (s.typed h (binU .int d a b (fun _ => xorF)))

/-- IMIN, varying (R340). -/
def execIminV (h : Head) (d a b : Opnd) (u : Bool) (s : State) : Out :=
  .next (s.typed h (binV .int d a b (fun _ => minF u)))

/-- IMIN, uniform (R340). -/
def execIminU (h : Head) (d a b : Opnd) (u : Bool) (s : State) : Out :=
  .next (s.typed h (binU .int d a b (fun _ => minF u)))

/-- IMAX, varying (R340). -/
def execImaxV (h : Head) (d a b : Opnd) (u : Bool) (s : State) : Out :=
  .next (s.typed h (binV .int d a b (fun _ => maxF u)))

/-- IMAX, uniform (R340). -/
def execImaxU (h : Head) (d a b : Opnd) (u : Bool) (s : State) : Out :=
  .next (s.typed h (binU .int d a b (fun _ => maxF u)))

/-- IABS, varying (R338). -/
def execIabsV (h : Head) (d a : Opnd) (sat : Bool) (s : State) : Out :=
  .next (s.typed h (unV .int d a (fun _ => absF sat)))

/-- IABS, uniform (R338). -/
def execIabsU (h : Head) (d a : Opnd) (sat : Bool) (s : State) : Out :=
  .next (s.typed h (unU .int d a (fun _ => absF sat)))

/-- ICMP, varying (R341). -/
def execIcmpV (h : Head) (d a b : Opnd) (u : Bool) (c : ICond) (s : State) : Out :=
  .next (s.typed h (binV .int d a b (fun _ => icmpF u c)))

/-- ICMP, uniform (R341). -/
def execIcmpU (h : Head) (d a b : Opnd) (u : Bool) (c : ICond) (s : State) : Out :=
  .next (s.typed h (binU .int d a b (fun _ => icmpF u c)))

/-- IMAD, varying (R342). -/
def execImadV (h : Head) (d a b : Opnd) (u sat : Bool) (s : State) : Out :=
  .next (s.typed h (terV .int d a b (fun _ => madF u sat)))

/-- IMAD, uniform (R342). -/
def execImadU (h : Head) (d a b : Opnd) (u sat : Bool) (s : State) : Out :=
  .next (s.typed h (terU .int d a b (fun _ => madF u sat)))

/-- IMULH, varying (R343). -/
def execImulhV (h : Head) (d a b : Opnd) (u : Bool) (s : State) : Out :=
  .next (s.typed h (binV .int d a b (fun _ => mulhF u)))

/-- IMULH, uniform (R343). -/
def execImulhU (h : Head) (d a b : Opnd) (u : Bool) (s : State) : Out :=
  .next (s.typed h (binU .int d a b (fun _ => mulhF u)))

/-- ISAT, varying (R344). -/
def execIsatV (h : Head) (d a : Opnd) (rng : SatRange) (s : State) : Out :=
  .next (s.typed h (unV .int d a (fun _ => isatF rng)))

/-- ISAT, uniform (R344). -/
def execIsatU (h : Head) (d a : Opnd) (rng : SatRange) (s : State) : Out :=
  .next (s.typed h (unU .int d a (fun _ => isatF rng)))

/-- BFX, varying (R302). -/
def execBfxV (h : Head) (d a b : Opnd) (sx : Bool) (s : State) : Out :=
  .next (s.typed h (binV .int d a b (fun _ => bfxF sx)))

/-- BFX, uniform (R302). -/
def execBfxU (h : Head) (d a b : Opnd) (sx : Bool) (s : State) : Out :=
  .next (s.typed h (binU .int d a b (fun _ => bfxF sx)))

/-- BFI, varying (R301). -/
def execBfiV (h : Head) (d a b : Opnd) (s : State) : Out :=
  .next (s.typed h (terV .int d a b (fun _ => bfiF)))

/-- BFI, uniform (R301). -/
def execBfiU (h : Head) (d a b : Opnd) (s : State) : Out :=
  .next (s.typed h (terU .int d a b (fun _ => bfiF)))

/-- POPC, varying (R374). -/
def execPopcV (h : Head) (d a : Opnd) (s : State) : Out :=
  .next (s.typed h (unV .int d a (fun _ => popcF)))

/-- POPC, uniform (R374). -/
def execPopcU (h : Head) (d a : Opnd) (s : State) : Out :=
  .next (s.typed h (unU .int d a (fun _ => popcF)))

/-- CLZ, varying (R308). -/
def execClzV (h : Head) (d a : Opnd) (s : State) : Out :=
  .next (s.typed h (unV .int d a (fun _ => clzF)))

/-- CLZ, uniform (R308). -/
def execClzU (h : Head) (d a : Opnd) (s : State) : Out :=
  .next (s.typed h (unU .int d a (fun _ => clzF)))

/-- SHRR, varying (R384). -/
def execShrrV (h : Head) (d a b : Opnd) (r : Rnd) (sat : Bool) (rng : ShrrRange) (u : Bool) (s : State) : Out :=
  .next (s.typed h (binV .int d a b (fun _ => shrrF r sat rng u)))

/-- SHRR, uniform (R384). -/
def execShrrU (h : Head) (d a b : Opnd) (r : Rnd) (sat : Bool) (rng : ShrrRange) (u : Bool) (s : State) : Out :=
  .next (s.typed h (binU .int d a b (fun _ => shrrF r sat rng u)))

/-- MOV, varying or predicate (R360): R43 tags a written v register G. -/
def execMovV (h : Head) (d a : Opnd) (s : State) : Out := .next (s.typed h (unV .int d a (fun _ x => { r := x })))

/-- MOV, uniform (R360). -/
def execMovU (h : Head) (d a : Opnd) (s : State) : Out := .next (s.typed h (unU .int d a (fun _ x => { r := x })))

/-- LDI in class V (R350). -/
def ldiVt (d : Opnd) (i : BitVec 21) : Typed :=
  { need := needV d [] true, eff := fun s e => .ok (s.effV e d 0 (fun _ => { r := i.signExtend 32 })) }

/-- LDI in class U (R350). -/
def ldiUt (d : Opnd) (i : BitVec 21) : Typed :=
  { need := needU d [] true, eff := fun _ _ => .ok (effU d { r := i.signExtend 32 }) }

/-- LDI, varying (R350). -/
def execLdiV (h : Head) (d : Opnd) (i : BitVec 21) (s : State) : Out := .next (s.typed h (ldiVt d i))

/-- LDI, uniform (R350). -/
def execLdiU (h : Head) (d : Opnd) (i : BitVec 21) (s : State) : Out := .next (s.typed h (ldiUt d i))

/-- LDIH, varying (R351). -/
def execLdihV (h : Head) (d : Opnd) (i : BitVec 16) (s : State) : Out := .next (s.typed h (unV .int d d (fun _ => ldihF i)))

/-- LDIH, uniform (R351). -/
def execLdihU (h : Head) (d : Opnd) (i : BitVec 16) (s : State) : Out := .next (s.typed h (unU .int d d (fun _ => ldihF i)))

/-- ISEL in class V: the value and the poison of the selected source (R345). -/
def iselVt (d a b : Opnd) (neg : Bool) (n : Nat) : Typed :=
  { need := { needV d [plain a, plain b] with reads := [.p n] }
    eff := fun s e =>
      let c (t : Nat) : Bool := mbit (s.agent.preg n) t != neg
      let sel := maskOf c
      .ok (s.effV e d ((s.agent.poisonOf a &&& sel) ||| (s.agent.poisonOf b &&& ~~~sel))
        (fun t => { r := if c t then s.lane .int a t else s.lane .int b t })) }

/-- ISEL in class U (R345). -/
def iselUt (d a b : Opnd) (neg : Bool) (n : Nat) : Typed :=
  { need := needU d [plain a, plain b]
    eff := fun s _ => .ok (effU d { r := if s.agent.flag n != neg then s.uval .int a else s.uval .int b }) }

/-- ISEL, varying (R345). -/
def execIselV (h : Head) (d a b : Opnd) (neg : Bool) (n : Fin 8) (s : State) : Out := .next (s.typed h (iselVt d a b neg n.val))

/-- ISEL, uniform (R345). -/
def execIselU (h : Head) (d a b : Opnd) (neg : Bool) (n : Fin 8) (s : State) : Out := .next (s.typed h (iselUt d a b neg n.val))

/-- IADC in class V: the sum, and the carry in a predicate (R339). A poisoned source also records its thread. -/
def iadcVt (d a b : Opnd) (ci : Bool) (n : Nat) : Typed :=
  { need := { needV d [plain a, plain b] true with reads := [.p n] }
    eff := fun s e =>
      let f (t : Nat) : Val := carryVal (s.lane .int a t) (s.lane .int b t) (ci && mbit (s.agent.preg n) t)
      let pois := s.poisons [a, b]
      .ok (fun ag => ((s.effV e d pois f ag).writeP n e (fun t => (f t).c)).reportPoison (pois &&& e) 0 s.agent.pc
        s.agent.handler) }

/-- IADC in class U: the carry in a flag (R339). -/
def iadcUt (d a b : Opnd) (ci : Bool) (n : Nat) : Typed :=
  { need := needU d [plain a, plain b] true
    eff := fun s _ =>
      let v := carryVal (s.uval .int a) (s.uval .int b) (ci && s.agent.flag n)
      .ok (fun ag => (effU d v ag).setB n v.c) }

/-- IADC, varying (R339). -/
def execIadcV (h : Head) (d a b : Opnd) (ci : Bool) (n : Fin 8) (s : State) : Out := .next (s.typed h (iadcVt d a b ci n.val))

/-- IADC, uniform (R339). -/
def execIadcU (h : Head) (d a b : Opnd) (ci : Bool) (n : Fin 8) (s : State) : Out := .next (s.typed h (iadcUt d a b ci n.val))

end Sys2Proof.Machine
end

