-- ==== Sys2Proof/Machine/Packed.lean ====
section
/-! DEFINITION. The packed 16-bit and byte words (R366-R368, R373, R314). -/

namespace Sys2Proof.Machine

/-- PADD2, varying (R368). -/
def execPadd2V (h : Head) (d a b : Opnd) (u sat : Bool) (s : State) : Out :=
  .next (s.typed h (binV .packed d a b (fun _ => packedF u sat (· + ·)) true))

/-- PADD2, uniform (R368). -/
def execPadd2U (h : Head) (d a b : Opnd) (u sat : Bool) (s : State) : Out :=
  .next (s.typed h (binU .packed d a b (fun _ => packedF u sat (· + ·)) true))

/-- PSUB2, varying (R368). -/
def execPsub2V (h : Head) (d a b : Opnd) (u sat : Bool) (s : State) : Out :=
  .next (s.typed h (binV .packed d a b (fun _ => packedF u sat (· - ·)) true))

/-- PSUB2, uniform (R368). -/
def execPsub2U (h : Head) (d a b : Opnd) (u sat : Bool) (s : State) : Out :=
  .next (s.typed h (binU .packed d a b (fun _ => packedF u sat (· - ·)) true))

/-- PACK, varying (R367). -/
def execPackV (h : Head) (d a b : Opnd) (sat hi : Bool) (s : State) : Out :=
  .next (s.typed h (binV .packed d a b (fun _ => packF sat hi) true))

/-- PACK, uniform (R367). -/
def execPackU (h : Head) (d a b : Opnd) (sat hi : Bool) (s : State) : Out :=
  .next (s.typed h (binU .packed d a b (fun _ => packF sat hi) true))

/-- PMUL2 (R368). -/
def execPmul2 (h : Head) (d a b : Opnd) (u sat : Bool) (s : State) : Out :=
  .next (s.typed h (binV .packed d a b (fun _ => packedF u sat (· * ·)) true))

/-- PMAC2 (R373). -/
def execPmac2 (h : Head) (d a b : Opnd) (ua ub : Bool) (s : State) : Out :=
  .next (s.typed h (terV .packed d a b (fun _ => pmacF ua ub) true))

/-- DOT4 (R314). -/
def execDot4 (h : Head) (d a b : Opnd) (ua ub sat : Bool) (s : State) : Out :=
  .next (s.typed h (terV .int d a b (fun _ => dot4F ua ub sat)))

end Sys2Proof.Machine
end

