-- ==== Sys2Proof/Machine/Paired.lean ====
section
/-! DEFINITION. Paired words (R58, R73-R75, R95): each slot acts as the full-form word of its operation and of the class of its D,
with the default bits of the operation; a binary slot reads D and S, a unary one S alone. -/

namespace Sys2Proof.Machine

/-- A slot operation that reads S alone: R74 for the default page; for the others, the operations whose full form has no B. -/
def unaryOp (o : SlotOp) : Bool :=
  match o with
  | .mov | .prom | .iabs | .clz | .popc | .isat | .ldi | .ldih | .cvt | .frnd | .fgetx | .fgetm | .fclass | .vote | .aget => true
  | _ => false

/-- A source of a slot that faults whatever the classes of its sources. -/
def anyUse (o : Opnd) : Use := { o := o, aff := true, vary := true, pred := true }

/-- The class of a slot's operation does not admit its D (R35, R91); the sequencer cannot run it (R96). -/
def noForm (c : Cls) (d a b : Opnd) : Typed :=
  { need := { cls := c, dst := some d, srcs := [anyUse a, anyUse b], bad2 := true }, eff := fun _ _ => .ok id }

/-- A slot operation in class V, its sources `a` and `b`. -/
def slotV (op : SlotOp) (d a b : Opnd) : Typed :=
  match op with
  | .mov => unV .int d a (fun _ x => { r := x })
  | .iadd => binV .int d a b (fun _ => addF false)
  | .isub => binV .int d a b (fun _ => subF false)
  | .iand => binV .int d a b (fun _ => andF)
  | .ior => binV .int d a b (fun _ => orF)
  | .ixor => binV .int d a b (fun _ => xorF)
  | .ishl => binV .int d a b (fun _ => shlF false)
  | .ishr => binV .int d a b (fun _ => shrF)
  | .isra => binV .int d a b (fun _ => sraF)
  | .imin => binV .int d a b (fun _ => minF false)
  | .imax => binV .int d a b (fun _ => maxF false)
  | .fadd => binV (.float .fp32) d a b (faddF .rne)
  | .fsub => binV (.float .fp32) d a b (fsubF .rne)
  | .fmul => binV (.float .fp32) d a b (fmulF .rne)
  | .fmin => binV (.float .fp32) d a b (fun _ => fminmaxF false)
  | .fmax => binV (.float .fp32) d a b (fun _ => fminmaxF true)
  | .imul => binV .int d a b (fun _ => mulF false)
  | .padd2 => binV .packed d a b (fun _ => packedF false false (· + ·)) true
  | .psub2 => binV .packed d a b (fun _ => packedF false false (· - ·)) true
  | .hadd2 => binV (.halves .fp16) d a b (hadd2F .rne false)
  | .hmul2 => binV (.halves .fp16) d a b (hmul2F .rne false)
  | .prom => promVt d a false
  | .iabs => unV .int d a (fun _ => absF false)
  | .clz => unV .int d a (fun _ => clzF)
  | .imad => terV .int d a b (fun _ => madF false false)
  | .imulh => binV .int d a b (fun _ => mulhF false)
  | .icmp => binV .int d a b (fun _ => icmpF false .eq)
  | .isel => iselVt d a b false 0
  | .bfx => binV .int d a b (fun _ => bfxF false)
  | .bfi => terV .int d a b (fun _ => bfiF)
  | .popc => unV .int d a (fun _ => popcF)
  | .iadc => iadcVt d a b false 0
  | .shrr => binV .int d a b (fun _ => shrrF .rne false .s32 false)
  | .isat => unV .int d a (fun _ => isatF .s8)
  | .pack => binV .packed d a b (fun _ => packF false false) true
  | .ldi => ldiVt d 0
  | .ldih => unV .int d d (fun _ => ldihF 0)
  | .cvt => cvtVt d a b .rne false .i32 .i32
  | .ffma => terV (.float .fp32) d a b (ffmaF .rne false)
  | .fcmp => binV (.float .fp32) d a b (fun _ => fcmpF .eq)
  | .frnd => unV (.float .fp32) d a (fun _ => frndF .rne)
  | .fscl => binV (.float .fp32) d a b (fun _ => fsclF .rne)
  | .fgetx => unV (.float .fp32) d a (fun _ => fgetxF)
  | .fgetm => unV (.float .fp32) d a (fun _ => fgetmF)
  | .fclass => unV (.float .fp32) d a (fun _ => fclassF) true
  | .hfma2 => terV (.halves .fp16) d a b (hfma2F .rne false)
  | .rbits => rbitsVt d a b
  | .pmac2 => terV .packed d a b (fun _ => pmacF false false) true
  | .pmul2 => binV .packed d a b (fun _ => packedF false false (· * ·)) true
  | .dot4 => terV .int d a b (fun _ => dot4F false false false)
  | .wrth => wrthVt d a b
  | .vsld => vsldVt d a b false false 0
  | .vscan => vscanVt d a b .add false
  | .rdth | .vred | .vote | .aget | .aset => noForm .v d a b

/-- A slot operation in class U. -/
def slotU (op : SlotOp) (d a b : Opnd) : Typed :=
  match op with
  | .mov => unU .int d a (fun _ x => { r := x })
  | .iadd => binU .int d a b (fun _ => addF false)
  | .isub => binU .int d a b (fun _ => subF false)
  | .iand => binU .int d a b (fun _ => andF)
  | .ior => binU .int d a b (fun _ => orF)
  | .ixor => binU .int d a b (fun _ => xorF)
  | .ishl => binU .int d a b (fun _ => shlF false)
  | .ishr => binU .int d a b (fun _ => shrF)
  | .isra => binU .int d a b (fun _ => sraF)
  | .imin => binU .int d a b (fun _ => minF false)
  | .imax => binU .int d a b (fun _ => maxF false)
  | .fadd => binU (.float .fp32) d a b (faddF .rne)
  | .fsub => binU (.float .fp32) d a b (fsubF .rne)
  | .fmul => binU (.float .fp32) d a b (fmulF .rne)
  | .fmin => binU (.float .fp32) d a b (fun _ => fminmaxF false)
  | .fmax => binU (.float .fp32) d a b (fun _ => fminmaxF true)
  | .imul => binU .int d a b (fun _ => mulF false)
  | .padd2 => binU .packed d a b (fun _ => packedF false false (· + ·)) true
  | .psub2 => binU .packed d a b (fun _ => packedF false false (· - ·)) true
  | .hadd2 => binU (.halves .fp16) d a b (hadd2F .rne false)
  | .hmul2 => binU (.halves .fp16) d a b (hmul2F .rne false)
  | .iabs => unU .int d a (fun _ => absF false)
  | .clz => unU .int d a (fun _ => clzF)
  | .imad => terU .int d a b (fun _ => madF false false)
  | .imulh => binU .int d a b (fun _ => mulhF false)
  | .icmp => binU .int d a b (fun _ => icmpF false .eq)
  | .isel => iselUt d a b false 0
  | .bfx => binU .int d a b (fun _ => bfxF false)
  | .bfi => terU .int d a b (fun _ => bfiF)
  | .popc => unU .int d a (fun _ => popcF)
  | .iadc => iadcUt d a b false 0
  | .shrr => binU .int d a b (fun _ => shrrF .rne false .s32 false)
  | .isat => unU .int d a (fun _ => isatF .s8)
  | .pack => binU .packed d a b (fun _ => packF false false) true
  | .ldi => ldiUt d 0
  | .ldih => unU .int d d (fun _ => ldihF 0)
  | .cvt => cvtUt d a b .rne false .i32 .i32
  | .ffma => terU (.float .fp32) d a b (ffmaF .rne false)
  | .fcmp => binU (.float .fp32) d a b (fun _ => fcmpF .eq)
  | .frnd => unU (.float .fp32) d a (fun _ => frndF .rne)
  | .fscl => binU (.float .fp32) d a b (fun _ => fsclF .rne)
  | .fgetx => unU (.float .fp32) d a (fun _ => fgetxF)
  | .fgetm => unU (.float .fp32) d a (fun _ => fgetmF)
  | .fclass => unU (.float .fp32) d a (fun _ => fclassF) true
  | .hfma2 => terU (.halves .fp16) d a b (hfma2F .rne false)
  | .rbits => rbitsUt d a b
  | .rdth => rdthUt d a b
  | .vred => vredUt d a b .add
  | .vote => voteUt d a .all false
  | .aget => agetUt d a .base
  | .prom | .pmac2 | .pmul2 | .dot4 | .wrth | .vsld | .vscan | .aset => noForm .u d a b

/-- A slot operation in class A. -/
def slotA (op : SlotOp) (d a b : Opnd) : Typed :=
  match op with
  | .mov => movAt d a
  | .iadd => binA d a b addA
  | .isub => binA d a b subA
  | .imul => binA d a b mulA (isAffine a && isAffine b)
  | .ishl => binA d a b shlA (isAffine b)
  | .prom => promAt d a
  | .ldi => ldiAt d 0
  | .aset => asetAt d a b
  | _ => noForm .a d a b

/-- The specifiers that count as sources of a slot with such a D: on the sequencer a p register or a.lane anywhere has cause 0x02
(R96). -/
def slotUses (x : PSlot) : List Use :=
  let d := match x.d with
    | .p _ | .lane => true
    | _ => !unaryOp x.op
  (if d then [anyUse x.d] else []) ++ [anyUse x.s]

/-- A slot as the full-form word it stands for; `v0` stands where the full form names nothing. A D that is no v, k or a register
has cause 0x0E (R73); a binary slot reads it as it reads any D (R58). -/
def slotTyped (x : PSlot) : Typed :=
  let a := if unaryOp x.op then x.s else x.d
  let b := if unaryOp x.op then .v 0 else x.s
  let t := match x.d with
    | .v _ => slotV x.op x.d a b
    | .k _ => slotU x.op x.d a b
    | .a _ => slotA x.op x.d a b
    | _ => { need := { cls := .x, seq := true, badE := true, srcs := slotUses x }, eff := fun _ _ => .ok id }
  let one := match x.op with
    | .vsld => true
    | .ldi | .ldih => !(x.s == .v 0)
    | _ => false
  { t with need := { t.need with bad1 := t.need.bad1 || one } }

/-- The threads of a varying slot's guard (R59). -/
def Agent.slotMask (ag : Agent) (g : SlotGuard) : Mask :=
  match g with
  | .always => fullMask
  | .on0 => ag.preg 0
  | .on1 => ag.preg 1
  | .not0 => ~~~ag.preg 0

/-- The guard of a uniform or affine slot (R59). -/
def Agent.slotFlag (ag : Agent) (g : SlotGuard) : Bool :=
  match g with
  | .always => true
  | .on0 => ag.flag 0
  | .on1 => ag.flag 1
  | .not0 => !ag.flag 0

/-- What a slot asks, its guard included. -/
def PSlot.need (x : PSlot) : Need :=
  let n := (slotTyped x).need
  { n with reads := n.reads ++ (if n.cls == .v then match x.sp with
    | .always => []
    | .on1 => [.p 1]
    | _ => [.p 0] else []) }

/-- Whether a slot acts, varying slots thread by thread. -/
def Agent.slotOn (ag : Agent) (x : PSlot) : Bool := (slotTyped x).need.cls == .v || ag.slotFlag x.sp

/-- The varying registers that a slot reads (R74). -/
def slotReads (x : PSlot) : List Nat :=
  (match x.s with
    | .v n => [n.val]
    | _ => []) ++ (if unaryOp x.op then [] else match x.d with
    | .v n => [n.val]
    | _ => [])

/-- Two distinct varying registers that the word reads lie in one bank (R74). -/
def bankClash (l : List Nat) : Bool := l.any (fun x => l.any (fun y => !(x == y) && x % 8 == y % 8))

/-- The place of a cause in the order of R78. -/
def causeRank (c : Nat) : Nat := ([0x01, 0x0D, 0x0C, 0x02, 0x0E, 0x06, 0x03, 0x05].findIdx? (· == c)).getD 8

/-- The earlier of two causes in the order of R78. -/
def earlierCause (x y : Option Nat) : Option Nat :=
  match x, y with
  | some a, some b => if causeRank b < causeRank a then some b else some a
  | some a, none => some a
  | none, y => y

/-- The first cause that a paired word meets: that of either slot, or one of the word's own (R73, R74); log 25. -/
def State.pairCause (s : State) (x y : PSlot) : Option Nat :=
  let ag := s.agent
  earlierCause (earlierCause (ag.firstFault s.mayPriv (PSlot.need x) (ag.slotOn x))
    (ag.firstFault s.mayPriv (PSlot.need y) (ag.slotOn y)))
    (if x.d == y.d then some 0x01 else if bankClash (slotReads x ++ slotReads y) then some 0x06 else none)

/-- The effect of a slot on the agent: it reads the state before the word (R73); log 25. -/
def State.slotEff (s : State) (x : PSlot) : Except Flt (Agent → Agent) :=
  if s.agent.slotOn x then (slotTyped x).eff s (if (slotTyped x).need.cls == .v then s.agent.exm &&& s.agent.slotMask x.sp else fullMask)
  else .ok id

/-- The threads that the varying slots of a paired word take, both slots in the same cycle (R46). -/
def State.pairTakes (s : State) (x y : PSlot) : Mask :=
  let of (z : PSlot) : Mask := if (slotTyped z).need.cls == .v then s.agent.exm &&& s.agent.slotMask z.sp else 0
  of x ||| of y

/-- A paired word (R73); log 25. -/
def execPairedWord (nas : Nas) (s1 s2 : PSlot) (s : State) : Out :=
  .next (s.issueAfter nas (s.pairCause s1 s2) ((slotTyped s1).need.srcs ++ (slotTyped s2).need.srcs) true (fun s =>
    match s.slotEff s1, s.slotEff s2 with
    | .error f, _ | _, .error f => .bad f
    | .ok f, .ok g => .ok ((s.track (s.pairTakes s1 s2)).me (fun ag => g (f ag))) s.npc))

end Sys2Proof.Machine
end

