-- ==== Sys2Proof/Machine/Dispatch.lean ====
section
/-! DEFINITION. The dispatch of instructions and events to their meanings, one arm per constructor. -/

namespace Sys2Proof.Machine

/-- The meaning of an instruction or event. -/
def exec (i : Instr) (s : State) : Host.Outcome State Fault Refusal :=
  match i with
  | .iaddV h d a b sat => Sys2Proof.Machine.execIaddV h d a b sat s
  | .iaddU h d a b sat => Sys2Proof.Machine.execIaddU h d a b sat s
  | .iaddA h d a b => Sys2Proof.Machine.execIaddA h d a b s
  | .isubV h d a b sat => Sys2Proof.Machine.execIsubV h d a b sat s
  | .isubU h d a b sat => Sys2Proof.Machine.execIsubU h d a b sat s
  | .isubA h d a b => Sys2Proof.Machine.execIsubA h d a b s
  | .imulV h d a b sat => Sys2Proof.Machine.execImulV h d a b sat s
  | .imulU h d a b sat => Sys2Proof.Machine.execImulU h d a b sat s
  | .imulA h d a b => Sys2Proof.Machine.execImulA h d a b s
  | .ishlV h d a b sat => Sys2Proof.Machine.execIshlV h d a b sat s
  | .ishlU h d a b sat => Sys2Proof.Machine.execIshlU h d a b sat s
  | .ishlA h d a b => Sys2Proof.Machine.execIshlA h d a b s
  | .movV h d a => Sys2Proof.Machine.execMovV h d a s
  | .movU h d a => Sys2Proof.Machine.execMovU h d a s
  | .movA h d a => Sys2Proof.Machine.execMovA h d a s
  | .ldiV h d imm => Sys2Proof.Machine.execLdiV h d imm s
  | .ldiU h d imm => Sys2Proof.Machine.execLdiU h d imm s
  | .ldiA h d imm => Sys2Proof.Machine.execLdiA h d imm s
  | .imadV h d a b u sat => Sys2Proof.Machine.execImadV h d a b u sat s
  | .imadU h d a b u sat => Sys2Proof.Machine.execImadU h d a b u sat s
  | .imulhV h d a b u => Sys2Proof.Machine.execImulhV h d a b u s
  | .imulhU h d a b u => Sys2Proof.Machine.execImulhU h d a b u s
  | .ishrV h d a b => Sys2Proof.Machine.execIshrV h d a b s
  | .ishrU h d a b => Sys2Proof.Machine.execIshrU h d a b s
  | .israV h d a b => Sys2Proof.Machine.execIsraV h d a b s
  | .israU h d a b => Sys2Proof.Machine.execIsraU h d a b s
  | .iandV h d a b => Sys2Proof.Machine.execIandV h d a b s
  | .iandU h d a b => Sys2Proof.Machine.execIandU h d a b s
  | .iorV h d a b => Sys2Proof.Machine.execIorV h d a b s
  | .iorU h d a b => Sys2Proof.Machine.execIorU h d a b s
  | .ixorV h d a b => Sys2Proof.Machine.execIxorV h d a b s
  | .ixorU h d a b => Sys2Proof.Machine.execIxorU h d a b s
  | .iminV h d a b u => Sys2Proof.Machine.execIminV h d a b u s
  | .iminU h d a b u => Sys2Proof.Machine.execIminU h d a b u s
  | .imaxV h d a b u => Sys2Proof.Machine.execImaxV h d a b u s
  | .imaxU h d a b u => Sys2Proof.Machine.execImaxU h d a b u s
  | .iabsV h d a sat => Sys2Proof.Machine.execIabsV h d a sat s
  | .iabsU h d a sat => Sys2Proof.Machine.execIabsU h d a sat s
  | .icmpV h d a b u c => Sys2Proof.Machine.execIcmpV h d a b u c s
  | .icmpU h d a b u c => Sys2Proof.Machine.execIcmpU h d a b u c s
  | .iselV h d a b neg n => Sys2Proof.Machine.execIselV h d a b neg n s
  | .iselU h d a b neg n => Sys2Proof.Machine.execIselU h d a b neg n s
  | .bfxV h d a b sx => Sys2Proof.Machine.execBfxV h d a b sx s
  | .bfxU h d a b sx => Sys2Proof.Machine.execBfxU h d a b sx s
  | .bfiV h d a b => Sys2Proof.Machine.execBfiV h d a b s
  | .bfiU h d a b => Sys2Proof.Machine.execBfiU h d a b s
  | .popcV h d a => Sys2Proof.Machine.execPopcV h d a s
  | .popcU h d a => Sys2Proof.Machine.execPopcU h d a s
  | .clzV h d a => Sys2Proof.Machine.execClzV h d a s
  | .clzU h d a => Sys2Proof.Machine.execClzU h d a s
  | .iadcV h d a b ci n => Sys2Proof.Machine.execIadcV h d a b ci n s
  | .iadcU h d a b ci n => Sys2Proof.Machine.execIadcU h d a b ci n s
  | .shrrV h d a b r sat rng u => Sys2Proof.Machine.execShrrV h d a b r sat rng u s
  | .shrrU h d a b r sat rng u => Sys2Proof.Machine.execShrrU h d a b r sat rng u s
  | .isatV h d a rng => Sys2Proof.Machine.execIsatV h d a rng s
  | .isatU h d a rng => Sys2Proof.Machine.execIsatU h d a rng s
  | .padd2V h d a b u sat => Sys2Proof.Machine.execPadd2V h d a b u sat s
  | .padd2U h d a b u sat => Sys2Proof.Machine.execPadd2U h d a b u sat s
  | .psub2V h d a b u sat => Sys2Proof.Machine.execPsub2V h d a b u sat s
  | .psub2U h d a b u sat => Sys2Proof.Machine.execPsub2U h d a b u sat s
  | .packV h d a b sat hi => Sys2Proof.Machine.execPackV h d a b sat hi s
  | .packU h d a b sat hi => Sys2Proof.Machine.execPackU h d a b sat hi s
  | .ldihV h d imm => Sys2Proof.Machine.execLdihV h d imm s
  | .ldihU h d imm => Sys2Proof.Machine.execLdihU h d imm s
  | .cvtV h d a b r sat dt st => Sys2Proof.Machine.execCvtV h d a b r sat dt st s
  | .cvtU h d a b r sat dt st => Sys2Proof.Machine.execCvtU h d a b r sat dt st s
  | .faddV h d a b r => Sys2Proof.Machine.execFaddV h d a b r s
  | .faddU h d a b r => Sys2Proof.Machine.execFaddU h d a b r s
  | .fsubV h d a b r => Sys2Proof.Machine.execFsubV h d a b r s
  | .fsubU h d a b r => Sys2Proof.Machine.execFsubU h d a b r s
  | .fmulV h d a b r => Sys2Proof.Machine.execFmulV h d a b r s
  | .fmulU h d a b r => Sys2Proof.Machine.execFmulU h d a b r s
  | .ffmaV h d a b r horner => Sys2Proof.Machine.execFfmaV h d a b r horner s
  | .ffmaU h d a b r horner => Sys2Proof.Machine.execFfmaU h d a b r horner s
  | .fminV h d a b => Sys2Proof.Machine.execFminV h d a b s
  | .fminU h d a b => Sys2Proof.Machine.execFminU h d a b s
  | .fmaxV h d a b => Sys2Proof.Machine.execFmaxV h d a b s
  | .fmaxU h d a b => Sys2Proof.Machine.execFmaxU h d a b s
  | .fcmpV h d a b c => Sys2Proof.Machine.execFcmpV h d a b c s
  | .fcmpU h d a b c => Sys2Proof.Machine.execFcmpU h d a b c s
  | .frndV h d a r => Sys2Proof.Machine.execFrndV h d a r s
  | .frndU h d a r => Sys2Proof.Machine.execFrndU h d a r s
  | .fsclV h d a b r => Sys2Proof.Machine.execFsclV h d a b r s
  | .fsclU h d a b r => Sys2Proof.Machine.execFsclU h d a b r s
  | .fgetxV h d a => Sys2Proof.Machine.execFgetxV h d a s
  | .fgetxU h d a => Sys2Proof.Machine.execFgetxU h d a s
  | .fgetmV h d a => Sys2Proof.Machine.execFgetmV h d a s
  | .fgetmU h d a => Sys2Proof.Machine.execFgetmU h d a s
  | .fclassV h d a => Sys2Proof.Machine.execFclassV h d a s
  | .fclassU h d a => Sys2Proof.Machine.execFclassU h d a s
  | .hfma2V h d a b r bf => Sys2Proof.Machine.execHfma2V h d a b r bf s
  | .hfma2U h d a b r bf => Sys2Proof.Machine.execHfma2U h d a b r bf s
  | .hadd2V h d a b r bf => Sys2Proof.Machine.execHadd2V h d a b r bf s
  | .hadd2U h d a b r bf => Sys2Proof.Machine.execHadd2U h d a b r bf s
  | .hmul2V h d a b r bf => Sys2Proof.Machine.execHmul2V h d a b r bf s
  | .hmul2U h d a b r bf => Sys2Proof.Machine.execHmul2U h d a b r bf s
  | .rbitsV h d a b => Sys2Proof.Machine.execRbitsV h d a b s
  | .rbitsU h d a b => Sys2Proof.Machine.execRbitsU h d a b s
  | .pmac2 h d a b ua ub => Sys2Proof.Machine.execPmac2 h d a b ua ub s
  | .pmul2 h d a b u sat => Sys2Proof.Machine.execPmul2 h d a b u sat s
  | .dot4 h d a b ua ub sat => Sys2Proof.Machine.execDot4 h d a b ua ub sat s
  | .wrth h d a b => Sys2Proof.Machine.execWrth h d a b s
  | .vsld h d a b half down n => Sys2Proof.Machine.execVsld h d a b half down n s
  | .vscan h d a b op ex => Sys2Proof.Machine.execVscan h d a b op ex s
  | .vperm h d a b => Sys2Proof.Machine.execVperm h d a b s
  | .promV h d a chk => Sys2Proof.Machine.execPromV h d a chk s
  | .promA h d a => Sys2Proof.Machine.execPromA h d a s
  | .rdth h d a b => Sys2Proof.Machine.execRdth h d a b s
  | .vred h d a b op => Sys2Proof.Machine.execVred h d a b op s
  | .vote h d a op neg => Sys2Proof.Machine.execVote h d a op neg s
  | .aget h d a part => Sys2Proof.Machine.execAget h d a part s
  | .aset h d a b => Sys2Proof.Machine.execAset h d a b s
  | .ldV h d a b spc ty pw nc chk => Sys2Proof.Machine.execLdV h d a b spc ty pw nc chk s
  | .ldU h d a b spc ty pw nc chk => Sys2Proof.Machine.execLdU h d a b spc ty pw nc chk s
  | .stV h d a b spc ty nc chk => Sys2Proof.Machine.execStV h d a b spc ty nc chk s
  | .stU h d a b spc ty nc chk => Sys2Proof.Machine.execStU h d a b spc ty nc chk s
  | .atomV h d a b scr op wide chk => Sys2Proof.Machine.execAtomV h d a b scr op wide chk s
  | .atomU h d a b scr op wide chk => Sys2Proof.Machine.execAtomU h d a b scr op wide chk s
  | .redV h d a b scr op wide chk => Sys2Proof.Machine.execRedV h d a b scr op wide chk s
  | .redU h d a b scr op wide chk => Sys2Proof.Machine.execRedU h d a b scr op wide chk s
  | .pftV h a b spc ty nc chk => Sys2Proof.Machine.execPftV h a b spc ty nc chk s
  | .pftU h a b spc ty nc chk => Sys2Proof.Machine.execPftU h a b spc ty nc chk s
  | .bld h d a buf ty => Sys2Proof.Machine.execBld h d a buf ty s
  | .bst h d a buf ty => Sys2Proof.Machine.execBst h d a buf ty s
  | .pairedWord nas s1 s2 => Sys2Proof.Machine.execPairedWord nas s1 s2 s
  | .nop h => Sys2Proof.Machine.execNop h s
  | .mskif h a neg => Sys2Proof.Machine.execMskif h a neg s
  | .mskelse h => Sys2Proof.Machine.execMskelse h s
  | .mskend h => Sys2Proof.Machine.execMskend h s
  | .mskbrk h a neg n => Sys2Proof.Machine.execMskbrk h a neg n s
  | .ldj h j1 imm => Sys2Proof.Machine.execLdj h j1 imm s
  | .loop h a len => Sys2Proof.Machine.execLoop h a len s
  | .waitop h m => Sys2Proof.Machine.execWaitop h m s
  | .fence h kind sc => Sys2Proof.Machine.execFence h kind sc s
  | .xfence h p q sc => Sys2Proof.Machine.execXfence h p q sc s
  | .bind h a b rs os cl => Sys2Proof.Machine.execBind h a b rs os cl s
  | .unbind h a rs all => Sys2Proof.Machine.execUnbind h a rs all s
  | .acq h a sh os => Sys2Proof.Machine.execAcq h a sh os s
  | .rel h a os => Sys2Proof.Machine.execRel h a os s
  | .clasp h a => Sys2Proof.Machine.execClasp h a s
  | .claspa h a => Sys2Proof.Machine.execClaspa h a s
  | .claspw h a => Sys2Proof.Machine.execClaspw h a s
  | .fork h a b n grp => Sys2Proof.Machine.execFork h a b n grp s
  | .rdv h a => Sys2Proof.Machine.execRdv h a s
  | .trig h => Sys2Proof.Machine.execTrig h s
  | .rinit h a b => Sys2Proof.Machine.execRinit h a b s
  | .rget h d a => Sys2Proof.Machine.execRget h d a s
  | .tspawn h a => Sys2Proof.Machine.execTspawn h a s
  | .time h d => Sys2Proof.Machine.execTime h d s
  | .sleepat h a => Sys2Proof.Machine.execSleepat h a s
  | .trace h a b => Sys2Proof.Machine.execTrace h a b s
  | .mbxr h d a => Sys2Proof.Machine.execMbxr h d a s
  | .mbxw h a b => Sys2Proof.Machine.execMbxw h a b s
  | .gzreg h d a => Sys2Proof.Machine.execGzreg h d a s
  | .gzdel h a => Sys2Proof.Machine.execGzdel h a s
  | .gzreq h d a b op elt sat now => Sys2Proof.Machine.execGzreq h d a b op elt sat now s
  | .gzhold h a res => Sys2Proof.Machine.execGzhold h a res s
  | .gzpos h d a => Sys2Proof.Machine.execGzpos h d a s
  | .cpy h a src dst => Sys2Proof.Machine.execCpy h a src dst s
  | .tload h a b x t n core => Sys2Proof.Machine.execTload h a b x t n core s
  | .tstor h a tile core => Sys2Proof.Machine.execTstor h a tile core s
  | .tidset h a b => Sys2Proof.Machine.execTidset h a b s
  | .tidget h d a b => Sys2Proof.Machine.execTidget h d a b s
  | .mmac h a b t src rm n => Sys2Proof.Machine.execMmac h a b t src rm n s
  | .mmap h c2 a b src rm n => Sys2Proof.Machine.execMmap h c2 a b src rm n s
  | .mmd2 h c2 a b src rm => Sys2Proof.Machine.execMmd2 h c2 a b src rm s
  | .gcmb h c2 a solo => Sys2Proof.Machine.execGcmb h c2 a solo s
  | .mzero h => Sys2Proof.Machine.execMzero h s
  | .mqnt h a x sat n => Sys2Proof.Machine.execMqnt h a x sat n s
  | .mscl h a => Sys2Proof.Machine.execMscl h a s
  | .trap h a => Sys2Proof.Machine.execTrap h a s
  | .tret h => Sys2Proof.Machine.execTret h s
  | .wrs h d a => Sys2Proof.Machine.execWrs h d a s
  | .tlbi h a b all => Sys2Proof.Machine.execTlbi h a b all s
  | .dtld h a => Sys2Proof.Machine.execDtld h a s
  | .bkpt h => Sys2Proof.Machine.execBkpt h s
  | .gend h a => Sys2Proof.Machine.execGend h a s
  | .park h a => Sys2Proof.Machine.execPark h a s
  | .dirty h d a => Sys2Proof.Machine.execDirty h d a s
  | .pctlStop h a b => Sys2Proof.Machine.execPctlStop h a b s
  | .pctlResume h a b => Sys2Proof.Machine.execPctlResume h a b s
  | .pctlReset h a b => Sys2Proof.Machine.execPctlReset h a b s
  | .larm h a b tag => Sys2Proof.Machine.execLarm h a b tag s
  | .slotCompletion ag slot upto => Sys2Proof.Machine.execSlotCompletion ag slot upto s
  | .warpRetire ag => Sys2Proof.Machine.execWarpRetire ag s
  | .pwLoadMatch ag slot => Sys2Proof.Machine.execPwLoadMatch ag slot s
  | .submit vf addr => Sys2Proof.Machine.execSubmit vf addr s
  | .taskDispatch vf die => Sys2Proof.Machine.execTaskDispatch vf die s
  | .recordAgeing addr => Sys2Proof.Machine.execRecordAgeing addr s
  | .warpAdmit launch die core => Sys2Proof.Machine.execWarpAdmit launch die core s
  | .launchRetire launch => Sys2Proof.Machine.execLaunchRetire launch s
  | .triggerRelease launch => Sys2Proof.Machine.execTriggerRelease launch s
  | .copyComplete copy => Sys2Proof.Machine.execCopyComplete copy s
  | .arrival die addr value => Sys2Proof.Machine.execArrival die addr value s
  | .evofisalArrival die sender addr value => Sys2Proof.Machine.execEvofisalArrival die sender addr value s
  | .acqGrant ag => Sys2Proof.Machine.execAcqGrant ag s
  | .claspRoundComplete launch g => Sys2Proof.Machine.execClaspRoundComplete launch g s
  | .seqProgramStart ag => Sys2Proof.Machine.execSeqProgramStart ag s
  | .seqProgramFault ag => Sys2Proof.Machine.execSeqProgramFault ag s
  | .rdvMeetingComplete ag => Sys2Proof.Machine.execRdvMeetingComplete ag s
  | .matrixOpStart op => Sys2Proof.Machine.execMatrixOpStart op s
  | .matrixOpComplete op => Sys2Proof.Machine.execMatrixOpComplete op s
  | .rgetServe ag slot => Sys2Proof.Machine.execRgetServe ag slot s
  | .quantumCommit launch => Sys2Proof.Machine.execQuantumCommit launch s
  | .rowRestore die bank => Sys2Proof.Machine.execRowRestore die bank s
  | .requestAccept ag slot => Sys2Proof.Machine.execRequestAccept ag slot s
  | .demandActivation die bank row => Sys2Proof.Machine.execDemandActivation die bank row s
  | .trapEntry ag => Sys2Proof.Machine.execTrapEntry ag s
  | .parkRestore ag core => Sys2Proof.Machine.execParkRestore ag core s
  | .partialEviction ag => Sys2Proof.Machine.execPartialEviction ag s
  | .warpReadmit ag core => Sys2Proof.Machine.execWarpReadmit ag core s
  | .fullSave ctx => Sys2Proof.Machine.execFullSave ctx s
  | .locketExchangeRequest die => Sys2Proof.Machine.execLocketExchangeRequest die s
  | .locketExchange die => Sys2Proof.Machine.execLocketExchange die s
  | .watchdogExpiry launch => Sys2Proof.Machine.execWatchdogExpiry launch s
  | .watchdogSecondExpiry launch => Sys2Proof.Machine.execWatchdogSecondExpiry launch s
  | .pctlComplete op => Sys2Proof.Machine.execPctlComplete op s
  | .noticePost ctx => Sys2Proof.Machine.execNoticePost ctx s
  | .meshAccess src write pa value => Sys2Proof.Machine.execMeshAccess src write pa value s
  | .evofisalAccess die sender write pa value => Sys2Proof.Machine.execEvofisalAccess die sender write pa value s
  | .bezelWrite die firmware off value => Sys2Proof.Machine.execBezelWrite die firmware off value s
  | .registerWrite r => Sys2Proof.Machine.execRegisterWrite r s
  | .sleepWake ag => Sys2Proof.Machine.execSleepWake ag s
  | .servoStep ns => Sys2Proof.Machine.execServoStep ns s
  | .dieResetRelease die => Sys2Proof.Machine.execDieResetRelease die s
  | .coreEnable die => Sys2Proof.Machine.execCoreEnable die s
  | .arrayRampStep die core => Sys2Proof.Machine.execArrayRampStep die core s
  | .currentLimit die cycles => Sys2Proof.Machine.execCurrentLimit die cycles s
  | .thermalTrip die => Sys2Proof.Machine.execThermalTrip die s
  | .bootVerify rsa slh => Sys2Proof.Machine.execBootVerify rsa slh s
  | .debugUnlock die verified => Sys2Proof.Machine.execDebugUnlock die verified s
  | .mirrorAcknowledgement write ok => Sys2Proof.Machine.execMirrorAcknowledgement write ok s
  | .pciePeerWrite die pa bytes => Sys2Proof.Machine.execPciePeerWrite die pa bytes s
  | .partitionOffExit die => Sys2Proof.Machine.execPartitionOffExit die s
  | .moduleStandbyEntry => Sys2Proof.Machine.execModuleStandbyEntry s
  | .moduleStandbyExit => Sys2Proof.Machine.execModuleStandbyExit s
  | .noticeQueueRoom ctx => Sys2Proof.Machine.execNoticeQueueRoom ctx s

end Sys2Proof.Machine
end

