-- ==== Sys2Proof/Machine/Progress.lean ====
section
/-! DEFINITION. What acts next where the spec leaves it to timing (R216, R413): an agent, or an event of the engines. -/

namespace Sys2Proof.Machine

/-- Events that a word in flight may come about by. -/
def Inflight.events (f : Inflight) (ag : Nat) : List Instr :=
  if f.finished then []
  else match f.instr with
    | .rget .. => [.rgetServe ag f.slot]
    | .gzreq .. => [.requestAccept ag f.slot]
    | _ => if f.pwNo = 0 then [.slotCompletion ag f.slot 128] else [.pwLoadMatch ag f.slot]

/-- An agent waits for an object. -/
def Agent.asks (a : Agent) : Bool :=
  match a.hold, a.wait with
  | .acq .., _ | _, .acq .. => true
  | _, _ => false

/-- Events of an agent, `core` standing for a core that has room. -/
def Agent.events (a : Agent) (core : Nat) : List Instr :=
  a.inflight.flatMap (fun f => f.events a.id) ++ (if a.asks then [.acqGrant a.id] else []) ++
    (if a.rdvs.isEmpty then [] else [.rdvMeetingComplete a.id]) ++
    (match a.hold with
      | .sleep _ => [.sleepWake a.id]
      | _ => []) ++
    match a.status with
    | .exiting => [.warpRetire a.id]
    | .waiting => [.slotCompletion a.forker 0 128]
    | .queued => [.seqProgramStart a.id]
    | .faulted => [.seqProgramFault a.id]
    | .evicted => [.warpReadmit a.id core]
    | _ => []

/-- Events of a launch. -/
def State.launchEvents (s : State) (l : Nat) (x : Launch) (core : Nat) : List Instr :=
  [.launchRetire l, .triggerRelease l, .watchdogExpiry l, .watchdogSecondExpiry l, .quantumCommit l] ++
    (s.vfDies x.vf).map (fun d => .warpAdmit l d core)

/-- Events of the ready queues: dispatch, ageing, and eviction in favour of a record. -/
def State.queueEvents (s : State) : List Instr :=
  (s.ctxs.filter (fun e => !e.2.landed.isEmpty)).map (fun e => .taskDispatch e.2.desc.vf e.2.die) ++
  if s.queue.isEmpty then []
  else s.queue.flatMap (fun q => .recordAgeing q.record :: (s.vfDies q.vf).map (fun d => .taskDispatch q.vf d)) ++
    (s.agents.filter (fun a => a.kind == .warp && a.resident)).map (fun a => .partialEviction a.id)

/-- Events of a die. -/
def Die.events (d : Die) (die core : Nat) : List Instr :=
  if d.released then [.coreEnable die, .arrayRampStep die core] else []

/-- Every event of the engines that may come about, `k` counting the steps at which one does. Inputs from outside the module and
the acts of firmware are not among them: they come in `events`. Nor are the restores and demand activations of the sweep, whose times
are set (R141, R157): `step` makes them when they fall due. -/
def State.candidates (s : State) (k : Nat) : List Instr :=
  let core := k % 32
  s.agents.flatMap (fun a => a.events core) ++ s.queueEvents ++
    s.launches.flatMap (fun e => s.launchEvents e.1 e.2 core) ++
    s.rounds.map (fun r => .claspRoundComplete r.launch r.g) ++
    s.copies.map (fun c => .copyComplete c.id) ++
    s.mops.map (fun o => if o.started then .matrixOpComplete o.id else .matrixOpStart o.id) ++
    s.pctls.map (fun p => .pctlComplete p.id) ++
    (s.ctxs.filter (fun e => !e.2.noticeWait.isEmpty)).map (fun e => .noticePost e.1) ++
    s.dies.flatMap (fun e => e.2.events e.1 core)

/-- The engines' own next event: each in its turn. -/
def State.progress (s : State) : Option Instr :=
  if !(s.boot == .running) then none
  else
    let k := s.fresh / 4
    let n := (s.candidates 0).length
    (s.candidates (k / max n 1))[k % max n 1]?

/-- What acts next: an agent, or an event. -/
inductive Act where
  | agent (a : Agent)
  | event (i : Instr)
  | idle
  deriving DecidableEq, Repr

/-- What acts at this step: an event every fourth step, an agent at the others, or as `turns` has it. -/
def State.act (s : State) : Act :=
  let ev : Act := match s.progress with
    | some i => .event i
    | none => match s.anyChosen with
      | some a => .agent a
      | none => .idle
  match s.turns with
  | 0 :: _ => ev
  | (u + 1) :: _ => match s.chosen u with
    | some a => .agent a
    | none => ev
  | [] =>
    if s.fresh % 4 = 3 then ev
    else match s.anyChosen with
      | some a => .agent a
      | none => ev

end Sys2Proof.Machine
end

