-- ==== Sys2Proof/Machine/Step.lean ====
section
/-! DEFINITION. One step of the module, and the placing of an instruction where the next step fetches. -/

namespace Sys2Proof.Machine

/-- The rows of the frame fields that a word reads as specials opened (R155, R251). -/
def State.openFields (s : State) (w : Nat) : State :=
  let names (i : Nat) : Bool := match opnd (fld w i 10) with
    | .sp n => isFrameSpecial n && decide (n.val < 0x36)
    | _ => false
  if s.agent.handler && (if bit w 59 then names 31 || names 3 else names 31 || names 21 || names 11) then
    s.touch s.agent.ctx s.agent.die s.agent.tframe.toNat 64
  else s

/-- The current agent at its word boundary: the trap that is due (R250), or the word at PC, fetched, decoded through the
context's table (R76) and executed, unless its fetch (R157) or its issue (R21) has to wait. -/
def State.turn (s : State) : Host.Outcome State Fault Refusal :=
  if s.agent.trapDue then exec (.trapEntry s.agent.id) s
  else match s.fetchWait with
  | some s' => .next s'
  | none => match s.fetch with
    | .error f => .next (s.raise f)
    | .ok (w, s') => match decode (s'.ctx s'.agent.ctx).table w with
      | .error e => .next (s'.raise (s'.agent.flt (s'.agent.decodeCause e)))
      | .ok i => if s'.limited w then .next s' else exec i (s'.openFields w)

/-- Time passes, by an amount that the spec leaves open (log 5), and with it the errors that arise in memory (R139; log 59); agents that are
ready then are noted, and a trace record that has waited is written; log 59. -/
def State.pass (s : State) : State :=
  (({ s with time := s.time + s.ticks (Config.tick s.fresh), fresh := s.fresh + 1, turns := s.turns.tail, blocked := none
             memPoison := (s.errors.headD []).foldl (fun l c => setIn l c true) s.memPoison, errors := s.errors.tail }).noteReady).flushTrace

/-- What was done on a state, unless an access of it has to wait for the demand activation of a row (R157): then nothing is done but that the
access joins the order, and it is made again; log 51. -/
def State.unlessBlocked (s : State) (r : Host.Outcome State Fault Refusal) : Host.Outcome State Fault Refusal :=
  match r with
  | .next t => match t.blocked with
    | none => r
    | some (d, b, w) => .next { s.joinRow d b w with blocked := none }
  | r => r

/-- One step: nothing after a boot that was halted (R284); what the sweeps owe at this instant (R141, R157), for which no time passes;
the oldest pending input or event; or what acts next; log 48. -/
def step (s : State) : Host.Outcome State Fault Refusal :=
  if s.boot == .halted then .fault .bootHalted
  else match s.sweepDue with
  | some i => exec i { s with fresh := s.fresh + 1 }
  | none => match s.events with
    | e :: es => s.pass.unlessBlocked (exec e { s.pass with events := es })
    | [] => match s.act with
      | .agent a => (s.pass.choose a).unlessBlocked (s.pass.choose a).turn
      | .event i => s.pass.unlessBlocked (exec i s.pass)
      | .idle => .next s.pass

/-- The context in which `withFetchWord` places its instruction: active, with page tables at physical addresses 0x1000 to
0x3FFF that map the first GiB to itself, readable, writable and executable. -/
def fetchCtx : Ctx :=
  { Ctx.absent with residency := .active, desc := { Descriptor.zero with root := 0x1000, he := 0x8000, ta := 0x2000000 } }

/-- A warp as a launch starts it (R88, R205). -/
def fetchAgent (id : Nat) : Agent := { Agent.vacant with id := id, status := .live, exm := fullMask, live := fullMask }

/-- The state with an instruction placed where the next step fetches it: its word in memory at 0x10000, page tables, an active
context, a running die, and a warp at that address that acts next; log 1. -/
def State.withFetchWord (s : State) (nbits w : Nat) : State :=
  let m := Memory.write s.mem 0x1000 (leBytes 8 0x2001)
  let m := Memory.write m 0x2000 (leBytes 8 0x3001)
  let m := Memory.write m 0x3000 (leBytes 8 0x1F)
  let m := Memory.write m 0x10000 (leBytes 8 (w % 2 ^ min nbits 64))
  let new := s.agent.status == .vacant
  let ag := if new then fetchAgent (s.handles + 1) else s.agent
  let ag : Agent :=
    { ag with pc := 0x10000, ctx := 1, kind := .warp, status := .live, hold := .none, inflight := [], recorded := [],
              report := none, delivered := [], wdSignal := false, fdSignal := none, die := 0, core := 0 }
  { s with agent := ag, handles := if new then s.handles + 1 else s.handles, mem := m, ctxs := aset s.ctxs 1 fetchCtx, events := [], turns := [1], boot := .running, standby := false
           others := s.others.filter (fun a => !(a.unit == 0)),
           dies := aset s.dies 0 { Die.held with released := true, cores := 32, power := .run } }

end Sys2Proof.Machine
end

