-- ==== Sys2Proof/WellFormed.lean ====
section
/-! DEFINITION. Well-formed instructions: those that are the decoding of some word under the default table. An event
is never a word, so none is well-formed. -/

namespace Sys2Proof

/-- A reserved operand keeps bits that R29 reserves. -/
def Opnd.wf : Opnd → Bool
  | .rsv r => opnd r.toNat == .rsv r
  | _ => true

/-- A guard that classes U, A and X admit (R59). -/
def Guard.wf : Guard → Bool
  | .always => true
  | .on n _ => n.val < 4

def Head.wf (h : Head) : Bool := h.g.wf

def LHead.wf (h : LHead) : Bool := h.g.wf

/-- A matrix word names a core (R224). -/
def MHead.wf (h : MHead) : Bool := h.g.wf && !(h.cm == 0)

/-- A slot whose operation the default short page holds (R75). -/
def PSlot.wf (s : PSlot) : Bool := s.op.sop.isSome && s.d.wf && s.s.wf

/-- Well-formed instructions. -/
def Instr.wf : Instr → Bool
  | .iaddV _ d a b _ => d.wf && a.wf && b.wf
  | .iaddU h d a b _ => h.wf && d.wf && a.wf && b.wf
  | .iaddA h d a b => h.wf && d.wf && a.wf && b.wf
  | .isubV _ d a b _ => d.wf && a.wf && b.wf
  | .isubU h d a b _ => h.wf && d.wf && a.wf && b.wf
  | .isubA h d a b => h.wf && d.wf && a.wf && b.wf
  | .imulV _ d a b _ => d.wf && a.wf && b.wf
  | .imulU h d a b _ => h.wf && d.wf && a.wf && b.wf
  | .imulA h d a b => h.wf && d.wf && a.wf && b.wf
  | .ishlV _ d a b _ => d.wf && a.wf && b.wf
  | .ishlU h d a b _ => h.wf && d.wf && a.wf && b.wf
  | .ishlA h d a b => h.wf && d.wf && a.wf && b.wf
  | .movV _ d a => d.wf && a.wf
  | .movU h d a => h.wf && d.wf && a.wf
  | .movA h d a => h.wf && d.wf && a.wf
  | .ldiV _ d _ => d.wf
  | .ldiU h d _ => h.wf && d.wf
  | .ldiA h d _ => h.wf && d.wf
  | .imadV _ d a b _ _ => d.wf && a.wf && b.wf
  | .imadU h d a b _ _ => h.wf && d.wf && a.wf && b.wf
  | .imulhV _ d a b _ => d.wf && a.wf && b.wf
  | .imulhU h d a b _ => h.wf && d.wf && a.wf && b.wf
  | .ishrV _ d a b => d.wf && a.wf && b.wf
  | .ishrU h d a b => h.wf && d.wf && a.wf && b.wf
  | .israV _ d a b => d.wf && a.wf && b.wf
  | .israU h d a b => h.wf && d.wf && a.wf && b.wf
  | .iandV _ d a b => d.wf && a.wf && b.wf
  | .iandU h d a b => h.wf && d.wf && a.wf && b.wf
  | .iorV _ d a b => d.wf && a.wf && b.wf
  | .iorU h d a b => h.wf && d.wf && a.wf && b.wf
  | .ixorV _ d a b => d.wf && a.wf && b.wf
  | .ixorU h d a b => h.wf && d.wf && a.wf && b.wf
  | .iminV _ d a b _ => d.wf && a.wf && b.wf
  | .iminU h d a b _ => h.wf && d.wf && a.wf && b.wf
  | .imaxV _ d a b _ => d.wf && a.wf && b.wf
  | .imaxU h d a b _ => h.wf && d.wf && a.wf && b.wf
  | .iabsV _ d a _ => d.wf && a.wf
  | .iabsU h d a _ => h.wf && d.wf && a.wf
  | .icmpV _ d a b u c => d.wf && a.wf && b.wf && okIcmp u c
  | .icmpU h d a b u c => h.wf && d.wf && a.wf && b.wf && okIcmp u c
  | .iselV _ d a b _ _ => d.wf && a.wf && b.wf
  | .iselU h d a b _ n => h.wf && d.wf && a.wf && b.wf && okFlag n
  | .bfxV _ d a b _ => d.wf && a.wf && b.wf
  | .bfxU h d a b _ => h.wf && d.wf && a.wf && b.wf
  | .bfiV _ d a b => d.wf && a.wf && b.wf
  | .bfiU h d a b => h.wf && d.wf && a.wf && b.wf
  | .popcV _ d a => d.wf && a.wf
  | .popcU h d a => h.wf && d.wf && a.wf
  | .clzV _ d a => d.wf && a.wf
  | .clzU h d a => h.wf && d.wf && a.wf
  | .iadcV _ d a b _ _ => d.wf && a.wf && b.wf
  | .iadcU h d a b _ n => h.wf && d.wf && a.wf && b.wf && okFlag n
  | .shrrV _ d a b _ sat rng _ => d.wf && a.wf && b.wf && okShrr sat rng
  | .shrrU h d a b _ sat rng _ => h.wf && d.wf && a.wf && b.wf && okShrr sat rng
  | .isatV _ d a _ => d.wf && a.wf
  | .isatU h d a _ => h.wf && d.wf && a.wf
  | .padd2V _ d a b u sat => d.wf && a.wf && b.wf && okPacked u sat
  | .padd2U h d a b u sat => h.wf && d.wf && a.wf && b.wf && okPacked u sat
  | .psub2V _ d a b u sat => d.wf && a.wf && b.wf && okPacked u sat
  | .psub2U h d a b u sat => h.wf && d.wf && a.wf && b.wf && okPacked u sat
  | .packV _ d a b sat hi => d.wf && a.wf && b.wf && okPack sat hi
  | .packU h d a b sat hi => h.wf && d.wf && a.wf && b.wf && okPack sat hi
  | .ldihV _ d _ => d.wf
  | .ldihU h d _ => h.wf && d.wf
  | .cvtV _ d a b r _ dt st => d.wf && a.wf && b.wf && okCvt r dt st b
  | .cvtU h d a b r _ dt st => h.wf && d.wf && a.wf && b.wf && okCvt r dt st b
  | .faddV _ d a b _ => d.wf && a.wf && b.wf
  | .faddU h d a b _ => h.wf && d.wf && a.wf && b.wf
  | .fsubV _ d a b _ => d.wf && a.wf && b.wf
  | .fsubU h d a b _ => h.wf && d.wf && a.wf && b.wf
  | .fmulV _ d a b _ => d.wf && a.wf && b.wf
  | .fmulU h d a b _ => h.wf && d.wf && a.wf && b.wf
  | .ffmaV _ d a b _ _ => d.wf && a.wf && b.wf
  | .ffmaU h d a b _ _ => h.wf && d.wf && a.wf && b.wf
  | .fminV _ d a b => d.wf && a.wf && b.wf
  | .fminU h d a b => h.wf && d.wf && a.wf && b.wf
  | .fmaxV _ d a b => d.wf && a.wf && b.wf
  | .fmaxU h d a b => h.wf && d.wf && a.wf && b.wf
  | .fcmpV _ d a b _ => d.wf && a.wf && b.wf
  | .fcmpU h d a b _ => h.wf && d.wf && a.wf && b.wf
  | .frndV _ d a _ => d.wf && a.wf
  | .frndU h d a _ => h.wf && d.wf && a.wf
  | .fsclV _ d a b _ => d.wf && a.wf && b.wf
  | .fsclU h d a b _ => h.wf && d.wf && a.wf && b.wf
  | .fgetxV _ d a => d.wf && a.wf
  | .fgetxU h d a => h.wf && d.wf && a.wf
  | .fgetmV _ d a => d.wf && a.wf
  | .fgetmU h d a => h.wf && d.wf && a.wf
  | .fclassV _ d a => d.wf && a.wf
  | .fclassU h d a => h.wf && d.wf && a.wf
  | .hfma2V _ d a b _ _ => d.wf && a.wf && b.wf
  | .hfma2U h d a b _ _ => h.wf && d.wf && a.wf && b.wf
  | .hadd2V _ d a b _ _ => d.wf && a.wf && b.wf
  | .hadd2U h d a b _ _ => h.wf && d.wf && a.wf && b.wf
  | .hmul2V _ d a b _ _ => d.wf && a.wf && b.wf
  | .hmul2U h d a b _ _ => h.wf && d.wf && a.wf && b.wf
  | .rbitsV _ d a b => d.wf && a.wf && b.wf
  | .rbitsU h d a b => h.wf && d.wf && a.wf && b.wf
  | .pmac2 _ d a b _ _ => d.wf && a.wf && b.wf
  | .pmul2 _ d a b u sat => d.wf && a.wf && b.wf && okPacked u sat
  | .dot4 _ d a b _ _ _ => d.wf && a.wf && b.wf
  | .wrth _ d a b => d.wf && a.wf && b.wf
  | .vsld _ d a b _ _ n => d.wf && a.wf && b.wf && okDist n
  | .vscan _ d a b _ _ => d.wf && a.wf && b.wf
  | .vperm _ d a b => d.wf && a.wf && b.wf
  | .promV _ d a chk => d.wf && a.wf && okChk chk a
  | .promA h d a => h.wf && d.wf && a.wf
  | .rdth h d a b => h.wf && d.wf && a.wf && b.wf
  | .vred h d a b _ => h.wf && d.wf && a.wf && b.wf
  | .vote h d a _ _ => h.wf && d.wf && a.wf
  | .aget h d a _ => h.wf && d.wf && a.wf
  | .aset h d a b => h.wf && d.wf && a.wf && b.wf
  | .ldV _ d a b spc _ pw _ chk => d.wf && a.wf && b.wf && okLd true spc pw && okBase spc b && okChk chk a
  | .ldU h d a b spc _ pw _ chk => h.wf && d.wf && a.wf && b.wf && okLd false spc pw && okBase spc b && okChk chk a
  | .stV _ d a b spc ty _ chk => d.wf && a.wf && b.wf && okSt true spc ty && okBase spc b && okChk chk a
  | .stU h d a b spc ty _ chk => h.wf && d.wf && a.wf && b.wf && okSt false spc ty && okBase spc b && okChk chk a
  | .atomV _ d a b scr op wide chk => d.wf && a.wf && b.wf && okAtom op wide && okScrBase scr b && okChk chk a
  | .atomU h d a b scr op wide chk => h.wf && d.wf && a.wf && b.wf && okAtom op wide && okScrBase scr b && okChk chk a
  | .redV _ d a b scr op wide chk => d.wf && a.wf && b.wf && okRed op wide && okScrBase scr b && okChk chk a
  | .redU h d a b scr op wide chk => h.wf && d.wf && a.wf && b.wf && okRed op wide && okScrBase scr b && okChk chk a
  | .pftV _ a b spc _ _ chk => a.wf && b.wf && okPft spc && okBase spc b && okChk chk a
  | .pftU h a b spc _ _ chk => h.wf && a.wf && b.wf && okPft spc && okBase spc b && okChk chk a
  | .bld _ d a _ ty => d.wf && a.wf && okBufType ty
  | .bst _ d a _ ty => d.wf && a.wf && okBufType ty
  | .pairedWord _ s1 s2 => s1.wf && s2.wf && !(s1.d == s2.d)
  | .nop h => h.wf
  | .mskif h a _ => h.wf && a.wf
  | .mskelse h => h.wf
  | .mskend h => h.wf
  | .mskbrk h a _ _ => h.wf && a.wf
  | .ldj h _ _ => h.wf
  | .loop h a _ => h.wf && a.wf
  | .waitop h m => h.wf && okMask m
  | .fence h _ _ => h.wf
  | .xfence h p q _ => h.wf && okXfence p q
  | .bind h a b _ os cl => h.wf && a.wf && b.wf && okBind os cl
  | .unbind h a rs all => h.wf && a.wf && okUnbind a rs all
  | .acq h a _ _ => h.wf && a.wf
  | .rel h a _ => h.wf && a.wf
  | .clasp h a => h.wf && a.wf
  | .claspa h a => h.wf && a.wf
  | .claspw h a => h.wf && a.wf
  | .fork h a b _ _ => h.wf && a.wf && b.wf
  | .rdv h a => h.wf && a.wf
  | .trig h => h.wf
  | .rinit h a b => h.wf && a.wf && b.wf
  | .rget h d a => h.wf && d.wf && a.wf
  | .tspawn h a => h.wf && a.wf
  | .time h d => h.wf && d.wf
  | .sleepat h a => h.wf && a.wf
  | .trace h a b => h.wf && a.wf && b.wf
  | .mbxr h d a => h.wf && d.wf && a.wf
  | .mbxw h a b => h.wf && a.wf && b.wf
  | .gzreg h d a => h.wf && d.wf && a.wf
  | .gzdel h a => h.wf && a.wf
  | .gzreq h d a b op elt sat _ => h.wf && d.wf && a.wf && b.wf && okGzreq op elt sat b
  | .gzhold h a _ => h.wf && a.wf
  | .gzpos h d a => h.wf && d.wf && a.wf
  | .cpy h a _ _ => h.wf && a.wf
  | .tload h a b _ _ _ _ => h.wf && a.wf && b.wf
  | .tstor h a _ _ => h.wf && a.wf
  | .tidset h a b => h.wf && a.wf && b.wf
  | .tidget h d a b => h.wf && d.wf && a.wf && b.wf
  | .mmac h a b _ src rm _ => h.wf && a.wf && b.wf && okSrc src rm
  | .mmap h _ a b src rm _ => h.wf && a.wf && b.wf && okSrc src rm
  | .mmd2 h _ a b src rm => h.wf && a.wf && b.wf && okSrc src rm
  | .gcmb h _ a _ => h.wf && a.wf
  | .mzero h => h.wf
  | .mqnt h a _ _ _ => h.wf && a.wf
  | .mscl h a => h.wf && a.wf
  | .trap h a => h.wf && a.wf
  | .tret h => h.wf
  | .wrs h d a => h.wf && d.wf && a.wf
  | .tlbi h a b all => h.wf && a.wf && b.wf && okTlbi a b all
  | .dtld h a => h.wf && a.wf
  | .bkpt h => h.wf
  | .gend h a => h.wf && a.wf
  | .park h a => h.wf && a.wf
  | .dirty h d a => h.wf && d.wf && a.wf
  | .pctlStop h a b => h.wf && a.wf && b.wf
  | .pctlResume h a b => h.wf && a.wf && b.wf
  | .pctlReset h a b => h.wf && a.wf && b.wf
  | .larm h a b _ => h.wf && a.wf && b.wf
  | .slotCompletion _ _ _ => false
  | .warpRetire _ => false
  | .pwLoadMatch _ _ => false
  | .submit _ _ => false
  | .taskDispatch _ _ => false
  | .recordAgeing _ => false
  | .warpAdmit _ _ _ => false
  | .launchRetire _ => false
  | .triggerRelease _ => false
  | .copyComplete _ => false
  | .arrival _ _ _ => false
  | .evofisalArrival _ _ _ _ => false
  | .acqGrant _ => false
  | .claspRoundComplete _ _ => false
  | .seqProgramStart _ => false
  | .seqProgramFault _ => false
  | .rdvMeetingComplete _ => false
  | .matrixOpStart _ => false
  | .matrixOpComplete _ => false
  | .rgetServe _ _ => false
  | .quantumCommit _ => false
  | .rowRestore _ _ => false
  | .requestAccept _ _ => false
  | .demandActivation _ _ _ => false
  | .trapEntry _ => false
  | .parkRestore _ _ => false
  | .partialEviction _ => false
  | .warpReadmit _ _ => false
  | .fullSave _ => false
  | .locketExchangeRequest _ => false
  | .locketExchange _ => false
  | .watchdogExpiry _ => false
  | .watchdogSecondExpiry _ => false
  | .pctlComplete _ => false
  | .noticePost _ => false
  | .meshAccess _ _ _ _ => false
  | .evofisalAccess _ _ _ _ _ => false
  | .bezelWrite _ _ _ _ => false
  | .registerWrite _ => false
  | .sleepWake _ => false
  | .servoStep _ => false
  | .dieResetRelease _ => false
  | .coreEnable _ => false
  | .arrayRampStep _ _ => false
  | .currentLimit _ _ => false
  | .thermalTrip _ => false
  | .bootVerify _ _ => false
  | .debugUnlock _ _ => false
  | .mirrorAcknowledgement _ _ => false
  | .pciePeerWrite _ _ _ => false
  | .partitionOffExit _ => false
  | .moduleStandbyEntry => false
  | .moduleStandbyExit => false
  | .noticeQueueRoom _ => false

end Sys2Proof
end

