-- ==== Sys2Proof/Safety.lean ====
section
/-! DEFINITION. What the statements say of a step: when a word issues, what its issue leaves alone, and what it writes, each in
the spec's terms and through reads of one register, one thread, one byte. -/

namespace Sys2Proof.Machine

/-! ## Issue -/

/-- What a word asks, the predicate of its guard included. -/
def Need.guarded (n : Need) (g : Guard) : Need := { n with reads := n.reads ++ Guard.regs g n.cls }

/-- A word meets none of the checks that R78 orders, and its NAS can act: it issues. -/
abbrev State.passes (s : State) (nas : Nas) (n : Need) (guard : Bool) : Prop :=
  s.agent.firstFault s.mayPriv n guard = none ∧ s.frameFault n.srcs = none ∧ s.agent.nasBad nas s.npc = none

/-- A word that meets a check raises its cause and does nothing else. -/
def State.stopped (s : State) (i : Instr) (n : Need) (guard : Bool) : Prop :=
  ∀ c, s.agent.firstFault s.mayPriv n guard = some c → exec i s = .next (s.raise (s.agent.flt c))

/-- `t` follows `s` by the issue of a word whose own effect made `ag` of the agent and nothing of the rest of the module: NAS acts
on `ag`, the next word lying at `next`; the logical clock, the windows of the words in flight and the place in line go on
(R69, R192, R216); counter 0 of the context counts the word (R276); the launch's progress timer restarts (R266); every byte of
memory reads as before. -/
structure IssuedTo (s t : State) (nas : Nas) (next : Nat) (ag : Agent) : Prop where
  agent : ∃ n, ag.nasNext nas next = .ok n ∧
    t.agent = { n with lclk := if s.agent.handler then n.lclk else n.lclk + 1
                       inflight := n.inflight.map (fun f => { f with left := f.left - 1 })
                       passed := 0, readySince := s.time, hold := .none }
  rest : t = { s with agent := t.agent, ctxs := t.ctxs, launches := t.launches }
  counted : ∀ c, t.ctx c = if c = s.agent.ctx then
      { s.ctx c with counters := aset (s.ctx c).counters 0 (aget (s.ctx c).counters 0 0 + 1) } else s.ctx c
  timed : ∀ l, t.launchOf l = (s.launchOf l).map (fun x =>
    if l = s.agent.launch then { x with wdStart := if t.timerRuns l then s.time else 0 } else x)
  bytes : ∀ a, Memory.get t.mem a = Memory.get s.mem a

/-- Counter 1 of the agent's context counts a track cycle for each thread that a varying word takes (R46, R276). -/
def State.tracked (s : State) (e : Mask) : State :=
  let n := ((List.range 32).filter (fun t => mbit e t)).length
  if n = 0 then s
  else
    let x := s.ctx s.agent.ctx
    s.setCtx s.agent.ctx { x with counters := aset x.counters 1 (aget x.counters 0 1 + n) }

/-- The issue of a word whose successor is the word after it. -/
abbrev Issued (s t : State) (nas : Nas) (ag : Agent) : Prop := IssuedTo s t nas s.npc ag

/-- A word of class X whose own effect is on its agent: it raises the first check that it meets, and `bad` where its guard lets it
try; otherwise it issues, and `P` holds of the agent it makes, which with a false guard is the agent as it was (R59, R93). -/
def State.runsX (s : State) (i : Instr) (h : Head) (n : Need) (bad : Option Flt) (P : Agent → Prop) : Prop :=
  let g := s.agent.guardU h.g
  s.stopped i n g ∧
    (s.passes h.nas n g → g = true → ∀ f, bad = some f → exec i s = .next (s.raise f)) ∧
    (s.passes h.nas n g → (g = true → bad = none) → ∃ t ag, exec i s = .next t ∧ Issued s t h.nas ag ∧
      if g then P ag else ag = s.agent)

/-- A word of class X whose own effect makes the state `u` of the module: it raises the first check that it meets, and `bad` where
its guard lets it try; otherwise it issues from `u`, which with a false guard is the state as it was. -/
def State.runsS (s : State) (i : Instr) (h : Head) (n : Need) (bad : Option Flt) (u : State) : Prop :=
  let g := s.agent.guardU h.g
  let v := if g then u else s
  s.stopped i n g ∧
    (s.passes h.nas n g → g = true → ∀ f, bad = some f → exec i s = .next (s.raise f)) ∧
    (s.passes h.nas n g → (g = true → bad = none) → ∃ t, exec i s = .next t ∧ IssuedTo v t h.nas s.npc v.agent)

/-- A word of class X that cannot go on yet holds issue and does nothing else (R78). -/
def State.holds (s : State) (i : Instr) (h : Hold) : Prop := exec i s = .next (s.me (fun a => { a with hold := h }))

/-- A word put in flight (R69, R70, R253): its slot's bitmap starts at the complement of its executed set; the word is in flight
until every thread of the set has acted. With the set empty it is complete at once, its destinations still pending under LA = 15. -/
def State.flown (s : State) (f : Inflight) : State :=
  { s with
    handles := s.handles + 1
    agent := { s.agent with
      cbm := aset s.agent.cbm f.slot (~~~f.e)
      inflight := if f.e = 0 ∧ ¬(f.la = 15 ∧ f.dests ≠ []) then s.agent.inflight
        else s.agent.inflight ++ [{ f with no := s.handles, finished := decide (f.e = 0) }] } }

/-- A detached word of class X, with the registers that it will write and the word of its operand A (R249). -/
def State.detach (s : State) (h : LHead) (i : Instr) (dests : List Reg) (a : Word) (aux : Nat) : Inflight :=
  { s.inflight0 h.slot.val h.la.val i with dests := dests, detached := true, av := [a], aux := aux }

/-- A long-latency word: while its slot has an unfinished word it waits, whatever its guard, unless that is a copy whose mirrored write has
failed (R70, R234); otherwise it raises the first check that it meets, and `bad` where its guard lets it try; otherwise it issues from
`u`, which with a false guard is the state as it was. -/
def State.runsL (s : State) (i : Instr) (h : LHead) (n : Need) (g : Bool) (bad : Option Flt) (u : State) : Prop :=
  let busy := s.agent.cbmOf h.slot.val ≠ fullMask
  let v := if g then u else s
  (busy → s.mirrorFlt (fun i => i == h.slot.val) = none → s.holds i (.slots (BitVec.ofNat 8 (2 ^ h.slot.val)))) ∧
    (busy → ∀ f, s.mirrorFlt (fun i => i == h.slot.val) = some f → exec i s = .next (s.raise f)) ∧
    (¬busy → s.stopped i n g) ∧
    (¬busy → s.passes h.nas n g → g = true → ∀ f, bad = some f → exec i s = .next (s.raise f)) ∧
    (¬busy → s.passes h.nas n g → (g = true → bad = none) → ∃ t, exec i s = .next t ∧ IssuedTo v t h.nas s.npc v.agent)

/-- A long-latency word of class X. -/
abbrev State.runsLX (s : State) (i : Instr) (h : LHead) (n : Need) (bad : Option Flt) (u : State) : Prop :=
  s.runsL i h n (s.agent.guardU h.g) bad u

/-- The first of some faults whose condition holds. -/
def firstOf : List (Bool × Flt) → Option Flt
  | [] => none
  | (b, f) :: l => if b then some f else firstOf l

/-- A warp of a determinate launch may do what R194 lets only the earliest warp do; any other agent may do it at once. -/
def State.mayNow (s : State) : Prop := s.isDet s.agent = true → s.detNow s.agent = true

/-! ## What short words write -/

/-- A result of a class-V word: thread `t` of the executed set gets `f t`, with the poison `pois t` in a v register, bit 0 alone
in a p register; QSAT is set if a clamp changed some thread's value; nothing else changes (R26, R43, R46, R104, R294, R328). -/
structure WroteV (was ag : Agent) (e : Mask) (d : Opnd) (pois : Nat → Bool) (f : Nat → Word × Bool) (pc : Nat) : Prop where
  frame : ag = { was with v := ag.v, p := ag.p, wst := ag.wst, report := ag.report }
  lanes : ∀ n : Nat, ∀ t < 32, (ag.vreg n).lane t =
    if (∃ i, d = .v i ∧ i.val = n) ∧ mbit e t then (f t).1 else (was.vreg n).lane t
  poison : ∀ n : Nat, ∀ t < 32, mbit (ag.vreg n).poison t =
    if (∃ i, d = .v i ∧ i.val = n) ∧ mbit e t then pois t else mbit (was.vreg n).poison t
  tags : ∀ n : Nat, (ag.vreg n).tag = if (∃ i, d = .v i ∧ i.val = n) ∧ e ≠ 0 then .g else (was.vreg n).tag
  preds : ∀ n : Nat, ∀ t < 32, mbit (ag.preg n) t =
    if (∃ i, d = .p i ∧ i.val = n) ∧ mbit e t then (f t).1.getLsbD 0 else mbit (was.preg n) t
  qsat : ag.wst = if ∃ t < 32, mbit e t ∧ (f t).2 then was.wst ||| 1 else was.wst
  report : ag.report = if ∃ i, d = .p i then
      (was.reportPoison (maskOf pois &&& e) 0 pc was.handler).report else was.report

/-- A result of a class-U word: a k register whole, a b register bit 0; QSAT if the clamp changed the value (R104, R328). -/
structure WroteU (was ag : Agent) (d : Opnd) (r : Word × Bool) : Prop where
  frame : ag = { was with k := ag.k, b := ag.b, wst := ag.wst }
  kregs : ∀ n : Nat, ag.kreg n = if ∃ i, d = .k i ∧ i.val = n then r.1 else was.kreg n
  flags : ∀ n < 4, ag.flag n = if ∃ i, d = .b i ∧ i.val = n then r.1.getLsbD 0 else was.flag n
  qsat : ag.wst = if r.2 then was.wst ||| 1 else was.wst

/-- A result of a class-A word: the destination's base, stride and O (R36). -/
structure WroteA (was ag : Agent) (d : Opnd) (r : AReg) : Prop where
  frame : ag = { was with a := ag.a }
  aregs : ∀ n : Nat, ag.areg n = if ∃ i, d = .a i ∧ i.val = n then r else was.areg n

/-! ## Exact results -/

/-- An exact result kept modulo 2^32 or, with .sat, clamped to a range and kept; and whether the clamp changed it (R7, R104). -/
def narrow (sat : Bool) (lo hi r : Int) : Word × Bool :=
  if sat then (BitVec.ofInt 32 (max lo (min hi r)), decide (r < lo ∨ hi < r)) else (BitVec.ofInt 32 r, false)

/-- An exact signed result, wrapping or through sat32. -/
abbrev narrow32 (sat : Bool) (r : Int) : Word × Bool := narrow sat (-2147483648) 2147483647 r

/-- `n / 2^k` rounded to an integer: down, up, towards zero, or to the nearest with ties to even (R7, R100). -/
def quotient (m : Rnd) (n : Int) (k : Nat) : Int :=
  match m with
  | .rdn => n / 2 ^ k
  | .rup => -(-n / 2 ^ k)
  | .rz => Int.tdiv n (2 ^ k)
  | .rne =>
    let q := n / 2 ^ k
    let r := n - q * 2 ^ k
    if 2 * r < 2 ^ k ∨ (2 * r = 2 ^ k ∧ q % 2 = 0) then q else q + 1

/-- Lowest bit of a bit field, B[4:0] (R301). -/
def fieldPos (b : Word) : Nat := b.toNat % 32

/-- Length of a bit field: B[13:8], or as many bits as there are above its lowest (R301). -/
def fieldLen (b : Word) : Nat := min (b.toNat / 256 % 64) (32 - fieldPos b)

/-- Signed or unsigned 16-bit half `i` of a word (R366). -/
def half (u : Bool) (x : Word) (i : Nat) : Int :=
  if u then (x.extractLsb' (16 * i) 16).toNat else (x.extractLsb' (16 * i) 16).toInt

/-- Signed or unsigned byte `i` of a word (R314). -/
def octet (u : Bool) (x : Word) (i : Nat) : Int :=
  if u then (x.extractLsb' (8 * i) 8).toNat else (x.extractLsb' (8 * i) 8).toInt

/-- Two exact results narrowed to 16 bits each and joined, half 1 above half 0 (R366, R368). -/
def pack16 (u sat : Bool) (r0 r1 : Int) : Word × Bool :=
  let lo : Int := if u then 0 else -32768
  let hi : Int := if u then 65535 else 32767
  let c (r : Int) : Int := if sat then max lo (min hi r) else r
  (BitVec.ofInt 16 (c r1) ++ BitVec.ofInt 16 (c r0), sat && (decide (r0 < lo ∨ hi < r0) || decide (r1 < lo ∨ hi < r1)))

/-! ## Tables of short words -/

/-- A short typed operation in both its classes: its sources, whether it refuses a p or b destination, how it takes an immediate,
and its result and clamp from what its sources supply. -/
structure Row where
  v : Instr
  u : Instr
  srcs : List Opnd
  noBit : Bool := false
  imm : ImmKind := .int
  f : Origin → (Opnd → Word) → Word × Bool

/-- A class-V word: it raises the first check that it meets; otherwise every thread `t` of its executed set gets `f t`, in a track cycle
each (R46, R276). -/
def State.runsV (s : State) (i : Instr) (h : Head) (n : Need) (d : Opnd) (pois : Nat → Bool) (f : Nat → Word × Bool) : Prop :=
  s.stopped i (n.guarded h.g) true ∧
    (s.passes h.nas (n.guarded h.g) true → ∃ t ag, exec i s = .next t ∧ Issued (s.tracked (s.agent.execSet h.g)) t h.nas ag ∧
      WroteV s.agent ag (s.agent.execSet h.g) d pois f s.agent.pc)

/-- A class-U word: it raises the first check that it meets; otherwise its destination gets `r`, or, its guard being false, nothing
happens besides the issue (R59). -/
def State.runsU (s : State) (i : Instr) (h : Head) (n : Need) (d : Opnd) (r : Word × Bool) : Prop :=
  s.stopped i (n.guarded h.g) (s.agent.guardU h.g) ∧
    (s.passes h.nas (n.guarded h.g) (s.agent.guardU h.g) → ∃ t ag, exec i s = .next t ∧ Issued s t h.nas ag ∧
      if s.agent.guardU h.g then WroteU s.agent ag d r else ag = s.agent)

/-- A class-A word, as a class-U word. -/
def State.runsA (s : State) (i : Instr) (h : Head) (n : Need) (d : Opnd) (r : AReg) : Prop :=
  s.stopped i (n.guarded h.g) (s.agent.guardU h.g) ∧
    (s.passes h.nas (n.guarded h.g) (s.agent.guardU h.g) → ∃ t ag, exec i s = .next t ∧ Issued s t h.nas ag ∧
      if s.agent.guardU h.g then WroteA s.agent ag d r else ag = s.agent)

/-- Whether some of the sources is poisoned in thread `t` (R294). -/
def State.anyPoison (s : State) (os : List Opnd) (t : Nat) : Bool := os.any (fun o => mbit (s.agent.poisonOf o) t)

/-- The class-V word of a row: every thread of the executed set gets the row's result of what the sources supply in it. -/
def Row.holdsV (r : Row) (h : Head) (d : Opnd) (s : State) : Prop :=
  s.runsV r.v h (needV d (r.srcs.map plain) r.noBit) d (s.anyPoison r.srcs)
    (fun t => r.f ⟨true, t, s.agent.pc⟩ (fun o => s.lane r.imm o t))

/-- The class-U word of a row. -/
def Row.holdsU (r : Row) (h : Head) (d : Opnd) (s : State) : Prop :=
  s.runsU r.u h (needU d (r.srcs.map plain) r.noBit) d (r.f ⟨false, 0, s.agent.pc⟩ (fun o => s.uval r.imm o))

/-- An affine result of exact base and stride: O if a source has it, or if some thread's exact value leaves the signed 32-bit range
(R37). -/
def affine (o : Bool) (base stride : Int) : AReg :=
  { base := BitVec.ofInt 32 base, stride := BitVec.ofInt 32 stride
    o := o || !decide (∀ t : Fin 32, -2147483648 ≤ base + t.val * stride ∧ base + t.val * stride ≤ 2147483647) }

/-- A varying register that PROM wrote: every executed thread has the source's value, no poison; an overflowed affine source sets AOV;
with every live thread executed, the register's tag is the shape of the source with its value, otherwise G (R38, R39, R43). -/
def Promoted (s : State) (was ag : Agent) (e : Mask) (d a : Opnd) : Prop :=
  ∃ mid, WroteV was mid e d (fun _ => false) (fun t => (s.lane .int a t, false)) s.agent.pc ∧
    ag = { mid with v := ag.v, wst := if s.agent.oSet a = true ∧ e ≠ 0 then mid.wst ||| 4 else mid.wst } ∧
    ∀ n, ag.vreg n = if ∃ i, d = .v i ∧ i.val = n then
        if ∀ t : Fin 32, mbit s.agent.live t.val → mbit e t.val then
          { mid.vreg n with poison := 0, tag := if isAffine a then .a (s.aval a).base (s.aval a).stride else .u (s.aval a).base }
        else { mid.vreg n with tag := .g }
      else mid.vreg n

/-- The immediate form of a short-page operation (R31). -/
def slotImm (op : SlotOp) : ImmKind :=
  match op with
  | .fadd | .fsub | .fmul | .fmin | .fmax => .float .fp32
  | .padd2 | .psub2 => .packed
  | .hadd2 | .hmul2 => .halves .fp16
  | _ => .int

/-- What an operation of the default short page makes of D and S in classes V and U, with the default modifiers (R75, R340, R95). -/
def slotValue (op : SlotOp) (o : Origin) (x y : Word) : Word × Bool :=
  let k : Nat := y.toNat % 32
  let n (w : Nat) : Word × Bool := (BitVec.ofNat 32 w, false)
  let p (x : Word) (i : Nat) : Nat := (x.extractLsb' (16 * i) 16).toNat
  let two (hi lo : Nat) : Word × Bool := (BitVec.ofNat 16 hi ++ BitVec.ofNat 16 lo, false)
  match op with
  | .iadd => narrow32 false (x.toInt + y.toInt)
  | .isub => narrow32 false (x.toInt - y.toInt)
  | .imul => narrow32 false (x.toInt * y.toInt)
  | .ishl => narrow32 false (x.toInt * 2 ^ k)
  | .ishr => n (x.toNat / 2 ^ k)
  | .isra => narrow32 false (x.toInt / 2 ^ k)
  | .iand => (x &&& y, false)
  | .ior => (x ||| y, false)
  | .ixor => (x ^^^ y, false)
  | .imin => narrow32 false (min x.toInt y.toInt)
  | .imax => narrow32 false (max x.toInt y.toInt)
  | .fadd => n (Fmt.fp32.add .rne o x.toNat y.toNat)
  | .fsub => n (Fmt.fp32.sub .rne o x.toNat y.toNat)
  | .fmul => n (Fmt.fp32.mul .rne o x.toNat y.toNat)
  | .fmin => n (Fmt.fp32.minmax false x.toNat y.toNat)
  | .fmax => n (Fmt.fp32.minmax true x.toNat y.toNat)
  | .padd2 => pack16 false false (half false x 0 + half false y 0) (half false x 1 + half false y 1)
  | .psub2 => pack16 false false (half false x 0 - half false y 0) (half false x 1 - half false y 1)
  | .hadd2 => two (Fmt.fp16.add .rne o (p x 1) (p y 1)) (Fmt.fp16.add .rne o (p x 0) (p y 0))
  | .hmul2 => two (Fmt.fp16.mul .rne o (p x 1) (p y 1)) (Fmt.fp16.mul .rne o (p x 0) (p y 0))
  | .iabs => narrow32 false (y.toInt.natAbs : Int)
  | .clz => n ((List.range 32).takeWhile (fun i => !y.getLsbD (31 - i))).length
  | _ => (y, false)

/-- What it makes of them in class A (R36). -/
def slotAffine (op : SlotOp) (x y : AReg) : AReg :=
  let k : Int := 2 ^ (y.base.toNat % 32)
  match op with
  | .iadd => affine (x.o || y.o) (x.base.toInt + y.base.toInt) (x.stride.toInt + y.stride.toInt)
  | .isub => affine (x.o || y.o) (x.base.toInt - y.base.toInt) (x.stride.toInt - y.stride.toInt)
  | .imul => affine (x.o || y.o) (x.base.toInt * y.base.toInt) (x.stride.toInt * y.base.toInt + x.base.toInt * y.stride.toInt)
  | .ishl => affine (x.o || y.o) (x.base.toInt * k) (x.stride.toInt * k)
  | .mov => y
  | _ => { base := y.base, stride := 0, o := false }

/-- What a slot of a paired word did to the agent `was`: it read the state `s` before the word, and wrote its own D (R73). -/
def SlotDid (s : State) (x : PSlot) (was ag : Agent) : Prop :=
  let e := s.agent.exm &&& s.agent.slotMask x.sp
  let os := if unaryOp x.op then [x.s] else [x.d, x.s]
  match x.d with
  | .v _ | .p _ =>
    if x.op = .prom then Promoted s was ag e x.d x.s
    else WroteV was ag e x.d (s.anyPoison os)
      (fun t => slotValue x.op ⟨true, t, s.agent.pc⟩ (s.lane (slotImm x.op) x.d t) (s.lane (slotImm x.op) x.s t)) s.agent.pc
  | .k _ | .b _ =>
    if s.agent.slotFlag x.sp then
      WroteU was ag x.d (slotValue x.op ⟨false, 0, s.agent.pc⟩ (s.uval (slotImm x.op) x.d) (s.uval (slotImm x.op) x.s))
    else ag = was
  | .a _ => if s.agent.slotFlag x.sp then WroteA was ag x.d (slotAffine x.op (s.aval x.d) (s.aval x.s)) else ag = was
  | _ => ag = was

end Sys2Proof.Machine
end

