-- ==== Sys2Proof/Certificates/Slice0/Obligations.lean ====
section
/-! DEFINITION. The statements for the provers: what the spec's numbered rules say of the model. -/

open Sys2Proof Sys2Proof.Machine

/-! ## Short words of classes V and U -/

/-- The integer operations (R301, R302, R308, R338, R340-R344, R350, R351, R360, R374, R384). -/
def Sys2Proof.Machine.integerRows (h : Head) (d a b : Opnd) (u sat sx : Bool) (c : ICond) (sr : SatRange) (m : Rnd) (g : ShrrRange)
    (i : BitVec 21) (j : BitVec 16) : List Row :=
  let k (b : Word) : Nat := b.toNat % 32
  let pick (x : Bool) : Word × Bool := (if x then 1 else 0, false)
  [{ v := .iaddV h d a b sat, u := .iaddU h d a b sat, srcs := [a, b], f := fun _ x => narrow32 sat ((x a).toInt + (x b).toInt) },
   { v := .isubV h d a b sat, u := .isubU h d a b sat, srcs := [a, b], f := fun _ x => narrow32 sat ((x a).toInt - (x b).toInt) },
   { v := .imulV h d a b sat, u := .imulU h d a b sat, srcs := [a, b], f := fun _ x => narrow32 sat ((x a).toInt * (x b).toInt) },
   { v := .ishlV h d a b sat, u := .ishlU h d a b sat, srcs := [a, b], f := fun _ x => narrow32 sat ((x a).toInt * 2 ^ k (x b)) },
   { v := .ishrV h d a b, u := .ishrU h d a b, srcs := [a, b], f := fun _ x => (BitVec.ofNat 32 ((x a).toNat / 2 ^ k (x b)), false) },
   { v := .israV h d a b, u := .israU h d a b, srcs := [a, b], f := fun _ x => (BitVec.ofInt 32 ((x a).toInt / 2 ^ k (x b)), false) },
   { v := .iandV h d a b, u := .iandU h d a b, srcs := [a, b]
     f := fun _ x => (maskOf (fun i => (x a).getLsbD i && (x b).getLsbD i), false) },
   { v := .iorV h d a b, u := .iorU h d a b, srcs := [a, b]
     f := fun _ x => (maskOf (fun i => (x a).getLsbD i || (x b).getLsbD i), false) },
   { v := .ixorV h d a b, u := .ixorU h d a b, srcs := [a, b]
     f := fun _ x => (maskOf (fun i => (x a).getLsbD i != (x b).getLsbD i), false) },
   { v := .iminV h d a b u, u := .iminU h d a b u, srcs := [a, b]
     f := fun _ x => (if u then BitVec.ofNat 32 (min (x a).toNat (x b).toNat) else BitVec.ofInt 32 (min (x a).toInt (x b).toInt), false) },
   { v := .imaxV h d a b u, u := .imaxU h d a b u, srcs := [a, b]
     f := fun _ x => (if u then BitVec.ofNat 32 (max (x a).toNat (x b).toNat) else BitVec.ofInt 32 (max (x a).toInt (x b).toInt), false) },
   { v := .iabsV h d a sat, u := .iabsU h d a sat, srcs := [a], f := fun _ x => narrow32 sat ((x a).toInt.natAbs : Int) },
   { v := .icmpV h d a b u c, u := .icmpU h d a b u c, srcs := [a, b]
     f := fun _ x => pick (if u then ICond.holds c (x a).toNat (x b).toNat else ICond.holds c (x a).toInt (x b).toInt) },
   { v := .imadV h d a b u sat, u := .imadU h d a b u sat, srcs := [d, a, b]
     f := fun _ x => if u then narrow sat 0 4294967295 ((x a).toNat * (x b).toNat + (x d).toNat)
       else narrow32 sat ((x a).toInt * (x b).toInt + (x d).toInt) },
   { v := .imulhV h d a b u, u := .imulhU h d a b u, srcs := [a, b]
     f := fun _ x => (if u then BitVec.ofNat 32 ((x a).toNat * (x b).toNat / 2 ^ 32)
       else BitVec.ofInt 32 ((x a).toInt * (x b).toInt / 2 ^ 32), false) },
   { v := .isatV h d a sr, u := .isatU h d a sr, srcs := [a]
     f := fun _ x => match sr with
       | .s8 => narrow true (-128) 127 (x a).toInt
       | .s16 => narrow true (-32768) 32767 (x a).toInt
       | .u8 => narrow true 0 255 (x a).toInt
       | .u16 => narrow true 0 65535 (x a).toInt },
   { v := .bfxV h d a b sx, u := .bfxU h d a b sx, srcs := [a, b]
     f := fun _ x => (maskOf (fun i =>
       if i < fieldLen (x b) then (x a).getLsbD (fieldPos (x b) + i)
       else sx && decide (0 < fieldLen (x b)) && (x a).getLsbD (fieldPos (x b) + fieldLen (x b) - 1)), false) },
   { v := .bfiV h d a b, u := .bfiU h d a b, srcs := [d, a, b]
     f := fun _ x => (maskOf (fun i =>
       if fieldPos (x b) ≤ i ∧ i < fieldPos (x b) + fieldLen (x b) then (x a).getLsbD (i - fieldPos (x b)) else (x d).getLsbD i), false) },
   { v := .popcV h d a, u := .popcU h d a, srcs := [a]
     f := fun _ x => (BitVec.ofNat 32 ((List.range 32).countP (fun i => (x a).getLsbD i)), false) },
   { v := .clzV h d a, u := .clzU h d a, srcs := [a]
     f := fun _ x => (BitVec.ofNat 32 ((List.range 32).takeWhile (fun i => !(x a).getLsbD (31 - i))).length, false) },
   { v := .shrrV h d a b m sat g u, u := .shrrU h d a b m sat g u, srcs := [a, b]
     f := fun _ x =>
       let q := quotient m (if u then ((x a).toNat : Int) else (x a).toInt) (k (x b))
       match g with
       | .s32 => narrow32 sat q
       | .s16 => narrow sat (-32768) 32767 q
       | .s8 => narrow sat (-128) 127 q
       | .u16 => narrow sat 0 65535 q },
   { v := .movV h d a, u := .movU h d a, srcs := [a], f := fun _ x => (x a, false) },
   { v := .ldiV h d i, u := .ldiU h d i, srcs := [], noBit := true, f := fun _ _ => (BitVec.ofInt 32 i.toInt, false) },
   { v := .ldihV h d j, u := .ldihU h d j, srcs := [d], f := fun _ x => (j ++ (x d).extractLsb' 0 16, false) }]

/-- The packed operations in both classes (R367, R368). -/
def Sys2Proof.Machine.packedRows (h : Head) (d a b : Opnd) (u sat hi : Bool) : List Row :=
  [{ v := .padd2V h d a b u sat, u := .padd2U h d a b u sat, srcs := [a, b], noBit := true, imm := .packed
     f := fun _ x => pack16 u sat (half u (x a) 0 + half u (x b) 0) (half u (x a) 1 + half u (x b) 1) },
   { v := .psub2V h d a b u sat, u := .psub2U h d a b u sat, srcs := [a, b], noBit := true, imm := .packed
     f := fun _ x => pack16 u sat (half u (x a) 0 - half u (x b) 0) (half u (x a) 1 - half u (x b) 1) },
   { v := .packV h d a b sat hi, u := .packU h d a b sat hi, srcs := [a, b], noBit := true, imm := .packed
     f := fun _ x => if hi then ((x b).extractLsb' 16 16 ++ (x a).extractLsb' 16 16, false)
       else pack16 false sat (x a).toInt (x b).toInt }]

/-- The packed and dot-product operations of class V alone (R314, R368, R373). -/
def Sys2Proof.Machine.dotRows (h : Head) (d a b : Opnd) (u ua ub sat : Bool) : List Row :=
  let s32 (r : Int) : Int := max (-2147483648) (min 2147483647 r)
  [{ v := .pmul2 h d a b u sat, u := .pmul2 h d a b u sat, srcs := [a, b], noBit := true, imm := .packed
     f := fun _ x => pack16 u sat (half u (x a) 0 * half u (x b) 0) (half u (x a) 1 * half u (x b) 1) },
   { v := .pmac2 h d a b ua ub, u := .pmac2 h d a b ua ub, srcs := [d, a, b], noBit := true, imm := .packed
     f := fun _ x =>
       let s1 := (x d).toInt + half ua (x a) 0 * half ub (x b) 0
       let s2 := s32 s1 + half ua (x a) 1 * half ub (x b) 1
       (BitVec.ofInt 32 (s32 s2), decide (s32 s1 ≠ s1 ∨ s32 s2 ≠ s2)) },
   { v := .dot4 h d a b ua ub sat, u := .dot4 h d a b ua ub sat, srcs := [d, a, b]
     f := fun _ x => narrow32 sat ((x d).toInt + octet ua (x a) 0 * octet ub (x b) 0 + octet ua (x a) 1 * octet ub (x b) 1 +
       octet ua (x a) 2 * octet ub (x b) 2 + octet ua (x a) 3 * octet ub (x b) 3) }]

/-- The floating-point operations in both classes (R316-R318, R321-R324, R326, R327, R337); what the functions on patterns do is
stated of them apart. -/
def Sys2Proof.Machine.floatRows (h : Head) (d a b : Opnd) (m : Rnd) (horner bf : Bool) (c : FCond) : List Row :=
  let n (w : Nat) : Word × Bool := (BitVec.ofNat 32 w, false)
  let F : Fmt := .fp32
  let H : Fmt := if bf then .bf16 else .fp16
  let p (x : Word) (i : Nat) : Nat := (x.extractLsb' (16 * i) 16).toNat
  let two (hi lo : Nat) : Word × Bool := (BitVec.ofNat 16 hi ++ BitVec.ofNat 16 lo, false)
  [{ v := .faddV h d a b m, u := .faddU h d a b m, srcs := [a, b], imm := .float F
     f := fun o x => n (F.add m o (x a).toNat (x b).toNat) },
   { v := .fsubV h d a b m, u := .fsubU h d a b m, srcs := [a, b], imm := .float F
     f := fun o x => n (F.sub m o (x a).toNat (x b).toNat) },
   { v := .fmulV h d a b m, u := .fmulU h d a b m, srcs := [a, b], imm := .float F
     f := fun o x => n (F.mul m o (x a).toNat (x b).toNat) },
   { v := .ffmaV h d a b m horner, u := .ffmaU h d a b m horner, srcs := [d, a, b], imm := .float F
     f := fun o x => n (if horner then F.fma m o [(x a).toNat, (x b).toNat, (x d).toNat] (x d).toNat (x a).toNat (x b).toNat
       else F.fma m o [(x a).toNat, (x b).toNat, (x d).toNat] (x a).toNat (x b).toNat (x d).toNat) },
   { v := .fminV h d a b, u := .fminU h d a b, srcs := [a, b], imm := .float F
     f := fun _ x => n (F.minmax false (x a).toNat (x b).toNat) },
   { v := .fmaxV h d a b, u := .fmaxU h d a b, srcs := [a, b], imm := .float F
     f := fun _ x => n (F.minmax true (x a).toNat (x b).toNat) },
   { v := .fcmpV h d a b c, u := .fcmpU h d a b c, srcs := [a, b], imm := .float F
     f := fun _ x => (if F.cmp c (x a).toNat (x b).toNat then 1 else 0, false) },
   { v := .frndV h d a m, u := .frndU h d a m, srcs := [a], imm := .float F, f := fun _ x => n (F.integral m (x a).toNat) },
   { v := .fsclV h d a b m, u := .fsclU h d a b m, srcs := [a, b], imm := .float F
     f := fun _ x => n (if F.isNan (x a).toNat then F.quiet (x a).toNat else if F.isNan (x b).toNat then F.quiet (x b).toNat
       else F.scale m (x a).toNat (F.scaleBy (x b).toNat)) },
   { v := .fgetxV h d a, u := .fgetxU h d a, srcs := [a], imm := .float F, f := fun _ x => n (F.exponent (x a).toNat) },
   { v := .fgetmV h d a, u := .fgetmU h d a, srcs := [a], imm := .float F, f := fun _ x => n (F.significand (x a).toNat) },
   { v := .fclassV h d a, u := .fclassU h d a, srcs := [a], noBit := true, imm := .float F
     f := fun _ x => n (F.classBits (x a).toNat) },
   { v := .hadd2V h d a b m bf, u := .hadd2U h d a b m bf, srcs := [a, b], imm := .halves H
     f := fun o x => two (H.add m o (p (x a) 1) (p (x b) 1)) (H.add m o (p (x a) 0) (p (x b) 0)) },
   { v := .hmul2V h d a b m bf, u := .hmul2U h d a b m bf, srcs := [a, b], imm := .halves H
     f := fun o x => two (H.mul m o (p (x a) 1) (p (x b) 1)) (H.mul m o (p (x a) 0) (p (x b) 0)) },
   { v := .hfma2V h d a b m bf, u := .hfma2U h d a b m bf, srcs := [d, a, b], imm := .halves H
     f := fun o x => two (H.fma m o [p (x a) 1, p (x b) 1, p (x d) 1] (p (x a) 1) (p (x b) 1) (p (x d) 1))
       (H.fma m o [p (x a) 0, p (x b) 0, p (x d) 0] (p (x a) 0) (p (x b) 0) (p (x d) 0)) }]

/-- Integer words of class V. -/
def Sys2Proof.Machine.integerVaryingSays : Prop :=
  ∀ h d a b u sat sx c sr m g i j (s : State), ∀ r ∈ integerRows h d a b u sat sx c sr m g i j, r.holdsV h d s

/-- Integer words of class U. -/
def Sys2Proof.Machine.integerUniformSays : Prop :=
  ∀ h d a b u sat sx c sr m g i j (s : State), ∀ r ∈ integerRows h d a b u sat sx c sr m g i j, r.holdsU h d s

/-- The integer operations in classes V and U (R301, R302, R308, R338, R340-R344, R350, R351, R360, R374, R384). -/
def Sys2Proof.Machine.integerSays : Prop := integerVaryingSays ∧ integerUniformSays

/-- Packed and dot-product words. -/
def Sys2Proof.Machine.packedSays : Prop :=
  ∀ h d a b u sat hi ua ub (s : State),
    (∀ r ∈ packedRows h d a b u sat hi, r.holdsV h d s ∧ r.holdsU h d s) ∧ ∀ r ∈ dotRows h d a b u ua ub sat, r.holdsV h d s

/-- The integer and packed operations in classes V and U. -/
def Obligations.IntegerAndPacked : Prop := integerSays ∧ packedSays

/-- The floating-point formats (R98). -/
def Sys2Proof.Machine.formats : List Fmt := [.fp32, .fp16, .bf16, .e4m3, .e5m2]

/-- The number that magnitude bits stand for (R98); the code after the largest finite one counts as the number one unit beyond it. -/
def Sys2Proof.Machine.magOf (f : Fmt) (n : Nat) : ℚ :=
  let e := n / 2 ^ f.fw
  let fr : ℚ := (n % 2 ^ f.fw : Nat) / 2 ^ f.fw
  if e = 0 then 2 ^ (1 - f.bias) * fr else 2 ^ ((e : Int) - f.bias) * (1 + fr)

/-- The number that a pattern stands for (R98); an infinity counts as the number one unit beyond the largest. -/
def Sys2Proof.Machine.numOf (f : Fmt) (x : Nat) : ℚ :=
  (if x / 2 ^ (f.ew + f.fw) % 2 = 1 then -1 else 1) * magOf f (x % 2 ^ (f.ew + f.fw))

/-- `r` is the non-zero number `v` rounded once to a format (R99, R100): a magnitude between two codes goes to one of them by the mode, a tie of
RNE to the even one; what overflows becomes infinite (E4M3: the NaN of its sign) or the largest finite value. -/
def Sys2Proof.Machine.rounds (f : Fmt) (mode : Rnd) (sat : Bool) (v : ℚ) (r : Nat) : Prop :=
  let out (mag : Nat) : Nat := if v < 0 then 2 ^ (f.ew + f.fw) + mag else mag
  (∀ n ≤ f.most, magOf f n ≤ |v| → |v| < magOf f (n + 1) →
    (|v| = magOf f n → r = out n) ∧
    (|v| ≠ magOf f n →
      let up : Prop := match mode with
        | .rz => False
        | .rup => 0 < v
        | .rdn => v < 0
        | .rne => magOf f n + magOf f (n + 1) < 2 * |v| ∨ (magOf f n + magOf f (n + 1) = 2 * |v| ∧ n % 2 = 1)
      (¬up → r = out n) ∧ (up → n < f.most → r = out (n + 1)) ∧
        (up → n = f.most → r = out (if sat then f.most else f.most + 1)))) ∧
  (magOf f (f.most + 1) ≤ |v| →
    (sat = true ∨ mode = .rz ∨ (mode = .rup ∧ v < 0) ∨ (mode = .rdn ∧ 0 < v) → r = out f.most) ∧
    (sat = false → mode = .rne ∨ (mode = .rup ∧ 0 < v) ∨ (mode = .rdn ∧ v < 0) → r = out (f.most + 1)))

/-- `k` is the number `v` rounded to an integer (R7, R100). -/
def Sys2Proof.Machine.rounded (mode : Rnd) (v : ℚ) (k : Int) : Prop :=
  match mode with
  | .rz => k = if 0 ≤ v then ⌊v⌋ else ⌈v⌉
  | .rup => k = ⌈v⌉
  | .rdn => k = ⌊v⌋
  | .rne => |v - k| < 1 / 2 ∨ (|v - k| = 1 / 2 ∧ k % 2 = 0)

/-- The formats (R98): their fields, their largest finite values, and what each pattern stands for: E4M3 has no infinities. -/
def Sys2Proof.Machine.formatSays : Prop :=
  (formats.map (fun f => (f.ew, f.fw, f.bias, f.most)) =
    [(8, 23, 127, 0x7F7FFFFF), (5, 10, 15, 0x7BFF), (8, 7, 127, 0x7F7F), (4, 3, 7, 0x7E), (5, 2, 15, 0x7B)]) ∧
  ∀ f ∈ formats, ∀ x < 2 ^ (f.ew + f.fw + 1),
    let neg := x / 2 ^ (f.ew + f.fw) % 2 = 1
    let e := x / 2 ^ f.fw % 2 ^ f.ew
    let fr := x % 2 ^ f.fw
    let top := e = 2 ^ f.ew - 1
    (f.isNan x = true ↔ top ∧ if f = .e4m3 then fr = 7 else fr ≠ 0) ∧
    (∀ s, f.val x = .inf s ↔ top ∧ f ≠ .e4m3 ∧ fr = 0 ∧ (s = true ↔ neg)) ∧
    ∀ s m k, f.val x = .fin s m k → (s = true ↔ neg) ∧ (if s = true then -1 else 1) * (m : ℚ) * 2 ^ k = numOf f x

/-- One rounding (R99, R100): of an exact number `m * 2^e`, and of an exact integer multiple of `2^e`; a zero takes the sign given. -/
def Sys2Proof.Machine.roundingSays : Prop :=
  ∀ f ∈ formats, ∀ (mode : Rnd) (sat neg : Bool) (m : Nat) (n e : Int),
    let nought := if neg then 2 ^ (f.ew + f.fw) else 0
    f.round mode sat neg 0 e = nought ∧ f.roundInt mode sat neg 0 e = nought ∧
    (0 < m → rounds f mode sat ((if neg then -1 else 1) * m * 2 ^ e) (f.round mode sat neg m e)) ∧
    (n ≠ 0 → rounds f mode sat (n * 2 ^ e) (f.roundInt mode sat neg n e))

/-- Invalid operations (R102) and NaNs (R103): the patterns, and a NaN quieted by its top significand bit. -/
def Sys2Proof.Machine.invalidSays : Prop :=
  (∀ o : Origin, o.t < 32 →
    let h := (o.pc / 2 ^ 3 % 2 ^ 16) ^^^ (o.pc / 2 ^ 19 % 2 ^ 16) ^^^ (o.pc / 2 ^ 35 % 2 ^ 13)
    let v := o.v.toNat
    let t := if o.v then o.t else 0
    Fmt.fp32.invalid o = 0x7FC00000 ||| v <<< 21 ||| t <<< 16 ||| h ∧ Fmt.fp16.invalid o = 0x7E00 ||| v <<< 8 ||| t <<< 3 ||| h &&& 7 ∧
      Fmt.bf16.invalid o = 0x7FC0 ||| v <<< 5 ||| t ∧ Fmt.e4m3.invalid o = 0x7F ∧ Fmt.e5m2.invalid o = 0x7E) ∧
  ∀ f ∈ formats, ∀ x, f.quiet x = x ||| 2 ^ (f.fw - 1)

/-- The arithmetic (R98-R103, R316, R321): a NaN operand first, the first of them quieted; the invalid cases; infinities; else the exact
result rounded once, an exact zero sum +0, or -0 under RDN, but for zeros of one sign. -/
def Sys2Proof.Machine.arithmeticSays : Prop :=
  ∀ f ∈ formats, ∀ (mode : Rnd) (o : Origin) (a b c : Nat) (ns : List Nat), a < 2 ^ (f.ew + f.fw + 1) → b < 2 ^ (f.ew + f.fw + 1) →
    c < 2 ^ (f.ew + f.fw + 1) →
    let nan (x : Nat) : Prop := f.isNan x = true
    let fin (x : Nat) : Prop := ∃ s m e, f.val x = .fin s m e
    let bit (x : Nat) : Bool := x / 2 ^ (f.ew + f.fw) % 2 == 1
    let v := numOf f
    let zero (s : Bool) : Nat := if s then 2 ^ (f.ew + f.fw) else 0
    let infinite (s : Bool) : Nat := zero s + f.most + 1
    let sum (p q : ℚ) (s t : Bool) (r : Nat) : Prop :=
      (p + q ≠ 0 → rounds f mode false (p + q) r) ∧
      (p + q = 0 → r = zero (if p = 0 ∧ q = 0 ∧ s = t then s else mode == .rdn))
    let p : Bool := bit a != bit b
    (nan a → f.add mode o a b = f.quiet a ∧ f.sub mode o a b = f.quiet a ∧ f.mul mode o a b = f.quiet a) ∧
    (¬nan a → nan b → f.add mode o a b = f.quiet b ∧ f.sub mode o a b = f.quiet b ∧ f.mul mode o a b = f.quiet b) ∧
    (fin a → fin b → sum (v a) (v b) (bit a) (bit b) (f.add mode o a b) ∧ sum (v a) (-v b) (bit a) (!bit b) (f.sub mode o a b) ∧
      (v a * v b ≠ 0 → rounds f mode false (v a * v b) (f.mul mode o a b)) ∧ (v a * v b = 0 → f.mul mode o a b = zero p)) ∧
    (∀ s, f.val a = .inf s →
      (fin b → f.add mode o a b = infinite s ∧ f.sub mode o a b = infinite s ∧
        f.mul mode o a b = if v b = 0 then f.invalid o else infinite p) ∧
      ∀ t, f.val b = .inf t → f.add mode o a b = (if s = t then infinite s else f.invalid o) ∧
        f.sub mode o a b = (if s = t then f.invalid o else infinite s) ∧ f.mul mode o a b = infinite (s != t)) ∧
    (fin a → ∀ s, f.val b = .inf s → f.add mode o a b = infinite s ∧ f.sub mode o a b = infinite (!s) ∧
      f.mul mode o a b = if v a = 0 then f.invalid o else infinite p) ∧
    (∀ l x m, ns = l ++ x :: m → (∀ y ∈ l, ¬nan y) → nan x → f.fma mode o ns a b c = f.quiet x) ∧
    ((∀ y ∈ ns, ¬nan y) → ¬nan a → ¬nan b → ¬nan c →
      ((v a = 0 ∧ ¬fin b) ∨ (v b = 0 ∧ ¬fin a) → f.fma mode o ns a b c = f.invalid o) ∧
      (fin a → fin b → fin c → sum (v a * v b) (v c) p (bit c) (f.fma mode o ns a b c)) ∧
      (fin a → fin b → ∀ s, f.val c = .inf s → f.fma mode o ns a b c = infinite s) ∧
      ((¬fin a ∧ v b ≠ 0) ∨ (¬fin b ∧ v a ≠ 0) → (fin c → f.fma mode o ns a b c = infinite p) ∧
        ∀ s, f.val c = .inf s → f.fma mode o ns a b c = if s = p then infinite s else f.invalid o))

/-- The operations on one pattern and the comparisons (R317, R318, R322-R324, R326, R327). -/
def Sys2Proof.Machine.patternSays : Prop :=
  ∀ (mode : Rnd) (a b : Nat) (n k : Int), a < 2 ^ 32 → b < 2 ^ 32 →
    let f : Fmt := .fp32
    let nan (x : Nat) : Prop := f.isNan x = true
    let fin (x : Nat) : Prop := ∃ s m e, f.val x = .fin s m e
    let v := numOf f
    let neg (x : Nat) : Prop := 2 ^ 31 ≤ x
    (∀ isMax, (nan a → nan b → f.minmax isMax a b = f.quiet a) ∧ (nan a → ¬nan b → f.minmax isMax a b = b) ∧
      (¬nan a → nan b → f.minmax isMax a b = a)) ∧
    (¬nan a → ¬nan b → (v a < v b → f.minmax true a b = b ∧ f.minmax false a b = a) ∧
      (v b < v a → f.minmax true a b = a ∧ f.minmax false a b = b) ∧
      (v a = v b → (neg a → f.minmax true a b = b ∧ f.minmax false a b = a) ∧ (neg b → f.minmax true a b = a ∧ f.minmax false a b = b))) ∧
    (nan a ∨ nan b → (f.cmp .ne a b = true ∧ f.cmp .nan a b = true) ∧
      ∀ c ∈ [FCond.eq, .lt, .le, .gt, .ge, .num], f.cmp c a b = false) ∧
    (¬nan a → ¬nan b → f.cmp .num a b = true ∧ f.cmp .nan a b = false ∧ (f.cmp .eq a b = true ↔ v a = v b) ∧
      (f.cmp .ne a b = true ↔ v a ≠ v b) ∧ (f.cmp .lt a b = true ↔ v a < v b) ∧ (f.cmp .le a b = true ↔ v a ≤ v b) ∧
      (f.cmp .gt a b = true ↔ v b < v a) ∧ (f.cmp .ge a b = true ↔ v b ≤ v a)) ∧
    (nan a → f.integral mode a = f.quiet a ∧ f.exponent a = f.quiet a ∧ f.significand a = f.quiet a ∧
      f.classBits a = if a / 2 ^ 22 % 2 = 1 then 2 ^ 9 else 2 ^ 8) ∧
    (∀ s, f.val a = .inf s → f.integral mode a = a ∧ f.scale mode a n = a ∧ f.significand a = a ∧ f.exponent a = 0x7F800000 ∧
      f.scaleBy a = (if s then -512 else 512) ∧ f.classBits a = if s then 2 ^ 0 else 2 ^ 7) ∧
    (fin a → v a = 0 → f.integral mode a = a ∧ f.scale mode a n = a ∧ f.significand a = a ∧ f.exponent a = 0xFF800000 ∧ f.scaleBy a = 0 ∧
      ((neg a → f.classBits a = 2 ^ 3) ∧ (¬neg a → f.classBits a = 2 ^ 4))) ∧
    (fin a → v a ≠ 0 →
      ((rounded mode (v a) k → v (f.integral mode a) = k ∧ (neg (f.integral mode a) ↔ neg a) ∧ f.integral mode a < 2 ^ 32) ∧
       (v a = ⌊v a⌋ → f.integral mode a = a)) ∧
      rounds f mode false (v a * 2 ^ n) (f.scale mode a n) ∧
      f.scaleBy a = max (-512) (min 512 (if 0 ≤ v a then ⌊v a⌋ else ⌈v a⌉)) ∧
      (2 ^ k ≤ |v a| → |v a| < 2 ^ (k + 1) → v (f.exponent a) = k ∧ f.exponent a < 2 ^ 32 ∧ v (f.significand a) = v a / 2 ^ k ∧
        f.significand a < 2 ^ 32) ∧
      ((|v a| < 2 ^ (-126 : Int) → (neg a → f.classBits a = 2 ^ 2) ∧ (¬neg a → f.classBits a = 2 ^ 5)) ∧
       (2 ^ (-126 : Int) ≤ |v a| → (neg a → f.classBits a = 2 ^ 1) ∧ (¬neg a → f.classBits a = 2 ^ 6))))

/-- Conversions between formats and to integers (R100-R103, R312), and the stochastic one (R101), which goes up with the fraction of a unit
that lies above the lower code. An infinite source of a stochastic conversion stays infinite under SAT (the model's choice; log 55). -/
def Sys2Proof.Machine.formatConversionSays : Prop :=
  ∀ f ∈ formats, ∀ g ∈ formats, ∀ (mode : Rnd) (sat : Bool) (x r n : Nat), x < 2 ^ (f.ew + f.fw + 1) →
    let v := numOf f x
    let s := x / 2 ^ (f.ew + f.fw) % 2
    let out (mag : Nat) : Nat := s * 2 ^ (g.ew + g.fw) + mag
    let nan (w : Nat) : Nat := out ((2 ^ g.ew - 1) * 2 ^ g.fw + w ||| 2 ^ (g.fw - 1))
    let fr := x % 2 ^ f.fw
    let fin : Prop := ∃ s m e, f.val x = .fin s m e
    (fin → v ≠ 0 → rounds g mode sat v (f.conv g mode sat x)) ∧ (fin → v = 0 → f.conv g mode sat x = out 0) ∧
    (∀ t, f.val x = .inf t → f.conv g mode sat x = out (if g = .e4m3 ∧ sat = true then 0x7E else g.most + 1)) ∧
    (f.isNan x = true → (g = .e4m3 → f.conv g mode sat x = 0x7F) ∧ (g = .e5m2 → f.conv g mode sat x = 0x7E) ∧
      (g ≠ .e4m3 → g ≠ .e5m2 → (g.fw ≤ f.fw → f.conv g mode sat x = nan (fr / 2 ^ (f.fw - g.fw))) ∧
        (f.fw ≤ g.fw → f.conv g mode sat x = nan (fr * 2 ^ (g.fw - f.fw))))) ∧
    (f.isNan x = true → f.toInt mode x = none) ∧ (fin → ∃ k, f.toInt mode x = some k ∧ rounded mode v k) ∧
    (∀ t, f.val x = .inf t → f.toInt mode x = some (if t then -2 ^ 64 else 2 ^ 64)) ∧
    (f = .fp32 → g = .bf16 ∨ g = .fp16 →
      let got := g.stochastic sat x r
      (f.isNan x = true → got = nan (fr / 2 ^ (f.fw - g.fw))) ∧
      (∀ t, f.val x = .inf t → got = out (g.most + 1)) ∧ (fin → v = 0 → got = out 0) ∧
      (fin → v ≠ 0 →
        (n ≤ g.most → magOf g n ≤ |v| → |v| < magOf g (n + 1) →
          let up : Prop := (r % 2 ^ 16 : Nat) < (|v| - magOf g n) / (magOf g (n + 1) - magOf g n) * 2 ^ 16
          (¬up → got = out n) ∧ (up → n < g.most → got = out (n + 1)) ∧
            (up → n = g.most → got = out (if sat then g.most else g.most + 1))) ∧
        (magOf g (g.most + 1) ≤ |v| → got = out (if sat then g.most else g.most + 1))))

/-- The generator (R113): ten rounds, the key stepped between them; the first output word. -/
def Sys2Proof.Machine.generatorSays : Prop :=
  ∀ k0 k1 c0 c1 c2 c3 : BitVec 32,
    let turn (c : BitVec 32 × BitVec 32 × BitVec 32 × BitVec 32) (i : Nat) : BitVec 32 × BitVec 32 × BitVec 32 × BitVec 32 :=
      let (w0, w1, w2, w3) := c
      let p0 := 0xD2511F53 * w0.toNat
      let p1 := 0xCD9E8D57 * w2.toNat
      (BitVec.ofNat 32 (p1 / 2 ^ 32) ^^^ w1 ^^^ (k0 + BitVec.ofNat 32 i * 0x9E3779B9), BitVec.ofNat 32 p1,
        BitVec.ofNat 32 (p0 / 2 ^ 32) ^^^ w3 ^^^ (k1 + BitVec.ofNat 32 i * 0xBB67AE85), BitVec.ofNat 32 p0)
    philox0 k0.toNat k1.toNat c0.toNat c1.toNat c2.toNat c3.toNat = ((List.range 10).foldl turn (c0, c1, c2, c3)).1.toNat

/-- Floating-point words of class V. -/
def Sys2Proof.Machine.floatVaryingSays : Prop := ∀ h d a b m horner bf c (s : State), ∀ r ∈ floatRows h d a b m horner bf c, r.holdsV h d s

/-- Floating-point words of class U. -/
def Sys2Proof.Machine.floatUniformSays : Prop := ∀ h d a b m horner bf c (s : State), ∀ r ∈ floatRows h d a b m horner bf c, r.holdsU h d s

/-- The floating-point operations in classes V and U (R98-R103, R316-R318, R321-R324, R326, R327, R337), and what the functions on patterns that
give their results do: formats, rounding, NaNs, infinities and zeros. -/
def Obligations.Float : Prop :=
  floatVaryingSays ∧ floatUniformSays ∧ formatSays ∧ roundingSays ∧ invalidSays ∧ arithmeticSays ∧ patternSays

/-- One conversion (R311, R312): `x` in the source type, `y` the random word of a stochastic one. -/
def Sys2Proof.Machine.converted (m : Rnd) (sat : Bool) (dt st : CvtType) (x y : Word) : Word × Bool :=
  let conv (n : Nat × Bool) (c : Int) : Word := if n.2 then (BitVec.ofInt n.1 c).signExtend 32 else (BitVec.ofInt n.1 c).setWidth 32
  let clamp (n : Nat × Bool) (v : Int) : Int := max (intRange n).1 (min (intRange n).2 v)
  let v (n : Nat × Bool) : Int := if n.2 then (x.extractLsb' 0 n.1).toInt else (x.extractLsb' 0 n.1).toNat
  let f := cvtFmt st
  let p := x.toNat % 2 ^ f.width
  match cvtInt dt, cvtInt st with
  | some n, some k => if sat then (conv n (clamp n (v k)), decide (clamp n (v k) ≠ v k)) else (conv n (v k), false)
  | none, some k => (BitVec.ofNat 32 ((cvtFmt dt).roundInt m sat false (v k) 0), false)
  | some n, none => match f.toInt m p with
    | none => (0, true)
    | some r => (conv n (clamp n r), decide (clamp n r ≠ r))
  | none, none => (BitVec.ofNat 32 (if cvtSr dt then (cvtFmt dt).stochastic sat p (y.toNat % 65536) else f.conv (cvtFmt dt) m sat p), false)

/-- CVT in both classes (R311, R312): B is read in a stochastic conversion alone. -/
def Sys2Proof.Machine.conversionSays : Prop :=
  ∀ h d a b m sat dt st (s : State),
    let os := if cvtSr dt then [a, b] else [a]
    let v (t : Nat) : Word × Bool := converted m sat dt st (s.lane (cvtImm st) a t) (s.lane .int b t)
    s.runsV (.cvtV h d a b m sat dt st) h (needV d (os.map plain)) d (s.anyPoison os) v ∧
      s.runsU (.cvtU h d a b m sat dt st) h (needU d (os.map plain)) d (v 0)

/-- RBITS in both classes (R114, R376): the first output word of the generator, keyed by B's pair, on A and D; an overflowed affine
A sets AOV where a thread executes (R38). -/
def Sys2Proof.Machine.randomBitsSays : Prop :=
  ∀ h d a b (s : State),
    let key := s.agent.pairOf b
    let thread : Bool := match b with
      | .v _ | .p _ => true
      | _ => false
    let v (t : Nat) : Word × Bool :=
      (BitVec.ofNat 32 (philox0 (key % 2 ^ 32) (key / 2 ^ 32) (s.lane .int a t).toNat (s.lane .int d t).toNat 0 0), false)
    let n := ({ needV d [plain d, { o := a, aff := true }, { o := b, n := 2, al := 2 }] with bad2 := thread }).guarded h.g
    s.stopped (.rbitsV h d a b) n true ∧
    (s.passes h.nas n true → ∃ t ag mid, exec (.rbitsV h d a b) s = .next t ∧ Issued (s.tracked (s.agent.execSet h.g)) t h.nas ag ∧
      WroteV s.agent mid (s.agent.execSet h.g) d (s.anyPoison [d, a]) v s.agent.pc ∧
      ag = { mid with wst := if s.agent.oSet a ∧ s.agent.execSet h.g ≠ 0 then mid.wst ||| 4 else mid.wst }) ∧
    s.runsU (.rbitsU h d a b) h (needU d [plain d, plain a, { o := b, n := 2, al := 2 }]) d (v 0)

/-- CVT (R100-R103, R311, R312) and RBITS (R113, R114, R376), with what the conversions and the generator give. -/
def Obligations.ConversionAndRandom : Prop := conversionSays ∧ formatConversionSays ∧ randomBitsSays ∧ generatorSays

/-- IADC in both classes (R339): the sum modulo 2^32 in D, and the carry out in a predicate or a flag. -/
def Sys2Proof.Machine.carryWordsSays : Prop :=
  ∀ h d a b ci (s : State),
    (∀ n : Fin 8,
      let need := ({ needV d [plain a, plain b] true with reads := [.p n.val] }).guarded h.g
      let sum (t : Nat) : Nat := (s.lane .int a t).toNat + (s.lane .int b t).toNat + (ci && mbit (s.agent.preg n.val) t).toNat
      s.stopped (.iadcV h d a b ci n) need true ∧
      (s.passes h.nas need true → ∃ t ag mid, exec (.iadcV h d a b ci n) s = .next t ∧ Issued (s.tracked (s.agent.execSet h.g)) t h.nas ag ∧
        WroteV s.agent mid (s.agent.execSet h.g) d (s.anyPoison [a, b]) (fun t => (BitVec.ofNat 32 (sum t), false)) s.agent.pc ∧
        WroteV mid ag (s.agent.execSet h.g) (.p n) (s.anyPoison [a, b]) (fun t => (if 2 ^ 32 ≤ sum t then 1 else 0, false))
          s.agent.pc)) ∧
    ∀ n : Fin 4,
      let i : Instr := .iadcU h d a b ci ⟨n.val, by omega⟩
      let need := (needU d [plain a, plain b] true).guarded h.g
      let sum : Nat := (s.uval .int a).toNat + (s.uval .int b).toNat + (ci && s.agent.flag n.val).toNat
      s.stopped i need (s.agent.guardU h.g) ∧
      (s.passes h.nas need (s.agent.guardU h.g) → ∃ t ag, exec i s = .next t ∧ Issued s t h.nas ag ∧
        if s.agent.guardU h.g then ∃ mid, WroteU s.agent mid d (BitVec.ofNat 32 sum, false) ∧
          WroteU mid ag (.b n) (if 2 ^ 32 ≤ sum then 1 else 0, false) else ag = s.agent)

/-- ISEL in both classes (R345): the source that a predicate or a flag picks, with its poison. -/
def Sys2Proof.Machine.selectWordsSays : Prop :=
  ∀ h d a b neg (s : State),
    (∀ n : Fin 8,
      let c (t : Nat) : Bool := mbit (s.agent.preg n.val) t != neg
      s.runsV (.iselV h d a b neg n) h { needV d [plain a, plain b] with reads := [.p n.val] } d
        (fun t => if c t then mbit (s.agent.poisonOf a) t else mbit (s.agent.poisonOf b) t)
        (fun t => (if c t then s.lane .int a t else s.lane .int b t, false))) ∧
    ∀ n : Fin 4, s.runsU (.iselU h d a b neg ⟨n.val, by omega⟩) h (needU d [plain a, plain b]) d
      (if s.agent.flag n.val != neg then s.uval .int a else s.uval .int b, false)

/-- IADC, and the word that chooses, ISEL. -/
def Obligations.CarryAndSelect : Prop := carryWordsSays ∧ selectWordsSays

/-! ## Affine registers -/

/-- The class-A words: the exact per-thread values base + t · stride of R36 written as R37 says, and AGET (R40). -/
def Sys2Proof.Machine.affineRegistersSays : Prop :=
  ∀ h d a b (i : BitVec 21) part (s : State),
    let x := s.aval a
    let y := s.aval b
    let k : Int := 2 ^ (y.base.toNat % 32)
    s.runsA (.iaddA h d a b) h (needA d [shaped a, shaped b]) d
      (affine (x.o || y.o) (x.base.toInt + y.base.toInt) (x.stride.toInt + y.stride.toInt)) ∧
    s.runsA (.isubA h d a b) h (needA d [shaped a, shaped b]) d
      (affine (x.o || y.o) (x.base.toInt - y.base.toInt) (x.stride.toInt - y.stride.toInt)) ∧
    s.runsA (.imulA h d a b) h (needA d [shaped a, shaped b] (isAffine a && isAffine b)) d
      (affine (x.o || y.o) (x.base.toInt * y.base.toInt) (x.stride.toInt * y.base.toInt + x.base.toInt * y.stride.toInt)) ∧
    s.runsA (.ishlA h d a b) h (needA d [shaped a, shaped b] (isAffine b)) d
      (affine (x.o || y.o) (x.base.toInt * k) (x.stride.toInt * k)) ∧
    s.runsA (.movA h d a) h (needA d [shaped a]) d x ∧
    s.runsA (.ldiA h d i) h (needA d []) d { base := BitVec.ofInt 32 i.toInt, stride := 0, o := false } ∧
    s.runsA (.promA h d a) h (needA d [plain a]) d { base := s.uval .int a, stride := 0, o := false } ∧
    s.runsA (.aset h d a b) h (needA d [plain a, plain b]) d { base := s.uval .int a, stride := s.uval .int b, o := false } ∧
    s.runsU (.aget h d a part) h { needU d [shaped a] false false with bad2 := !isAffine a } d
      (match part with
        | .base => x.base
        | .stride => x.stride
        | .ovf => if x.o then 1 else 0, false)

/-- PROM into a varying register (R38, R39, R43, R375): cause 0x04 for an overflowed source under .chk, else AOV; the shape tag when
the executed set covers every live thread. -/
def Sys2Proof.Machine.promoteSays : Prop :=
  ∀ h d a chk (s : State),
    let e := s.agent.execSet h.g
    let ovf := s.agent.oSet a = true ∧ e ≠ 0
    let bad2 : Bool := match a with
      | .v _ | .p _ => true
      | _ => false
    let n := ({ needV d [shaped a] true with bad1 := chk && !isAffine a, bad2 := bad2 }).guarded h.g
    s.stopped (.promV h d a chk) n true ∧
    (s.passes h.nas n true → chk = true ∧ ovf → exec (.promV h d a chk) s = .next (s.raise (s.agent.flt 0x04))) ∧
    (s.passes h.nas n true → ¬(chk = true ∧ ovf) → ∃ t ag, exec (.promV h d a chk) s = .next t ∧ Issued (s.tracked e) t h.nas ag ∧
      Promoted s s.agent ag e d a)

/-- The class-A words (R36, R37, R40) and PROM (R38, R375). -/
def Obligations.AffineWords : Prop := affineRegistersSays ∧ promoteSays

/-! ## Words across threads -/

/-- VSLD (R51, R407): element `e` takes element `e - n` or `e + n` of A where its thread executes, else the fill from B. -/
def Sys2Proof.Machine.slideWordSays : Prop :=
  ∀ h d a b hf down (n : Fin 32) (s : State),
    let ex := s.agent.execSet h.g
    let per : Nat := if hf then 2 else 1
    let el (o : Opnd) (e : Nat) : Nat :=
      if hf then ((s.lane .int o (e / 2)).extractLsb' (16 * (e % 2)) 16).toNat else (s.lane .int o e).toNat
    let from_ (e : Nat) : Int := if down then (e : Int) + n.val else (e : Int) - n.val
    let taken (e : Nat) : Bool := decide (0 ≤ from_ e ∧ from_ e < 32 * per) && mbit ex ((from_ e).toNat / per)
    let got (e : Nat) : Nat := if taken e then el a (from_ e).toNat else if hf then (s.lane .int b (e / 2)).toNat % 65536 else el b e
    let pois (e : Nat) : Bool :=
      if taken e then mbit (s.agent.poisonOf a) ((from_ e).toNat / per) else mbit (s.agent.poisonOf b) (e / per)
    s.runsV (.vsld h d a b hf down n) h { needV d [plain a, plain b] with bad1 := n == 0, badE := !isVary a } d
      (fun t => if hf then pois (2 * t) || pois (2 * t + 1) else pois t)
      (fun t => (BitVec.ofNat 32 (if hf then got (2 * t + 1) * 65536 + got (2 * t) else got t), false))

/-- One step of a scan or a reduction (R52, R112). -/
def Sys2Proof.Machine.scanOnce (op : ScanOp) (o : Origin) (r x : Word) : Word × Bool :=
  match op with
  | .add => narrow32 false (r.toInt + x.toInt)
  | .adds => narrow32 true (r.toInt + x.toInt)
  | .min => (BitVec.ofInt 32 (min r.toInt x.toInt), false)
  | .max => (BitVec.ofInt 32 (max r.toInt x.toInt), false)
  | .fadd => (BitVec.ofNat 32 (Fmt.fp32.add .rne o r.toNat x.toNat), false)
  | .fmin => (BitVec.ofNat 32 (Fmt.fp32.minmax false r.toNat x.toNat), false)
  | .fmax => (BitVec.ofNat 32 (Fmt.fp32.minmax true r.toNat x.toNat), false)

/-- VSCAN (R52, R406): the prefix over the executed threads in thread order, from B. -/
def Sys2Proof.Machine.scanWordSays : Prop :=
  ∀ h d a b op ex (s : State),
    let e := s.agent.execSet h.g
    let before (t : Nat) : List Nat := (threadsOf e).filter (· < t)
    let step (r : Word) (t : Nat) : Word × Bool := scanOnce op ⟨true, t, s.agent.pc⟩ r (s.lane .int a t)
    let run (l : List Nat) : Word := l.foldl (fun r t => (step r t).1) (s.uval (scanImm op) b)
    s.runsV (.vscan h d a b op ex) h { needV d [plain a, plain b] with badE := !isVary a || isThread b } d
      (fun t => (before (if ex then t else t + 1)).any (fun u => mbit (s.agent.poisonOf a) u))
      (fun t => (run (before (if ex then t else t + 1)), (step (run (before t)) t).2))

/-- WRTH (R411), RDTH (R377), VRED (R112, R405) and VOTE (R403). -/
def Sys2Proof.Machine.threadWordsSays : Prop :=
  ∀ h d a b op vop neg (s : State),
    let u := (s.uval .int b).toNat % 32
    let pois := s.agent.poisonOf a &&& s.agent.exm
    let p : Mask := match a with
      | .p n => s.agent.preg n.val
      | _ => 0
    let m := (if neg then ~~~p else p) &&& s.agent.exm
    let red := (threadsOf s.agent.exm).foldl
      (fun r t => let q := scanOnce op ⟨false, 0, s.agent.pc⟩ r.1 (s.lane .int a t); (q.1, r.2 || q.2)) (s.uval (scanImm op) b, false)
    let nw := ({ needV d [plain a, plain b] with badE := isThread a || isThread b }).guarded h.g
    let nr := ({ needU d [{ o := a, vary := true, pred := true }, plain b] false false with badE := !isThread a }).guarded h.g
    let nd := ({ needU d [{ o := a, vary := true }, plain b] false false with badE := !isVary a }).guarded h.g
    let nv : Need := { needU d [{ o := a, pred := true }] false false with
      badE := (match a with
        | .p _ => false
        | _ => true) || (vop == .ballot && isBit d) }
    let on := s.agent.guardU h.g
    s.stopped (.wrth h d a b) nw true ∧
    (s.passes h.nas nw true → ∃ t ag, exec (.wrth h d a b) s = .next t ∧ Issued (s.tracked (s.agent.execSet h.g &&& oneMask u)) t h.nas ag ∧
      WroteV s.agent ag (s.agent.execSet h.g &&& oneMask u) d (fun _ => false) (fun _ => (s.uval .int a, false)) s.agent.pc) ∧
    s.stopped (.rdth h d a b) nr on ∧
    (s.passes h.nas nr on → on = true ∧ mbit (s.agent.poisonOf a) u →
      exec (.rdth h d a b) s = .next (s.raise { cause := 0x17, mask := fullMask, addr := 0 })) ∧
    (s.passes h.nas nr on → ¬(on = true ∧ mbit (s.agent.poisonOf a) u) → ∃ t ag, exec (.rdth h d a b) s = .next t ∧
      Issued s t h.nas ag ∧ if on then WroteU s.agent ag d (s.lane .int a u, false) else ag = s.agent) ∧
    s.stopped (.vred h d a b op) nd on ∧
    (s.passes h.nas nd on → on = true ∧ pois ≠ 0 →
      exec (.vred h d a b op) s = .next (s.raise { cause := 0x17, mask := pois, addr := 0 })) ∧
    (s.passes h.nas nd on → ¬(on = true ∧ pois ≠ 0) → ∃ t ag, exec (.vred h d a b op) s = .next t ∧
      Issued s t h.nas ag ∧ if on then WroteU s.agent ag d red else ag = s.agent) ∧
    s.runsU (.vote h d a vop neg) h nv d
      (match vop with
        | .all => if m = s.agent.exm then 1 else 0
        | .any => if m = 0 then 0 else 1
        | .uni => if m = 0 ∨ m = s.agent.exm then 1 else 0
        | .ballot => m, false)

/-- VSLD (R51), VSCAN (R52, R406), and RDTH, WRTH, VRED and VOTE. -/
def Obligations.CrossThread : Prop := slideWordSays ∧ scanWordSays ∧ threadWordsSays

/-! ## Paired words -/

/-- A paired word (R73-R75, R95): it raises the first check of R78 that either slot or the pair meets; otherwise each slot acts as its
operation says, both reading the state before the word. The slots of the default short page are stated by value; those that a
loaded decode table can put there, by the full form that they stand for. -/
def Obligations.PairedWords : Prop :=
  ∀ (nas : Nas) (x y : PSlot) (s : State),
    let go := s.pairCause x y = none ∧ s.frameFault ((slotTyped x).need.srcs ++ (slotTyped y).need.srcs) = none ∧
      s.agent.nasBad nas s.npc = none
    let takes (z : PSlot) : Mask := match z.d with
      | .v _ => s.agent.exm &&& s.agent.slotMask z.sp
      | _ => 0
    (∀ c, s.pairCause x y = some c → exec (.pairedWord nas x y) s = .next (s.raise (s.agent.flt c))) ∧
    (go → x.op.sop.isSome → y.op.sop.isSome → ∃ t mid ag, exec (.pairedWord nas x y) s = .next t ∧
      Issued (s.tracked (takes x ||| takes y)) t nas ag ∧
      SlotDid s x s.agent mid ∧ SlotDid s y mid ag) ∧
    (go → ∃ f g t, s.slotEff x = .ok f ∧ s.slotEff y = .ok g ∧ exec (.pairedWord nas x y) s = .next t ∧
      Issued (s.tracked (takes x ||| takes y)) t nas (g (f s.agent)))

/-! ## Operands, executed sets, checks -/

/-- What an operand supplies in thread `t` (R26-R32, R36, R38): a register of its class, a predicate or flag as 1 or 0, an affine
value, the thread number, an immediate in the operation's form: sign-extended, in both halves, as the equal floating-point number, in both halves
of it, or for CVT in the source type, rounded to an 8-bit format (R311). -/
def Sys2Proof.Machine.operandValuesSays : Prop :=
  ∀ (s : State) (k : ImmKind) (t : Nat), t < 32 →
    (∀ n, s.lane k (.v n) t = ((s.agent.vreg n.val).lanes.getD t 0)) ∧
    (∀ n, s.lane k (.k n) t = s.agent.kreg n.val) ∧
    (∀ n, s.lane k (.p n) t = if mbit (s.agent.preg n.val) t then 1 else 0) ∧
    (∀ n, s.lane k (.b n) t = if s.agent.flag n.val then 1 else 0) ∧
    (∀ n, s.lane k (.a n) t =
      BitVec.ofInt 32 ((s.agent.areg n.val).base.toInt + t * (s.agent.areg n.val).stride.toInt)) ∧
    s.lane k .lane t = BitVec.ofNat 32 t ∧
    (∀ i, s.lane .int (.imm i) t = BitVec.ofInt 32 i.toInt) ∧
    (∀ i, s.lane .packed (.imm i) t = BitVec.ofInt 16 i.toInt ++ BitVec.ofInt 16 i.toInt) ∧
    (∀ f ∈ [Fmt.fp32, .fp16, .bf16], ∀ i, let p := (s.lane (.float f) (.imm i) t).toNat
      numOf f p = i.toInt ∧ (i = 0 → p = 0) ∧ p < 2 ^ (f.ew + f.fw + 1)) ∧
    (∀ f ∈ [Fmt.fp16, .bf16], ∀ i, let p : BitVec 16 := (s.lane (.float f) (.imm i) t).extractLsb' 0 16
      s.lane (.halves f) (.imm i) t = p ++ p) ∧
    ∀ st i, let w := s.lane (cvtImm st) (.imm i) t
      (cvtInt st ≠ none → w = BitVec.ofInt 32 i.toInt) ∧
      (cvtInt st = none → (i = 0 → w = 0) ∧ (i ≠ 0 → rounds (cvtFmt st) .rne false i.toInt w.toNat))

/-- The special registers (R32, R33) that hold a warp's own state. -/
def Sys2Proof.Machine.specialRegistersSays : Prop :=
  ∀ (s : State) (k : ImmKind) (t : Nat),
    let ag := s.agent
    let sp (i : Fin 64) : Word := s.lane k (.sp i) t
    sp 0x00 = ag.wid ∧ sp 0x01 = ag.nw ∧ sp 0x02 = ag.wx ∧ sp 0x03 = ag.wy ∧ sp 0x04 = ag.wz ∧ sp 0x05 = BitVec.ofNat 32 ag.core ∧
    sp 0x06 = BitVec.ofNat 32 (ag.core / 4) ∧ sp 0x07 = BitVec.ofNat 32 ag.die ∧
    (∀ i : Fin 4, sp ⟨0x08 + i.val, by omega⟩ = ag.gm.getD i.val 0xFFFFFFFF) ∧
    sp 0x0C = ag.live ∧ sp 0x0D = ag.exm ∧ sp 0x0E = ag.wst.setWidth 32 ∧ sp 0x0F = BitVec.ofNat 32 ag.lclk ∧
    (∀ i : Fin 8, sp ⟨0x10 + i.val, by omega⟩ = ag.cbmOf i.val) ∧
    (∀ i : Fin 3, sp ⟨0x18 + i.val, by omega⟩ = aget ag.lc 0 i.val) ∧
    sp 0x1B = BitVec.ofNat 32 ag.link.length ∧ sp 0x1C = BitVec.ofNat 32 ag.msk.length ∧ sp 0x1D = ag.phwm ∧
    sp 0x1E = ag.argp.extractLsb' 0 32 ∧ sp 0x1F = ag.argp.extractLsb' 32 32 ∧ sp 0x20 = BitVec.ofNat 32 ag.prio ∧
    sp 0x36 = ag.tframe.extractLsb' 0 32 ∧ sp 0x37 = ag.tframe.extractLsb' 32 32

/-- A thread executes a class-V word when EXM has it and the guard holds in it (R46, R59). -/
def Sys2Proof.Machine.executedSetSays : Prop :=
  ∀ (s : State) (g : Guard) (t : Nat), t < 32 →
    (mbit (s.agent.execSet g) t = true ↔ mbit s.agent.exm t = true ∧
      match g with
      | .always => True
      | .on n neg => mbit (s.agent.preg n.val) t ≠ neg)

/-- What operands give (R29, R31, R41), what special registers read as (R32, R251), and executed sets (R46, R59). -/
def Obligations.Operands : Prop := operandValuesSays ∧ specialRegistersSays ∧ executedSetSays

/-! ## Next addresses -/

/-- Next-address selection (R60-R62, R65), told on NOP, whose own effect is nothing: where each code goes, what it does to the link
stack, the loops and the threads, and which cause stops a code that cannot act. -/
def Obligations.NextAddress : Prop :=
  ∀ (s : State) (g : Guard),
    let ag := s.agent
    let next := (ag.pc + 8) % 2 ^ 48
    let seq : Bool := ag.kind == .seq
    let goes (nas : Nas) (dest : Agent) : Prop := ∃ t, exec (.nop ⟨nas, g⟩) s = .next t ∧
      t.agent = { dest with lclk := if ag.handler then ag.lclk else ag.lclk + 1
                            inflight := ag.inflight.map (fun f => { f with left := f.left - 1 })
                            passed := 0, readySince := s.time, hold := .none }
    let stops (nas : Nas) (c : Nat) : Prop := exec (.nop ⟨nas, g⟩) s = .next (s.raise (ag.flt c))
    let went (p : Nat) : Agent := { ag with pc := p }
    goes .next (went next) ∧ goes .yield (went next) ∧ goes .goJ0 (went ag.j0) ∧ goes .goJ1 (went ag.j1) ∧
    (ag.link.length < 8 → goes .callJ0 { ag with link := next :: ag.link, pc := ag.j0 } ∧
      goes .callJ1 { ag with link := next :: ag.link, pc := ag.j1 }) ∧
    (8 ≤ ag.link.length → stops .callJ0 0x12 ∧ stops .callJ1 0x12) ∧
    (∀ r l, ag.link = r :: l → goes .ret { ag with link := l, pc := r }) ∧
    (ag.link = [] → stops .ret 0x0A) ∧
    (∀ ls l, ag.loops = ls ++ [l] → ag.pc = l.stop →
      let n := aget ag.lc 0 ls.length - 1
      goes .lend (if n = 0 then { ag with lc := aset ag.lc ls.length 0, loops := ls, pc := next }
        else { ag with lc := aset ag.lc ls.length n, pc := l.start })) ∧
    ((∀ l, ag.loops.getLast? = some l → ag.pc ≠ l.stop) → stops .lend 0x0A) ∧
    goes .ifB0GoJ0 (went (if ag.flag 0 then ag.j0 else next)) ∧ goes .ifB1GoJ0 (went (if ag.flag 1 then ag.j0 else next)) ∧
    goes .ifNotB0GoJ0 (went (if ag.flag 0 then next else ag.j0)) ∧ goes .ifNotB1GoJ0 (went (if ag.flag 1 then next else ag.j0)) ∧
    goes .ifB0GoJ1 (went (if ag.flag 0 then ag.j1 else next)) ∧ goes .ifB1GoJ1 (went (if ag.flag 1 then ag.j1 else next)) ∧
    (seq = false → goes .ifNoneGoJ1 (went (if ag.exm = 0 then ag.j1 else next))) ∧
    (seq = true → stops .ifNoneGoJ1 0x0A) ∧
    (seq = false →
      let live := ag.live &&& ~~~ag.exm
      goes .exit { ag with live := live, exm := 0, pc := next, status := if live = 0 then .exiting else ag.status }) ∧
    (seq = true → goes .exit { ag with pc := next, status := if ag.status = .live then .exiting else ag.status })

/-! ## Control words -/

/-- The mask words and NOP (R50, R363, R365). -/
def Obligations.MaskWords : Prop :=
  ∀ (h : Head) (a : Opnd) (neg : Bool) (n : Fin 16) (s : State),
    let ag := s.agent
    let c : Mask := match a with
      | .p i => if neg then ~~~ag.preg i.val else ag.preg i.val
      | _ => if neg then fullMask else 0
    let m := ag.exm &&& c
    let bad (b : Prop) [Decidable b] (k : Nat) : Option Flt := if b then some (ag.flt k) else none
    s.runsX (.nop h) h (needX true) none (fun t => t = ag) ∧
    s.runsX (.mskif h a neg) h (needMask a) (bad (16 ≤ ag.msk.length) 0x11)
      (fun t => t = { ag with msk := { outer := ag.exm, alt := ag.exm &&& ~~~c } :: ag.msk, exm := m }) ∧
    s.runsX (.mskelse h) h needX (bad (ag.msk.length = 0) 0x0A)
      (fun t => ∃ e l, ag.msk = e :: l ∧ t = { ag with exm := e.alt &&& ag.live, msk := { e with alt := 0 } :: l }) ∧
    s.runsX (.mskend h) h needX (bad (ag.msk.length = 0) 0x0A)
      (fun t => ∃ e l, ag.msk = e :: l ∧ t = { ag with exm := e.outer &&& ag.live, msk := l }) ∧
    s.runsX (.mskbrk h a neg n) h (needMask a) (bad (ag.msk.length < n.val + 1) 0x0A)
      (fun t => t = { ag with exm := ag.exm &&& ~~~m, msk := t.msk } ∧ t.msk.length = ag.msk.length ∧
        ∀ i, t.msk[i]? = (ag.msk[i]?).map (fun e =>
          if i < n.val then { outer := e.outer &&& ~~~m, alt := e.alt &&& ~~~m }
          else if i = n.val then { e with alt := e.alt &&& ~~~m } else e))

/-- LDJ and LOOP (R63, R64, R352, R353). -/
def Obligations.JumpAndLoop : Prop :=
  ∀ (h : Head) (a : Opnd) (j1 : Bool) (i : BitVec 21) (len : BitVec 8) (s : State),
    let ag := s.agent
    let target := (((ag.pc : Int) + 8 * i.toInt) % 2 ^ 48).toNat
    let neg : Bool := match a with
      | .imm i => i.msb
      | _ => false
    let n := if ag.guardU h.g then s.uval .int a else 0
    let stop := (ag.pc + 8 * (len.toNat + 1)) % 2 ^ 48
    let nest : Prop := ag.loops.length < 3 ∧ ∀ x, ag.loops.getLast? = some x → stop < x.stop
    let need : Need := { needX true [plain a] with badE := neg }
    let ok := s.agent.firstFault s.mayPriv need true = none ∧ s.frameFault need.srcs = none
    let opened : Agent := { ag with loops := ag.loops ++ [{ start := s.npc, stop := stop }], lc := aset ag.lc ag.loops.length n }
    s.runsX (.ldj h j1 i) h (needX true) none (fun t => t = if j1 then { ag with j1 := target } else { ag with j0 := target }) ∧
    s.stopped (.loop h a len) need true ∧
    (ok → ag.loops.length ≤ 3 → ¬nest → exec (.loop h a len) s = .next (s.raise (ag.flt 0x0A))) ∧
    (ok → nest → n = 0 → ag.nasBad h.nas ((stop + 8) % 2 ^ 48) = none →
      ∃ t, exec (.loop h a len) s = .next t ∧ IssuedTo s t h.nas ((stop + 8) % 2 ^ 48) ag) ∧
    (ok → nest → n ≠ 0 → opened.nasBad h.nas s.npc = none → ∃ t, exec (.loop h a len) s = .next t ∧ Issued s t h.nas opened)

/-- WAITOP (R71, R408), after which no destination in its mask is pending, and XFENCE and FENCE, which hold issue while words in flight are in
their way and complete once there are none
(R181, R182, R320, R412); an unanswered mirrored write holds a fence of the module or wider (R136). -/
def Sys2Proof.Machine.waitWordsSays : Prop :=
  ∀ (h : Head) (m : BitVec 8) (p q : Path) (k : FenceKind) (sc : Scope) (s : State),
    let ag := s.agent
    let busy := ∃ i < 8, m.getLsbD i = true ∧ s.agent.cbmOf i ≠ fullMask
    let onP (f : Inflight) : Bool := !f.finished && onPath p f.instr
    let onV (f : Inflight) : Bool := !(sc == .warp) && !f.finished && fenced k f.instr
    let wide := wideScope sc && !(k == .acq)
    (ag.guardU h.g = true → s.passes h.nas (needX true) true → busy → s.mirrorFlt (inMask m) = none → s.holds (.waitop h m) (.slots m)) ∧
    (ag.guardU h.g = true → s.passes h.nas (needX true) true → ¬busy → ∃ t ag', exec (.waitop h m) s = .next t ∧ Issued s t h.nas ag' ∧
      ag' = { ag with inflight := ag'.inflight } ∧
      ∀ f, f ∈ ag'.inflight ↔ ∃ g ∈ ag.inflight, ¬(g.finished = true ∧ g.pwNo = 0 ∧ m.getLsbD g.slot = true) ∧
        f = if g.finished = true ∧ m.getLsbD g.slot = true then { g with dests := [] } else g) ∧
    (ag.guardU h.g = true → s.passes h.nas needX true → (∀ f ∈ ag.inflight, onP f = false ∨ 8 ≤ f.slot) →
      ∃ t, exec (.xfence h p q sc) s = .next t ∧ Issued s t h.nas ag) ∧
    (ag.guardU h.g = true → s.passes h.nas needX true → (∀ f ∈ ag.inflight, onV f = false ∨ 8 ≤ f.slot) →
      (wide = true → ∀ x ∈ s.mirrors, x.ag ≠ ag.id ∨ x.copy ≠ none) → ∃ t, exec (.fence h k sc) s = .next t ∧ Issued s t h.nas ag) ∧
    (ag.guardU h.g = true → s.passes h.nas needX true → ∀ w : BitVec 8, w ≠ 0 →
      ((∀ i < 8, w.getLsbD i = true ↔ ∃ f ∈ ag.inflight, f.slot = i ∧ onP f = true) → s.mirrorFlt (inMask w) = none →
        s.holds (.xfence h p q sc) (.slots w)) ∧
      ((∀ i < 8, w.getLsbD i = true ↔ ∃ f ∈ ag.inflight, f.slot = i ∧ onV f = true) → (wide = true → s.mirrorBad = none) →
        s.holds (.fence h k sc) (.slots w))) ∧
    (ag.guardU h.g = true → s.passes h.nas needX true → (∀ f ∈ ag.inflight, onV f = false ∨ 8 ≤ f.slot) → wide = true →
      (s.mirrorBad = none → (∃ x ∈ s.mirrors, x.ag = ag.id ∧ x.copy = none) → s.holds (.fence h k sc) .mirror) ∧
      ∀ f, s.mirrorBad = some f → exec (.fence h k sc) s = .next (s.raise f))

/-- TIME, SLEEPAT, TRIG and TRACE (R207, R277-R279, R385, R390, R395, R398). -/
def Sys2Proof.Machine.timeWordsSays : Prop :=
  ∀ (h : Head) (d a b : Opnd) (s : State),
    let ag := s.agent
    let code := (s.uval .int b).toNat
    let til := ag.pairOf a
    s.runsX (.time h d) h { needX with dst := some d, dn := 2, dal := 2 } none
      (fun t => t = { ag with k := t.k } ∧ ∀ n, t.kreg n =
        if (∃ i, d = .k i ∧ i.val = n) then BitVec.ofNat 32 s.time
        else if (∃ i, d = .k i ∧ i.val + 1 = n) then BitVec.ofNat 32 (s.time / 2 ^ 32) else ag.kreg n) ∧
    (til ≤ s.time → s.runsX (.sleepat h a) h (needX false [{ o := a, n := 2, al := 2 }]) none (fun t => t = ag)) ∧
    (s.time < til → ag.guardU h.g = true → s.passes h.nas (needX false [{ o := a, n := 2, al := 2 }]) true →
      s.holds (.sleepat h a) (.sleep til)) ∧
    s.runsS (.trace h a b) h (needX false [{ o := a, n := 2, al := 2 }, plain b]) (if 127 < code then some (ag.flt 0x0E) else none)
      (s.trace ag.ctx { kind := 1, die := ag.die, source := ag.core, code := code, wid := ag.wid.toNat, arg := 0, payload := til }) ∧
    s.runsS (.trig h) h needX none
      (if ag.trig.isSome then s
       else (s.me (fun x => { x with trig := some { no := s.handles, clock := x.lclk } })).updLaunch ag.launch
         (fun l => { l with triggered := setIn l.triggered ag.wid.toNat true }))

/-- WAITOP and the fences; TIME, SLEEPAT, TRACE and their kin. -/
def Obligations.WaitsAndTime : Prop := waitWordsSays ∧ timeWordsSays

/-! ## Memory words -/

/-- A long-latency memory word, with its data operand, and whether it loads a weight for a pair and refuses an overflowed affine
address. -/
structure Sys2Proof.Machine.MemRow where
  i : Instr
  d : Option Opnd
  a : Opnd
  b : Opnd
  pw : Bool := false
  chk : Bool := false

/-- The memory words. -/
def Sys2Proof.Machine.memoryRows (h : LHead) (d a b : Opnd) (spc : Space) (ty : MemType) (op : AtomOp) (buf : BufName)
    (pw nc chk scr wide : Bool) : List MemRow :=
  [⟨.ldV h d a b spc ty pw nc chk, some d, a, b, pw, chk⟩, ⟨.ldU h d a b spc ty pw nc chk, some d, a, b, pw, chk⟩,
   ⟨.stV h d a b spc ty nc chk, some d, a, b, false, chk⟩, ⟨.stU h d a b spc ty nc chk, some d, a, b, false, chk⟩,
   ⟨.atomV h d a b scr op wide chk, some d, a, b, false, chk⟩, ⟨.atomU h d a b scr op wide chk, some d, a, b, false, chk⟩,
   ⟨.redV h d a b scr op wide chk, some d, a, b, false, chk⟩, ⟨.redU h d a b scr op wide chk, some d, a, b, false, chk⟩,
   ⟨.pftV h a b spc ty nc chk, none, a, b, false, chk⟩, ⟨.pftU h a b spc ty nc chk, none, a, b, false, chk⟩,
   ⟨.bld h d a buf ty, some d, a, a, false, false⟩, ⟨.bst h d a buf ty, some d, a, a, false, false⟩]

/-- The issue of a memory word (R38, R69, R119, R120, R239, R253): it goes in flight with the values that its operands supply in every
thread; an overflowed affine address sets AOV or, under .chk, raises 0x04; a pair-weight load takes the warp's next number. One that executes in
no thread, with one
of its partner's that executes in none, is over at once, its destinations still pending under LA = 15 (R69): different words have diverged
(R239). A varying word takes its threads through a track (R46, R276). -/
def Sys2Proof.Machine.memoryIssueSays : Prop :=
  ∀ (h : LHead) (d a b : Opnd) (spc : Space) (ty : MemType) (op : AtomOp) (buf : BufName) (pw nc chk scr wide : Bool) (s : State),
    ∀ r ∈ memoryRows h d a b spc ty op buf pw nc chk scr wide, ∃ m, memOp r.i = some m ∧
      let ag := s.agent
      let n := (m.need r.d r.a r.b).guarded h.g
      let e := if m.unif then fullMask else ag.execSet h.g
      let o := ag.oSet r.a && e != 0
      let pair := r.pw && (s.partner ag).isSome
      let glob := m.buf.isNone && m.spc == .g
      let lanes (x : Opnd) : List Word := (List.range 32).map (fun t => s.lane .int x t)
      let data := (List.range m.data.1).map (fun j => runReg (r.d.getD r.a) j)
      let datum (x : Opnd) : List Word := (List.range 32).map (fun t => s.lane (if m.atom = some .fadd then .float .fp32 else .int) x t)
      let f : Inflight :=
        { s.inflight0 h.slot.val h.la.val r.i with
          e := e, base := if glob then BitVec.ofNat 64 (ag.pairOf r.b) else 0, av := lanes r.a, bv := if glob then lanes r.b else []
          dv := data.map datum, pa := ag.poisonOf r.a, pd := s.poisons data
          dests := match r.d with
            | some d => regRun d m.dests
            | none => []
          pwNo := if pair then ag.pwCount + 1 else 0, aux := ag.lclk }
      let was : State :=
        { (if m.unif then s else s.tracked e) with agent := { ag with wst := if o then ag.wst ||| 4 else ag.wst, pwCount := if pair then ag.pwCount + 1 else ag.pwCount } }
      s.runsL r.i h n (!m.unif || ag.guardU h.g) (if r.chk && o then some (ag.flt 0x04) else none)
        (if e = 0 ∧ pair = true then
          let u := was.me (fun x => { x with cbm := aset x.cbm h.slot.val fullMask, inflight := x.inflight ++
            [{ f with finished := true, no := s.handles, dests := if h.la.val = 15 then f.dests else [] }] })
          match (s.partner ag).bind (fun p => (p.inflight.find? (fun g => g.pwNo == f.pwNo && g.finished)).map (fun g => (p.id, g.pc))) with
          | none => u
          | some (p, pc) =>
            let met (x : Agent) : Agent := { x with
              wst := if pc = ag.pc then x.wst else x.wst ||| 2
              inflight := (x.inflight.map (fun g => if g.pwNo = f.pwNo then { g with alone := true, pwNo := 0 } else g)).filter
                (fun g => !(g.finished && g.pwNo == 0 && !(g.la == 15 && !g.dests.isEmpty))) }
            (u.me met).upd p met
        else was.flown f)

/-- VPERM (R53, R404): it goes in flight with a snapshot of A and B. -/
def Sys2Proof.Machine.permuteIssueSays : Prop :=
  ∀ (h : LHead) (d a b : Opnd) (s : State),
    let lanes (x : Opnd) : List Word := (List.range 32).map (fun t => s.lane .int x t)
    s.runsL (.vperm h d a b) h ((vpermNeed d a b).guarded h.g) true none
      ((s.tracked (s.agent.execSet h.g)).flown { s.inflight0 h.slot.val h.la.val (.vperm h d a b) with
        e := s.agent.execSet h.g, av := lanes a, bv := lanes b, pa := s.agent.poisonOf a, pb := s.agent.poisonOf b, dests := regRun d 1 })

/-- Memory words and VPERM at issue. -/
def Obligations.MemoryAndPermuteIssue : Prop := memoryIssueSays ∧ permuteIssueSays

/-- What a memory word touches in thread `t` (R119, R120, R124, R126): the address of each space, and the cause of an address that
cannot be used. -/
def Obligations.ThreadAddress : Prop :=
  ∀ (ag : Agent) (m : MemOp) (base : Nat) (off : Word) (t : Nat),
    let n := tySize m.ty
    let go (r : Except Nat Target) (a : Nat) : Prop := ag.target m base off t = (r, a)
    let va := (((base : Int) + off.toInt) % 2 ^ 64).toNat
    let o := off.toNat
    let pv := ag.privBase + 512 * (o / 16) + 16 * t + o % 16
    (∀ z, m.buf = some z → go (if o % n = 0 then .ok (.buf z o) else .error 0x09) o) ∧
    (m.buf = none → m.spc = .s → go (if o % n = 0 then .ok (.scr o) else .error 0x09) o) ∧
    (m.buf = none → m.spc = .g → 2 ^ 56 ≤ va → go (.error 0x08) va) ∧
    (m.buf = none → m.spc = .g → va < 2 ^ 56 → m.pft = false → va % n ≠ 0 → go (.error 0x09) va) ∧
    (m.buf = none → m.spc = .g → va < 2 ^ 56 → (m.pft = true ∨ va % n = 0) → go (.ok (.glob va false)) va) ∧
    (m.buf = none → m.spc = .p → m.pft = false → o % n ≠ 0 → go (.error 0x09) pv) ∧
    (m.buf = none → m.spc = .p → (m.pft = true ∨ o % n = 0) → 2048 * 2 ^ ag.pw < o + n → go (.error 0x08) pv) ∧
    (m.buf = none → m.spc = .p → (m.pft = true ∨ o % n = 0) → o + n ≤ 2048 * 2 ^ ag.pw → ag.phwm.toNat < o + n →
      go (.error 0x10) pv) ∧
    (m.buf = none → m.spc = .p → (m.pft = true ∨ o % n = 0) → o + n ≤ 2048 * 2 ^ ag.pw → o + n ≤ ag.phwm.toNat →
      go (.ok (.glob pv true)) pv)

/-- Thread `t` of a memory word in a slot of agent `id` is to act: its bit is clear and it has not faulted. -/
structure Sys2Proof.Machine.Acts (s : State) (id slot t : Nat) (ag : Agent) (f : Inflight) (m : MemOp) : Prop where
  agent : s.agentOf id = some ag
  flight : ag.inSlot slot = some f
  op : memOp f.instr = some m
  clear : mbit (ag.cbmOf slot) t = false
  free : mbit f.fmask t = false
  thread : t < 32
  dests : f.dests.Nodup

/-- The place of an access of `n` bytes that agent `ag` can make at once: in global memory the page `x` that its tables give, with no
row request pending in a SWEPT row; in scratch or a typed buffer, bytes within the allocation (R123, R125, R134, R155). -/
def Sys2Proof.Machine.State.reachable (s : State) (ag : Agent) (acc : Acc) (tg : Target) (n : Nat) (x : Xl) : Prop :=
  match tg with
  | .glob va _ => s.translate ag.ctx ag.die va acc = .ok x ∧ x.place ≠ .remote ∧
      ∀ d, x.place = .stack d → x.leaf.swept = true → s.reqsOn d (rowOf x.pa).2.1 (rowOf x.pa).2.2 = []
  | .scr off => off + n ≤ (s.scratch ag.scratch).size
  | .buf b off => off + n ≤ (s.bufsOf ag.launch ag.die ag.core).size b ∧ (acc = .write ∨ b ≠ .w)

/-- The byte `i` of a place. -/
def Sys2Proof.Machine.State.byteAt (s : State) (ag : Agent) (tg : Target) (x : Xl) (i : Nat) : Byte :=
  match tg with
  | .glob .. => Memory.get s.mem (x.pa + i)
  | .scr off => Memory.get (s.scratch ag.scratch).bytes (off + i)
  | .buf b off => Memory.get ((s.bufsOf ag.launch ag.die ag.core).mem b) (off + i)

/-- Some of the `n` bytes at `a` lie in a poisoned unit of 32 bytes. -/
def Sys2Proof.Machine.meets (l : List Nat) (a n : Nat) : Prop := ∃ c ∈ l, a < 32 * c + 32 ∧ 32 * c < a + n

/-- Some of the `n` bytes of a place are poisoned (R139, R235). -/
def Sys2Proof.Machine.State.badAt (s : State) (ag : Agent) (tg : Target) (x : Xl) (n : Nat) : Prop :=
  match tg with
  | .glob .. => meets s.memPoison x.pa n
  | .scr off => meets (s.scratch ag.scratch).poison off n
  | .buf b off => meets ((s.bufsOf ag.launch ag.die ag.core).pois b) off n

/-- A list of poisoned units after a write of the `n` bytes at `a`: poisoned, it poisons every unit that it meets; clean, it clears
those that it covers, and with `joint` the one that it lies in. -/
def Sys2Proof.Machine.Marked (l l' : List Nat) (a n : Nat) (poison joint : Prop) : Prop :=
  ∀ c, c ∈ l' ↔ (poison ∧ a < 32 * c + 32 ∧ 32 * c < a + n) ∨
    (c ∈ l ∧ (poison ∨ ¬(a ≤ 32 * c ∧ 32 * c + 32 ≤ a + n)) ∧ ¬(joint ∧ c = a / 32))

/-- Bytes stored by agent `ag` at a place (R4, R123, R125, R127, R136, R139, R272, R282, R306): these bytes and no others, but that a
write to a page with DT sets D in the descriptor that its table holds; the page is dirty on its die; a mirrored write goes to the buddy
and waits for it, in vain where the Evofisal port of the context's die is disabled (the model's choice; log 60); a typed buffer's granules
become RAW. -/
def Sys2Proof.Machine.Stored (s u : State) (ag : Agent) (tg : Target) (x : Xl) (n : Nat) (byte : Nat → Byte) (poison joint : Prop) : Prop :=
  match tg with
  | .glob va _ =>
    let now (a : Nat) : Byte := if x.pa ≤ a ∧ a < x.pa + n then byte (a - x.pa) else Memory.get s.mem a
    let at_ := x.leaf.at_
    let leaf := leNat ((List.range 8).map (fun i => now (at_ + i)))
    let first : Prop := bit x.leaf.desc 7 = true ∧ at_ ≠ 0 ∧ bit at_ 51 = false ∧ bit leaf 0 = true ∧ bit leaf 1 = true ∧ bit leaf 7 = true ∧ bit leaf 9 = false
    u = { s with agent := u.agent, others := u.others, ctxs := u.ctxs, mem := u.mem, memPoison := u.memPoison, dies := u.dies
                 mirrors := u.mirrors, handles := u.handles, remoteWrites := u.remoteWrites } ∧
    (∃ l, u.remoteWrites = l ++ s.remoteWrites ∧ ∀ w ∈ l, bit at_ 51 = true ∧ at_ ≤ w.1 ∧ w.1 < at_ + 8) ∧
    (∀ a, (first → at_ ≤ a → a < at_ + 8 → Memory.get u.mem a = BitVec.ofNat 8 ((leaf + 2 ^ 9) / 256 ^ (a - at_))) ∧
      (¬(first ∧ at_ ≤ a ∧ a < at_ + 8) → Memory.get u.mem a = now a)) ∧
    Marked s.memPoison u.memPoison x.pa n poison joint ∧
    (∀ d p, p ∈ (u.die d).dirty ↔ p ∈ (s.die d).dirty ∨ (bit x.leaf.desc 7 = true ∧ x.place = .stack d ∧ p = fld x.pa 16 20)) ∧
    (∀ d, u.die d = { s.die d with dirty := (u.die d).dirty }) ∧
    u.mirrors = s.mirrors ++
      (if bit x.leaf.desc 6 then
        [{ id := s.handles, ag := ag.id, va := va, copy := none, module := (s.ctx ag.ctx).desc.mid
           failed := !(s.die (s.ctx ag.ctx).die).bezel.link.getLsbD 0
           buddy := (va + (s.ctx ag.ctx).desc.moff.toNat) % 2 ^ 64, bytes := (List.range n).map byte }]
       else [])
  | .scr off =>
    u = { s with agent := u.agent, others := u.others, ctxs := u.ctxs, scratches := u.scratches } ∧
    (∀ i, i ≠ ag.scratch → u.scratch i = s.scratch i) ∧ (u.scratch ag.scratch).size = (s.scratch ag.scratch).size ∧
    (∀ a, Memory.get (u.scratch ag.scratch).bytes a =
      if off ≤ a ∧ a < off + n then byte (a - off) else Memory.get (s.scratch ag.scratch).bytes a) ∧
    Marked (s.scratch ag.scratch).poison (u.scratch ag.scratch).poison off n poison joint
  | .buf b off =>
    let w := s.bufsOf ag.launch ag.die ag.core
    let v := u.bufsOf ag.launch ag.die ag.core
    u = { s with agent := u.agent, others := u.others, ctxs := u.ctxs, bufs := u.bufs } ∧
    (∀ l d c, ¬(l = ag.launch ∧ d = ag.die ∧ c = ag.core) → u.bufsOf l d c = s.bufsOf l d c) ∧
    (∀ b' a, Memory.get (v.mem b') a = if b' = b ∧ off ≤ a ∧ a < off + n then byte (a - off) else Memory.get (w.mem b') a) ∧
    (∀ b', b' ≠ b → v.pois b' = w.pois b') ∧ Marked (w.pois b) (v.pois b) off n poison joint ∧
    ∀ b' g, v.tag b' g = if b' = b ∧ off < 1024 * g + 1024 ∧ 1024 * g < off + n then none else w.tag b' g

/-- Register `j` of a value of a type, from its bytes, lowest first (R4, R120). -/
def Sys2Proof.Machine.loadedWord (ty : MemType) (byte : Nat → Byte) (j : Nat) : Word :=
  match ty with
  | .u8 => (byte 0).setWidth 32
  | .s8 => (byte 0).signExtend 32
  | .u16 => (byte 1 ++ byte 0).setWidth 32
  | .s16 => (byte 1 ++ byte 0).signExtend 32
  | _ => byte (4 * j + 3) ++ byte (4 * j + 2) ++ byte (4 * j + 1) ++ byte (4 * j)

/-- Thread `t` of word `f` has acted in agent `id`, which was `was` before (R54, R70, R121): destination `j` has `value j` there, with
its poison; its bit of the slot is set, every bit for a uniform word; the next thread starts with no element of it done; nothing else of the
agent changes but a poison report where `rep`. No other agent changes. -/
def Sys2Proof.Machine.Acted (s u : State) (id slot : Nat) (was : Agent) (f : Inflight) (unif : Bool) (t addr : Nat) (value : Nat → Word)
    (n : Nat) (pois rep : Prop) : Prop :=
  let at_ (r : Reg) (j : Nat) : Prop := f.dests[j]? = some r ∧ j < n
  (∀ j, j ≠ id → u.agentOf j = s.agentOf j) ∧ ∃ ag, u.agentOf id = some ag ∧
  (∃ mid : Agent, mid = { was with
      v := mid.v, k := mid.k, p := mid.p, cbm := mid.cbm
      inflight := was.inflight.map (fun g =>
        if f.part ≠ 0 ∧ g.slot = slot ∧ g.finished = false then { g with part := 0, got := [], page := none } else g) } ∧
    (rep → ag = mid.reportPoison (if unif then fullMask else oneMask t) addr f.pc f.hnd f.no) ∧ (¬rep → ag = mid)) ∧
  (∀ i j, at_ (.v i) j → (ag.vreg i).tag = .g ∧ (ag.vreg i).lane t = value j ∧ (mbit (ag.vreg i).poison t = true ↔ pois) ∧
    ∀ w < 32, w ≠ t → (ag.vreg i).lane w = (was.vreg i).lane w ∧ mbit (ag.vreg i).poison w = mbit (was.vreg i).poison w) ∧
  (∀ i, (∀ j, ¬at_ (.v i) j) → ag.vreg i = was.vreg i) ∧
  (∀ i, (∀ j, at_ (.k i) j → ag.kreg i = value j) ∧ ((∀ j, ¬at_ (.k i) j) → ag.kreg i = was.kreg i)) ∧
  (∀ i, ∀ w < 32, (∀ j, at_ (.p i) j → w = t → mbit (ag.preg i) w = (value j).getLsbD 0) ∧
    ((∀ j, ¬(at_ (.p i) j ∧ w = t)) → mbit (ag.preg i) w = mbit (was.preg i) w)) ∧
  ∀ i, ag.cbmOf i = if i = slot then (if unif then fullMask else was.cbmOf i ||| oneMask t) else was.cbmOf i

/-- Thread `t` of word `f` has failed a check in agent `id` (R121, R248, R261): it is among the word's faulted threads, the lowest of
them giving cause and address; registers, bitmaps, memory and other agents are as they were. A missing page is outstanding on the die
(R138), a denial is counted (R276). -/
def Sys2Proof.Machine.Failed (s u : State) (id slot : Nat) (was : Agent) (f : Inflight) (unif : Bool) (t cause addr : Nat) : Prop :=
  u = { s with agent := u.agent, others := u.others, ctxs := u.ctxs, dies := u.dies } ∧ (∀ j, j ≠ id → u.agentOf j = s.agentOf j) ∧
  (cause ≠ 0x07 → u.dies = s.dies) ∧ (cause = 0x07 → (was.ctx, addr / 2 ^ 16) ∈ (u.die was.die).faults) ∧
  (cause ≠ 0x1C → u.ctxs = s.ctxs) ∧
  (cause = 0x1C → ∀ c, u.ctx c = if c = was.ctx then
    { s.ctx c with counters := aset (s.ctx c).counters 13 (aget (s.ctx c).counters 0 13 + 1) } else s.ctx c) ∧
  ∃ ag g, u.agentOf id = some ag ∧ ag = { was with inflight := ag.inflight } ∧ ag.inSlot slot = some g ∧
    g = { f with fmask := if unif then fullMask else f.fmask ||| oneMask t
                 ecause := if ∀ w ≤ t, mbit f.fmask w = false then cause else f.ecause
                 eaddr := if ∀ w ≤ t, mbit f.fmask w = false then addr else f.eaddr }

/-- A thread of a load (R54, R120, R121, R139, R348): it takes its value from the bytes at its address, with their poison, which in a
uniform load is cause 0x17; memory is as it was. -/
def Sys2Proof.Machine.threadLoadsSays : Prop :=
  ∀ (s : State) (id slot t : Nat) (ag : Agent) (f : Inflight) (m : MemOp) (tg : Target) (addr : Nat) (x : Xl),
    Acts s id slot t ag f m → m.load = true → m.atom = none → m.pft = false → m.store = false → s.isDet ag = false →
    mbit f.pa t = false → ag.target m f.base.toNat (f.av.getD t 0) t = (.ok tg, addr) →
    s.reachable ag .read tg (tySize m.ty) x → f.got = [] →
    let pois := s.badAt ag tg x (tySize m.ty)
    (¬(m.unif = true ∧ pois) → ∃ u, s.threadStep id slot m t m.elements = some u ∧
      Acted s u id slot ag f m.unif t addr (loadedWord m.ty (s.byteAt ag tg x)) (tyCount m.ty) pois False ∧
      u = { s with agent := u.agent, others := u.others, ctxs := u.ctxs }) ∧
    (m.unif = true ∧ pois → ag.kind = .warp → ∃ u, s.threadStep id slot m t m.elements = some u ∧
      Failed s u id slot ag f m.unif t 0x17 addr)

/-- The threads of a store that have acted, with thread `t`, cover the unit of 32 bytes around an address, all with clean data (R139,
R235, R268). That the threads of one store clear a unit's poison together is the model's reading of R139 (log 54). -/
def Sys2Proof.Machine.Covered (ag : Agent) (f : Inflight) (m : MemOp) (slot t addr : Nat) : Prop :=
  let n := tySize m.ty
  let acts (w a : Nat) : Prop := w < 32 ∧ f.e.getLsbD w = true ∧ (w = t ∨ mbit (ag.cbmOf slot) w = true) ∧ mbit f.pa w = false ∧
    ∃ tg b, ag.target m f.base.toNat (f.av.getD w 0) w = (.ok tg, b) ∧ tg.addr = a
  (∀ w a, acts w a → a < addr / 32 * 32 + 32 → addr / 32 * 32 < a + n → mbit f.pd w = false) ∧
    ∀ i < 32, ∃ w a, acts w a ∧ a ≤ addr / 32 * 32 + i ∧ addr / 32 * 32 + i < a + n

/-- A thread of a store (R54, R120, R121, R139, R268, R386): its data registers' bytes, lowest first, at its address; poisoned data make
a poisoned write that is reported; clean data that the threads together give a whole codeword clear its poison (log 54). -/
def Sys2Proof.Machine.threadStoresSays : Prop :=
  ∀ (s : State) (id slot t : Nat) (ag : Agent) (f : Inflight) (m : MemOp) (tg : Target) (addr : Nat) (x : Xl),
    Acts s id slot t ag f m → m.store = true → m.load = false → m.atom = none → m.pft = false → s.isDet ag = false →
    mbit f.pa t = false → ag.target m f.base.toNat (f.av.getD t 0) t = (.ok tg, addr) →
    s.reachable ag .write tg (tySize m.ty) x → f.part = 0 → f.page = none →
    ∃ u, s.threadStep id slot m t m.elements = some u ∧
      Acted s u id slot ag f m.unif t addr (fun _ => 0) 0 False (mbit f.pd t = true) ∧
      Stored s u ag tg x (tySize m.ty) (fun i => (f.data (i / 4) t).extractLsb' (8 * (i % 4)) 8) (mbit f.pd t = true)
        (Covered ag f m slot t tg.addr)

/-- A store of several elements to memory that is not SWEPT, to scratch or to a typed buffer may be seen half done (R168): up to element
`j` of it, one more of its elements is written, and the word remembers which, and the page that it has reached, where its other elements go.
Which elements a store writes apart is the model's choice (log 53). -/
def Sys2Proof.Machine.threadPartsSays : Prop :=
  ∀ (s : State) (id slot t j : Nat) (ag : Agent) (f : Inflight) (m : MemOp) (tg : Target) (addr : Nat) (x : Xl),
    Acts s id slot t ag f m → m.store = true → m.load = false → m.atom = none → m.pft = false → s.isDet ag = false →
    mbit f.pa t = false → ag.target m f.base.toNat (f.av.getD t 0) t = (.ok tg, addr) →
    s.reachable ag .write tg (tySize m.ty) x → (∀ va p, tg = .glob va p → x.leaf.swept = false ∧ bit x.leaf.desc 4 = false) →
    j < m.elements → popcount 4 f.part.toNat < j → (∃ i < m.elements, f.part.getLsbD i = false) → f.page = none →
    ∃ u i ag' g, s.threadStep id slot m t j = some u ∧ i < m.elements ∧ f.part.getLsbD i = false ∧
      Stored s u ag (tg.plus (4 * i)) { x with pa := x.pa + 4 * i } 4
        (fun k => (f.data i t).extractLsb' (8 * k) 8) (mbit f.pd t = true) False ∧
      u.agentOf id = some ag' ∧ ag' = { ag with inflight := ag'.inflight } ∧ ag'.inSlot slot = some g ∧
      g = { f with part := g.part, page := g.page } ∧ (∀ k < 4, g.part.getLsbD k = (f.part.getLsbD k || k == i)) ∧
      g.page = match tg with
        | .glob va _ => some { page := va / 2 ^ 16, desc := BitVec.ofNat 64 x.leaf.desc, level := x.leaf.level }
        | _ => none

/-- A load of several elements from a typed buffer may read them one after another (R183): up to element `j` of it, one more of them is read
and kept, memory as it was; at its end the thread takes those kept and the others as they are then. That a load from memory or scratch is
one snapshot instead is R54's and R349's; which elements are read apart is the model's choice (log 53). -/
def Sys2Proof.Machine.threadReadsSays : Prop :=
  ∀ (s : State) (id slot t j : Nat) (ag : Agent) (f : Inflight) (m : MemOp) (b : BufName) (o addr : Nat) (x : Xl),
    Acts s id slot t ag f m → m.load = true → m.store = false → m.atom = none → m.pft = false → m.buf = some b → b ≠ .w →
    (m.ty = .b64 ∨ m.ty = .b128) → s.isDet ag = false → mbit f.pa t = false →
    ag.target m f.base.toNat (f.av.getD t 0) t = (.ok (.buf b o), addr) → s.reachable ag .read (.buf b o) (tySize m.ty) x →
    let at_ (i k : Nat) : Byte := s.byteAt ag (.buf b (o + 4 * i)) x k
    let bad (i : Nat) : Prop := s.badAt ag (.buf b (o + 4 * i)) x 4
    (j < m.elements → popcount 4 f.part.toNat < j → (∃ i < m.elements, f.part.getLsbD i = false) →
      ∃ u i ag' g bs q, s.threadStep id slot m t j = some u ∧ u = { s with agent := u.agent, others := u.others, ctxs := u.ctxs } ∧
        i < m.elements ∧ f.part.getLsbD i = false ∧ u.agentOf id = some ag' ∧ ag' = { ag with inflight := ag'.inflight } ∧
        ag'.inSlot slot = some g ∧ g = { f with part := g.part, got := (i, bs, q) :: f.got } ∧ bs = (List.range 4).map (at_ i) ∧
        (q = true ↔ bad i) ∧ ∀ k < 4, g.part.getLsbD k = (f.part.getLsbD k || k == i)) ∧
    ((∀ e ∈ f.got, e.2.1.length = 4) →
      let byte (k : Nat) : Byte := match aget? f.got (k / 4) with
        | some e => e.1.getD (k % 4) 0
        | none => at_ (k / 4) (k % 4)
      let pois : Prop := ∃ i < m.elements, match aget? f.got i with
        | some e => e.2 = true
        | none => bad i
      (¬(m.unif = true ∧ pois) → ∃ u, s.threadStep id slot m t m.elements = some u ∧
        Acted s u id slot ag f m.unif t addr (loadedWord m.ty byte) (tyCount m.ty) pois False ∧
        u = { s with agent := u.agent, others := u.others, ctxs := u.ctxs }) ∧
      (m.unif = true ∧ pois → ag.kind = .warp → ∃ u, s.threadStep id slot m t m.elements = some u ∧
        Failed s u id slot ag f m.unif t 0x17 addr))

/-- What a thread of a load or store does. -/
def Sys2Proof.Machine.threadAccessesSays : Prop := threadLoadsSays ∧ threadStoresSays ∧ threadPartsSays ∧ threadReadsSays

/-- What an atomic operation writes, if anything (R299, R300). -/
def Sys2Proof.Machine.atomicNew {n : Nat} (op : AtomOp) (o : Origin) (old d e : BitVec n) : Option (BitVec n) :=
  match op with
  | .add => some (old + d)
  | .and => some (old &&& d)
  | .or => some (old ||| d)
  | .xor => some (old ^^^ d)
  | .min => some (if d.toInt < old.toInt then d else old)
  | .max => some (if old.toInt < d.toInt then d else old)
  | .umin => some (if d.toNat < old.toNat then d else old)
  | .umax => some (if old.toNat < d.toNat then d else old)
  | .exch => some d
  | .cas => if old = d then some e else none
  | .fadd => some (BitVec.ofNat n (Fmt.fp32.add .rne o old.toNat d.toNat))

/-- A thread of ATOM or RED (R299, R300, R380): one read-modify-write of the word or double word at its address; ATOM gives its old
value. Poison there is not overwritten; in a uniform ATOM it is cause 0x17. -/
def Sys2Proof.Machine.threadAtomicsSays : Prop :=
  ∀ (s : State) (id slot t : Nat) (ag : Agent) (f : Inflight) (m : MemOp) (op : AtomOp) (tg : Target) (addr : Nat) (x : Xl),
    Acts s id slot t ag f m → m.atom = some op → m.buf = none → m.pft = false → s.isDet ag = false → (m.ty = .b32 ∨ m.ty = .b64) →
    mbit f.pa t = false → ag.target m f.base.toNat (f.av.getD t 0) t = (.ok tg, addr) →
    s.reachable ag .both tg (tySize m.ty) x →
    let n := tySize m.ty
    let wide := m.ty == .b64
    let pois := s.badAt ag tg x n
    let byte := s.byteAt ag tg x
    let num (g : Nat → Word) : Nat := if wide then (g 0).toNat + 2 ^ 32 * (g 1).toNat else (g 0).toNat
    let old := num (loadedWord m.ty byte)
    let d (j : Nat) : Nat := if wide then num (fun i => f.data (2 * j + i) t) else (f.data j t).toNat
    let new := atomicNew (n := 8 * n) op ⟨!m.unif, t, f.pc⟩ (BitVec.ofNat _ old) (BitVec.ofNat _ (d 0)) (BitVec.ofNat _ (d 1))
    let acted (u : State) : Prop := Acted s u id slot ag f m.unif t addr (loadedWord m.ty byte) (if m.red then 0 else tyCount m.ty)
      pois (mbit f.pd t = true)
    (m.unif = true ∧ pois ∧ m.red = false → ag.kind = .warp → ∃ u, s.threadStep id slot m t m.elements = some u ∧
      Failed s u id slot ag f m.unif t 0x17 addr) ∧
    (¬(m.unif = true ∧ m.red = false) → pois → ∃ u, s.threadStep id slot m t m.elements = some u ∧ acted u ∧
      u = { s with agent := u.agent, others := u.others, ctxs := u.ctxs }) ∧
    (¬pois → new = none → ∃ u, s.threadStep id slot m t m.elements = some u ∧ acted u ∧
      u = { s with agent := u.agent, others := u.others, ctxs := u.ctxs }) ∧
    (¬pois → ∀ v, new = some v → ∃ u, s.threadStep id slot m t m.elements = some u ∧ acted u ∧
      Stored s u ag tg x n (fun i => v.extractLsb' (8 * i) 8) (mbit f.pd t = true) False)

/-- What a thread of a load, a store or an atomic does. -/
def Obligations.ThreadAccess : Prop := threadAccessesSays ∧ threadAtomicsSays

/-- A thread of a memory word that makes no access (R121, R123, R125, R126, R134, R138, R139, R268, R372): an address that cannot be used or
reached is the thread's fault, as is one outside the allocation in scratch (0x08) or in a typed buffer (0x13), and a load of the W-buffer;
on a further faulting page it waits while 512 are outstanding; a poisoned address lets it act with no access, its destinations poisoned,
and is reported; a prefetch acts with nothing done. What the poisoned destinations hold is a free value of the model's (log 52). -/
def Obligations.ThreadStops : Prop :=
  ∀ (s : State) (id slot t : Nat) (ag : Agent) (f : Inflight) (m : MemOp),
    Acts s id slot t ag f m →
    let r := ag.target m f.base.toNat (f.av.getD t 0) t
    let acc : Acc := if m.atom.isSome then .both else if m.store then .write else .read
    let step := s.threadStep id slot m t m.elements
    let fails (c : Nat) : Prop := ∃ u, step = some u ∧ Failed s u id slot ag f m.unif t c r.2
    let noW : Prop := ¬(m.load = true ∧ m.buf = some .w)
    (¬noW → ag.kind = .warp → fails 0x13) ∧
    (noW → mbit f.pa t = true → ∃ u, step = some u ∧
      Acted s u id slot ag f m.unif t r.2 (fun j => Config.poisonedValue s.fresh (4 * t + j)) m.dests True (m.pft = false) ∧
        u = { s with agent := u.agent, others := u.others }) ∧
    (noW → mbit f.pa t = false → m.pft = true → ∃ u, step = some u ∧
      Acted s u id slot ag f m.unif t r.2 (fun _ => 0) 0 False False ∧ u = { s with agent := u.agent, others := u.others }) ∧
    (noW → mbit f.pa t = false → m.pft = false → ag.kind = .warp → ∀ c, r.1 = .error c → (c = 0x07 → s.pageWait ag.die ag.ctx r.2 = false) →
      fails c) ∧
    (noW → mbit f.pa t = false → m.pft = false → ag.kind = .warp → s.isDet ag = false → f.page = none → f.got = [] → f.part = 0 → ∀ va p c, r.1 = .ok (.glob va p) →
      s.translate ag.ctx ag.die va acc = .error c →
      ((c = 0x07 → s.pageWait ag.die ag.ctx r.2 = false) → fails c) ∧ (c = 0x07 → s.pageWait ag.die ag.ctx r.2 = true → step = none)) ∧
    (noW → mbit f.pa t = false → m.pft = false → ag.kind = .warp → f.part = 0 → f.got = [] → s.isDet ag = false ∨ m.atom = none →
      (∀ off, r.1 = .ok (.scr off) → (s.scratch ag.scratch).size < off + tySize m.ty → fails 0x08) ∧
      ∀ b off, r.1 = .ok (.buf b off) → (s.bufsOf ag.launch ag.die ag.core).size b < off + tySize m.ty → fails 0x13) ∧
    let out (p : Nat × Nat) : Prop := p ∈ (s.die ag.die).faults ∧ s.pageOpen ag.die p = true
    (s.pageWait ag.die ag.ctx r.2 = true ↔ ¬out (ag.ctx, r.2 / 2 ^ 16) ∧
      512 ≤ ((s.die ag.die).faults.filter (s.pageOpen ag.die)).length)

/-- The threads of a memory word act one after another (R54, R121): each is one act of `threadStep`, and the first that has to wait ends
it; its access joins the order of demand activations, if it is one of those that it waits for (R157). -/
def Sys2Proof.Machine.threadOrderSays : Prop :=
  ∀ (s : State) (id slot t j : Nat) (m : MemOp) (l : List (Nat × Nat)),
    s.threadSteps id slot m [] = s ∧
    (∀ u, s.threadStep id slot m t j = some u → s.threadSteps id slot m ((t, j) :: l) = u.threadSteps id slot m l) ∧
    (s.threadStep id slot m t j = none → ∃ u, s.threadSteps id slot m ((t, j) :: l) = u ∧ u = { s with dies := u.dies } ∧
      ∀ d, u.die d = { s.die d with waits := (u.die d).waits } ∧
        ∀ r, r ∈ (u.die d).waits → r ∉ (s.die d).waits → ∃ ag f va p x, s.agentOf id = some ag ∧ ag.inSlot slot = some f ∧
          (ag.target m f.base.toNat (f.av.getD t 0) t).1 = .ok (.glob va p) ∧ s.translate ag.ctx ag.die va .read = .ok x ∧
          x.place = .stack d ∧ x.leaf.swept = true ∧ r = (rowOf x.pa).2 ∧ s.reqsOn d r.1 r.2 ≠ [])

/-- A word in flight comes about (R53, R54, R70, R239, R249): of a memory word its executed threads act in thread order, each as far as
`upto` has it, which counts four elements for each thread; the slot completes once its bitmap is full, and with it TRET's wait for
replays. Not while an earlier word of path V is in its way, nor for a pair-weight load that has not been matched, nor while the agent is
away or its die's clock is stopped (R22, R264). -/
def Sys2Proof.Machine.slotWordSays : Prop :=
  ∀ (s : State) (id slot upto : Nat) (ag : Agent) (f : Inflight),
    s.agentOf id = some ag → ag.inSlot slot = some f →
    let i : Instr := .slotCompletion id slot upto
    let runs := ag.status ≠ .parked ∧ ag.status ≠ .evicted ∧ (s.ctx ag.ctx).residency = .active ∧ (s.die ag.die).runs = true
    let free := runs ∧ s.headV ag slot = true ∧ (f.pwNo = 0 ∨ f.alone = true)
    ((s.ctx ag.ctx).resident = false ∨ (s.die ag.die).runs = false → exec i s = .next s) ∧
    (∀ m, memOp f.instr = some m → free →
      exec i s = .next (((s.threadSteps id slot m
        (((if m.unif then [0] else (List.range 32).filter (fun t => f.e.getLsbD t)).map (fun t => (t, min (upto - 4 * t) m.elements))).filter
          (fun e => decide (0 < e.2)))).completeFull id slot).endReplay id)) ∧
    (∀ m, memOp f.instr = some m → (s.ctx ag.ctx).resident = true → (s.die ag.die).runs = true → ¬free → exec i s = .next (s.endReplay id)) ∧
    (∀ h d a b, f.instr = .vperm h d a b → runs → f.slot = slot → f.dests = regRun d 1 → (∀ t < 32, f.e.getLsbD t = true → 4 * t < upto) →
      ag.cbmOf slot = ~~~f.e → f.la ≠ 15 → ag.hold = .none → f.pwNo = 0 → f.detached = false →
      (∀ g ∈ ag.inflight, g.slot = slot → g = f) →
      ∃ u ag', exec i s = .next u ∧ u.agentOf id = some ag' ∧ u = { s with agent := u.agent, others := u.others } ∧
        ag'.cbmOf slot = fullMask ∧ ag'.inflight = ag.inflight.filter (fun g => !(g.slot == slot)) ∧
        let src (t : Nat) : Nat := (f.bv.getD t 0).toNat % 32
        ∀ n : Nat, ∀ t < 32, (∀ j, d = .v j → j.val = n → f.e.getLsbD t = true →
            (ag'.vreg n).lane t = f.av.getD (src t) 0 ∧ mbit (ag'.vreg n).poison t = (mbit f.pa (src t) || mbit f.pb t)) ∧
          ((∀ j, d = .v j → j.val = n → f.e.getLsbD t = false) → (ag'.vreg n).lane t = (ag.vreg n).lane t) ∧
          (∀ j, d = .p j → j.val = n → f.e.getLsbD t = true → mbit (ag'.preg n) t = (f.av.getD (src t) 0).getLsbD 0))

/-- What a word in flight does when it comes about. -/
def Obligations.SlotCompletion : Prop := threadOrderSays ∧ slotWordSays

/-! ## Bindings, objects, clasps, mailboxes -/

/-- The k register that an operand names, or k0. -/
def Sys2Proof.Machine.kOf (o : Opnd) : Nat :=
  match o with
  | .k n => n.val
  | _ => 0

/-- BIND and UNBIND (R172-R174, R303, R402). -/
def Sys2Proof.Machine.bindWordsSays : Prop :=
  ∀ (h : Head) (a b : Opnd) (rs os cl all : Bool) (s : State),
    let ag := s.agent
    let k := kOf a
    let base := if rs then (ag.kreg k).toNat else ag.kpair k
    let len := (ag.kreg (k + 2)).toNat
    let obj := if os || cl then (s.uval .int b).toNat else ag.pairOf b
    let which : ObjRef := if cl then .clasp obj else if os then .scratch obj else .global obj
    let meets (x : Binding) : Bool := x.rs == rs && decide (base < x.base + x.len) && decide (x.base < base + len)
    let gone := if rs then (s.uval .int a).toNat else ag.pairOf a
    let hit (x : Binding) : Bool := x.rs == rs && x.base == gone
    s.runsX (.bind h a b rs os cl) h
      { needX false [{ o := a, n := 3, al := 2 }, if os || cl then plain b else pairSrc b] with
        badE := notK a || (!cl && notK b) || (cl && negImm b) }
      (firstOf [(decide (len = 0), ag.flt 0x0E), (base % 4 != 0 || len % 4 != 0, Flt.at 0x09 base), (!cl && obj % 8 != 0, Flt.at 0x09 obj),
        (decide ((if rs then (s.scratch ag.scratch).size else 2 ^ 56) < base + len), Flt.at 0x08 base),
        (decide (64 ≤ ag.binds.length) || ag.binds.any meets || (cl && !ag.inGroup (s.uval .int b)), ag.flt 0x0A)])
      (fun t => t = { ag with binds := ag.binds ++ [{ rs := rs, base := base, len := len, obj := which }] }) ∧
    s.runsX (.unbind h a rs all) h
      { needX false (if all then [] else [pairSrc a]) with
        badE := !all && (match a with
          | .k n => decide (60 < n.val)
          | _ => true) }
      (firstOf [(!all && !ag.binds.any hit, ag.flt 0x0A)])
      (fun t => t = { ag with binds := if all then [] else ag.binds.filter (fun x => !hit x)
                              past := ag.past.filter (fun e => ag.inflight.any (fun f => decide (f.no < e.2))) ++
                                (if all then ag.binds else ag.binds.filter hit).map (fun x => (x, s.handles)) })

/-- The checks of R174 on an object: alignment, its page or allocation, its reserved bits. -/
def Sys2Proof.Machine.objectChecksSays : Prop :=
  ∀ (s : State) (o : Held),
    let ag := s.agent
    (o.addr % 8 ≠ 0 → s.objCheck o = .error (Flt.at 0x09 o.addr)) ∧
    (o.addr % 8 = 0 → o.scr = true → (s.scratch ag.scratch).size < o.addr + 8 → s.objCheck o = .error (Flt.at 0x08 o.addr)) ∧
    (o.addr % 8 = 0 → o.scr = true → o.addr + 8 ≤ (s.scratch ag.scratch).size →
      let w := leNat (Memory.read (s.scratch ag.scratch).bytes o.addr 8)
      s.objCheck o = if w / 2 ^ 32 % 2 ^ 31 = 0 then .ok (.scr ag.scratch o.addr, w) else .error (ag.flt 0x0A)) ∧
    (o.addr % 8 = 0 → o.scr = false → ∀ c, s.translate ag.ctx ag.die o.addr .both = .error c →
      s.objCheck o = .error (Flt.at c o.addr)) ∧
    (o.addr % 8 = 0 → o.scr = false → ∀ x, s.translate ag.ctx ag.die o.addr .both = .ok x →
      let w := leNat (Memory.read s.mem x.pa 8)
      s.objCheck o = if x.leaf.swept then .error (Flt.at 0x08 o.addr)
        else if w / 2 ^ 32 % 2 ^ 31 = 0 then .ok (.mem x.pa, w) else .error (ag.flt 0x0A))

/-- What replacing the word of an object writes: its 8 bytes, lowest first, in scratch or, through the page that its address names, in
memory (R4, R171). -/
def Sys2Proof.Machine.objectStoreSays : Prop :=
  ∀ (s : State) (ag : Agent) (o : Held) (w : Nat),
    let byte (i : Nat) : Byte := BitVec.ofNat 8 (w / 256 ^ i)
    (∀ a off, ∃ u, s.setObj ag o (.scr a off) w = u ∧ u = { s with scratches := u.scratches } ∧
      ∀ i, (u.scratch i).size = (s.scratch i).size ∧ (u.scratch i).poison = (s.scratch i).poison ∧
        ∀ x, Memory.get (u.scratch i).bytes x =
          if i = a ∧ off ≤ x ∧ x < off + 8 then byte (x - off) else Memory.get (s.scratch i).bytes x) ∧
    ∀ pa x, s.translate ag.ctx ag.die o.addr .both = .ok x → x.place ≠ .remote →
      ∃ u, s.setObj ag o (.mem pa) w = u ∧ u.agent = s.agent ∧ u.others = s.others ∧
        Stored s u ag (.glob o.addr false) x 8 byte False False

/-- BIND and UNBIND (R172-R174), and the checks on an object (R174). -/
def Obligations.Bindings : Prop := bindWordsSays ∧ objectChecksSays ∧ objectStoreSays

/-- A thread of a word in flight has its access at address `a` of scratch memory (`scr`) or of global memory (R119, R126). -/
def Sys2Proof.Machine.accessAt (ag : Agent) (f : Inflight) (m : MemOp) (scr : Bool) (a : Nat) : Prop :=
  ∃ t, (if m.unif then t = 0 else t < 32 ∧ f.e.getLsbD t = true) ∧
    ((scr = true ∧ (ag.target m f.base.toNat (f.av.getD t 0) t).1 = .ok (.scr a)) ∨
      (scr = false ∧ ∃ p, (ag.target m f.base.toNat (f.av.getD t 0) t).1 = .ok (.glob a p)))

/-- An unfinished word that an acquire of an object comes after (R186, R187): one on a typed buffer, or with an access to the object's
word. -/
def Sys2Proof.Machine.comesFirst (ag : Agent) (o : Held) (f : Inflight) : Prop :=
  f.finished = false ∧ ∃ m, memOp f.instr = some m ∧ (m.buf.isSome = true ∨
    (m.pft = false ∧ ∃ a, accessAt ag f m o.scr a ∧ a < o.addr + 8 ∧ o.addr < a + tySize m.ty))

/-- ACQ (R174, R175, R187, R295): once the earlier words that it comes after are complete, a free object with no request before it is granted at
once: the word counts the holder, and the warp holds it; otherwise the request is counted in the word and waits at the home, and the warp
with it. -/
def Sys2Proof.Machine.acquireWordSays : Prop :=
  ∀ (h : Head) (a : Opnd) (sh os : Bool) (s : State), s.agent.status ≠ .vacant →
    let ag := s.agent
    let i : Instr := .acq h a sh os
    let n : Need := { needX false [if os then plain a else pairSrc a] with badE := notK a }
    let o : Held := { scr := os, addr := if os then (s.uval .int a).toNat else ag.pairOf a, shared := sh }
    let full : Bool := ag.held.any (fun x => x.scr == os && x.addr == o.addr) || decide (16 ≤ ag.held.length)
    let go := ag.guardU h.g = true ∧ s.passes h.nas n true
    s.stopped i n (ag.guardU h.g) ∧
    (go → ∀ f, s.objCheck o = .error f → exec i s = .next (s.raise f)) ∧
    ∀ k w, s.objCheck o = .ok (k, w) → go →
      let free : Bool := !bit w 63 && (if sh then decide (w % 2 ^ 16 < 65535) else w % 2 ^ 16 == 0) && !s.waiters.any (fun x => x.key == k)
      let clear := ∀ f ∈ ag.inflight, ¬comesFirst ag o f ∨ 8 ≤ f.slot
      (full = true → exec i s = .next (s.raise (ag.flt 0x0A))) ∧
      (full = false → ∀ m : BitVec 8, m ≠ 0 → (∀ j < 8, m.getLsbD j = true ↔ ∃ f ∈ ag.inflight, f.slot = j ∧ comesFirst ag o f) →
        s.holds i (.slots m)) ∧
      (full = false → clear → s.isDet ag = false → free = true → ∃ t, exec i s = .next t ∧
        let u := (s.setObj ag o k (if sh then w + 1 else w + 2 ^ 63)).me (fun x => { x with held := x.held ++ [o] })
        IssuedTo u t h.nas s.npc u.agent) ∧
      (full = false → clear → s.isDet ag = false → free = false → exec i s = .next
        (let u := (s.me (fun x => { x with hold := .acq k o h.nas })).setObj ag o k
           ((bit w 63).toNat * 2 ^ 63 + (w / 2 ^ 16 % 2 ^ 16 + 1) % 2 ^ 16 * 2 ^ 16 + w % 2 ^ 16)
         { u with waiters := s.waiters ++ [{ ag := ag.id, key := k, sh := sh }] }))

/-- What a release of an object, or of the clasp object of group `g`, still waits for (R175, R186, R187, R402): the slots of the warp's unfinished
words that are on a typed buffer or have a thread whose access touches the object's word, lies in a region bound to the object now, or bound
to it when the word issued, or is a write to a page with DT or MIRROR (R136); then the acknowledgement of its mirrored writes. A binding to
a clasp names the clasp object of that group, by whatever address (R177). -/
def Sys2Proof.Machine.releaseHoldSays : Prop :=
  ∀ (s : State) (ag : Agent) (o : Held) (g : Option Nat),
    let names (x : Binding) : Prop := match x.obj with
      | .global va => o.scr = false ∧ va = o.addr
      | .scratch off => o.scr = true ∧ off = o.addr
      | .clasp i => g = some i ∨ (o.scr = false ∧ ∃ gr, s.groupOf ag.launch i = some gr ∧ gr.clasp = o.addr)
    let bound (f : Inflight) (x : Binding) : Prop := names x ∧ (x ∈ ag.binds ∨ ∃ n, (x, n) ∈ ag.past ∧ f.no < n)
    let waits (f : Inflight) : Prop := comesFirst ag o f ∨
      (f.finished = false ∧ ∃ m scr a, memOp f.instr = some m ∧ m.pft = false ∧ accessAt ag f m scr a ∧
        ((∃ x, bound f x ∧ x.rs = scr ∧ a < x.base + x.len ∧ x.base < a + tySize m.ty) ∨
          (m.load = false ∧ scr = false ∧ ∃ x, s.translate ag.ctx ag.die a .write = .ok x ∧
            (bit x.leaf.desc 7 = true ∨ bit x.leaf.desc 6 = true))))
    let busy (i : Nat) : Prop := ∃ f ∈ ag.inflight, f.slot = i ∧ waits f
    let mirrored : Prop := ∃ x ∈ s.mirrors, x.ag = ag.id ∧ x.copy = none
    (∀ m : BitVec 8, m ≠ 0 → (∀ i < 8, m.getLsbD i = true ↔ busy i) → s.relHold ag o g = some (.slots m)) ∧
    ((∀ i < 8, ¬busy i) → (mirrored → s.relHold ag o g = some .mirror) ∧ (¬mirrored → s.relHold ag o g = none))

/-- REL (R174, R175, R195, R381): once the warp's accesses to the regions bound to the object, its writes to DT and MIRROR pages
and its mirrored writes are done, the object's word counts one holder less, in determinate mode at the commit, and the warp does not hold it. -/
def Sys2Proof.Machine.releaseWordSays : Prop :=
  ∀ (h : Head) (a : Opnd) (os : Bool) (s : State), s.agent.status ≠ .vacant →
    let ag := s.agent
    let i : Instr := .rel h a os
    let n : Need := { needX false [if os then plain a else pairSrc a] with badE := notK a }
    let o : Held := { scr := os, addr := if os then (s.uval .int a).toNat else ag.pairOf a, shared := false }
    let own (x : Held) : Bool := x.scr == os && x.addr == o.addr
    let go := ag.guardU h.g = true ∧ s.passes h.nas n true
    s.stopped i n (ag.guardU h.g) ∧
    (go → ∀ f, s.objCheck o = .error f → exec i s = .next (s.raise f)) ∧
    ∀ k w, s.objCheck o = .ok (k, w) → go →
      (ag.held.any own = false → exec i s = .next (s.raise (ag.flt 0x0A))) ∧
      ∀ x, ag.held.find? own = some x →
        (s.mirrorBad = none → ∀ y, s.relHold ag o none = some y → s.holds i y) ∧
        (∀ f, s.mirrorBad = some f → exec i s = .next (s.raise f)) ∧
        (s.mirrorBad = none → s.relHold ag o none = none → ∃ t, exec i s = .next t ∧
          let less := if bit w 63 then w - 2 ^ 63 else if w % 2 ^ 16 = 0 then w + 65535 else w - 1
          let u := s.me (fun y => { y with held := y.held.filter (fun z => z != x) })
          let v := if s.isDet ag then u.me (fun y => { y with detBuf := y.detBuf ++ [{ clock := ag.lclk, op := .rel x }] })
            else u.setObj ag x k less
          IssuedTo v t h.nas s.npc v.agent)

/-- ACQ and REL (R175). -/
def Obligations.AcquireAndRelease : Prop := acquireWordSays ∧ releaseHoldSays ∧ releaseWordSays

/-- The checks on a clasp word (R174, R211): 0 CLASP, 1 CLASPA, 2 CLASPW. -/
def Sys2Proof.Machine.claspChecksSays : Prop :=
  ∀ (s : State) (part : Nat) (w : Word),
    let ag := s.agent
    let g := w.toNat
    let member := w ≠ 0xFFFFFFFF ∧ w ∈ ag.gm
    let a0A : Except Flt Group := .error (ag.flt 0x0A)
    (¬member ∨ s.groupOf ag.launch g = none → s.claspCheck part w = a0A) ∧
    ∀ gr, member → s.groupOf ag.launch g = some gr →
      let o : Held := { scr := false, addr := gr.clasp, shared := true }
      let holds := ∃ x ∈ ag.held, x.scr = false ∧ x.addr = gr.clasp
      let arr := g ∈ ag.arrived
      let early := gr.gang = false ∨ gr.clasp = 0 ∨ (part = 2 ∧ ¬arr) ∨ (part = 1 ∧ arr) ∨ (part = 0 ∧ arr ∧ ag.arrPending = false)
      let again := (part = 2 ∨ ag.arrPending = true) ∧ holds ∧ g ∉ ag.arriving
      let full := part ≠ 1 ∧ ((holds ∧ 16 < ag.held.length) ∨ (¬holds ∧ 16 ≤ ag.held.length))
      (early → s.claspCheck part w = a0A) ∧
      (¬early → ∀ f, s.objCheck o = .error f → s.claspCheck part w = .error f) ∧
      (¬early → ∀ r, s.objCheck o = .ok r → (again ∨ full → s.claspCheck part w = a0A) ∧ (¬(again ∨ full) → s.claspCheck part w = .ok gr))

/-- An arrival (R177, R195): a hold of the clasp object is released and the member counts in its group's round, at once or, in determinate
mode, at the commit of its word's quantum. CLASPA's arrivals that have nothing to wait for come about one after another. -/
def Sys2Proof.Machine.arrivalSays : Prop :=
  ∀ (s : State) (id g : Nat) (ag : Agent) (gr : Group), s.agentOf id = some ag → s.groupOf ag.launch g = some gr →
    let own (x : Held) : Bool := x.scr == false && x.addr == gr.clasp
    let r := s.round ag.launch g
    let wid := ag.wid.toNat
    let counted (u : State) : State := (u.setRound { r with arrived := if wid ∈ r.arrived then r.arrived else wid :: r.arrived }).upd id
      (fun a => { a with arriving := a.arriving.filter (fun y => y != g) })
    let without (x : Held) (a : Agent) : Agent := { a with held := a.held.filter (fun z => z != x) }
    let less (w : Nat) : Nat := objWord false (w / 2 ^ 16 % 2 ^ 16) (if bit w 63 then w % 2 ^ 16 else w % 2 ^ 16 + 65535)
    let buf (a : Agent) (l : List DetOp) : Agent := { a with
      detBuf := a.detBuf ++ l.map (fun op => { clock := ag.lclk, op := op }), arriving := a.arriving.filter (fun y => y != g) }
    (s.isDet ag = false → ag.held.find? own = none → s.arrive id g = counted s) ∧
    (s.isDet ag = false → ∀ x k, ag.held.find? own = some x → s.keyOf ag x = .ok k →
      s.arrive id g = counted ((s.upd id (without x)).setObj ag x k (less (s.obj k)))) ∧
    (s.isDet ag = true → ag.held.find? own = none → s.arrive id g = s.upd id (fun a => buf a [.arrive g])) ∧
    (s.isDet ag = true → ∀ x, ag.held.find? own = some x → s.arrive id g = s.upd id (fun a => buf (without x a) [.rel x, .arrive g])) ∧
    (∀ l, (s.agents.filter (fun a => a.launch == l && a.arriving.contains g)) = [] → s.arriveAll l g = s) ∧
    ((s.agents.filter (fun a => a.launch == ag.launch && a.arriving.contains g)) = [ag] →
      (s.relHold ag (claspObj gr) (some g) = none → s.arriveAll ag.launch g = s.arrive ag.id g) ∧
      (∀ y, s.relHold ag (claspObj gr) (some g) = some y → s.arriveAll ag.launch g = s))

/-- CLASPA, and the wait part of CLASPW and CLASP (R177, R211, R307). A completed round that holds the warp's arrival lets it take its
shared acquire; before that it waits. -/
def Sys2Proof.Machine.claspWordsSays : Prop :=
  ∀ (h : Head) (a : Opnd) (s : State), s.agent.status ≠ .vacant →
    let ag := s.agent
    let w := s.uval .int a
    let g := w.toNat
    let n := claspNeed a
    let go := ag.guardU h.g = true ∧ s.passes h.nas n true
    (∀ part i, (part, i) ∈ [(0, Instr.clasp h a), (1, Instr.claspa h a), (2, Instr.claspw h a)] → s.stopped i n (ag.guardU h.g) ∧
      (go → ∀ f, s.claspCheck part w = .error f → exec i s = .next (s.raise f))) ∧
    (∀ gr, s.claspCheck 1 w = .ok gr → go → s.mirrorBad = none → ∃ t, exec (.claspa h a) s = .next t ∧
      let v := s.me (fun x => { x with arrived := setIn x.arrived g true, arriving := setIn x.arriving g true })
      let u := if s.isDet ag then v.arrive ag.id g else v.arriveAll ag.launch g
      IssuedTo u t h.nas s.npc u.agent) ∧
    (∀ gr, s.claspCheck 0 w = .ok gr → go → ag.arrPending = false → s.isDet ag = false → s.mirrorBad = none →
      s.relHold ag (claspObj gr) (some g) = none →
      let u := (s.me (fun x => { x with arrived := setIn x.arrived g true })).arrive ag.id g
      let v := u.me (fun x => { x with hold := .clasp g true h.nas })
      exec (.clasp h a) s = .next ((v.setRound { v.round ag.launch g with
        waiting := setIn (v.round ag.launch g).waiting ag.id true }).claspRound ag.launch g)) ∧
    (∀ gr, s.claspCheck 2 w = .ok gr → go → ∀ m : BitVec 8, m ≠ 0 →
      (∀ j < 8, m.getLsbD j = true ↔ ∃ f ∈ ag.inflight, f.slot = j ∧ comesFirst ag (claspObj gr) f) → s.holds (.claspw h a) (.slots m)) ∧
    ∀ part i, (part, i) ∈ [(0, Instr.clasp h a), (2, Instr.claspw h a)] → ∀ gr, s.claspCheck part w = .ok gr → go →
      (part = 0 → ag.arrPending = true) → (part = 2 → ∀ f ∈ ag.inflight, ¬comesFirst ag (claspObj gr) f ∨ 8 ≤ f.slot) →
      s.isDet ag = false → s.groupOf ag.launch g = some gr →
      (∀ x ∈ s.agents, x.launch = ag.launch → g ∉ x.arriving) →
      let r := s.round ag.launch g
      r.arrived = [] → r.waiting = [] → ∀ k, s.keyOf ag (claspObj gr) = .ok k →
      (ag.wid.toNat ∈ r.passing → bit (s.obj k) 63 = false → ∃ t, exec i s = .next t ∧
        let u := (s.setObj ag (claspObj gr) k (objWord false (s.obj k / 2 ^ 16 % 2 ^ 16) (s.obj k % 2 ^ 16 + 1))).setRound
          { r with passing := r.passing.filter (fun x => x != ag.wid.toNat) }
        let v := u.me (fun x => { x with held := x.held ++ [claspObj gr], arrived := x.arrived.filter (fun y => y != g), arrPending := false })
        IssuedTo v t h.nas s.npc v.agent) ∧
      (ag.wid.toNat ∉ r.passing → exec i s = .next
        ((s.me (fun x => { x with hold := .clasp g (part == 0) h.nas })).setRound { r with waiting := [ag.id] }))

/-- The clasp words: their checks, an arrival, and what each word does. -/
def Obligations.ClaspWords : Prop := claspChecksSays ∧ arrivalSays ∧ claspWordsSays

/-- MBXW and MBXR (R178, R233, R354, R355): the write stands in the context's mailbox once the warp's earlier writes are done; the read
takes the mailbox when its slot completes. -/
def Obligations.MailboxWords : Prop :=
  ∀ (h : Head) (l : LHead) (d a b : Opnd) (s : State),
    let ag := s.agent
    let i := (s.uval .int a).toNat
    let n : Need := { needX false [plain a, pairSrc b] with badE := notK b }
    let c := s.ctx ag.ctx
    let done (f : Inflight) : Prop := f.finished = true ∨ fenced .rel f.instr = false ∨ 8 ≤ f.slot
    (s.mayNow → (∀ f ∈ ag.inflight, done f) →
      s.runsS (.mbxw h a b) h n (if 7 < i then some (ag.flt 0x0E) else none)
        (s.setCtx ag.ctx { c with mailboxes := aset c.mailboxes i (BitVec.ofNat 64 (ag.pairOf b)) })) ∧
    s.runsLX (.mbxr l d a) l { pairDst (needX true [plain a]) d with badE := false } (if 7 < i then some (ag.flt 0x0E) else none)
      (s.flown (s.detach l (.mbxr l d a) (regRun d 2) (s.uval .int a) ag.lclk)) ∧
    ∀ (slot upto r : Nat) (f : Inflight), ag.status ≠ .vacant → s.away ag = false → (s.die ag.die).runs = true → ag.inSlot slot = some f →
      f.instr = .mbxr l d a → f.dests = [.k r, .k (r + 1)] → s.headV ag slot = true → s.isDet ag = false →
      ∃ t, exec (.slotCompletion ag.id slot upto) s = .next t ∧ t.agent.cbmOf slot = fullMask ∧
        let w := aget c.mailboxes 0 (f.av.getD 0 0).toNat
        ∀ m, t.agent.kreg m = if m = r then w.setWidth 32 else if m = r + 1 then (w >>> 32).setWidth 32 else ag.kreg m

/-- What R194 allows only the earliest warp of a determinate launch: another waits, its checks passed. -/
def Obligations.DeterminateWaits : Prop :=
  ∀ (h : Head) (l : LHead) (a b : Opnd) (sh os : Bool) (s : State), ¬s.mayNow →
    let ag := s.agent
    let go (nas : Nas) (n : Need) : Prop := s.passes nas n true
    (ag.guardU h.g = true →
      (go h.nas { needX false [if os then plain a else pairSrc a] with badE := notK a } →
        let o : Held := { scr := os, addr := if os then (s.uval .int a).toNat else ag.pairOf a, shared := sh }
        ∀ k w, s.objCheck o = .ok (k, w) → ag.holds o = false → ag.held.length < 16 →
          (∀ f ∈ ag.inflight, ¬comesFirst ag o f ∨ 8 ≤ f.slot) → s.holds (.acq h a sh os) .det) ∧
      (go h.nas (claspNeed a) → ∀ gr, s.claspCheck 0 (s.uval .int a) = .ok gr → ag.arrPending = false → s.holds (.clasp h a) .det) ∧
      (go h.nas (claspNeed a) → ∀ gr, s.claspCheck 2 (s.uval .int a) = .ok gr →
        (∀ f ∈ ag.inflight, ¬comesFirst ag (claspObj gr) f ∨ 8 ≤ f.slot) → s.holds (.claspw h a) .det) ∧
      (go h.nas { needX false [plain a, pairSrc b] with badE := notK b } → (s.uval .int a).toNat ≤ 7 → s.holds (.mbxw h a b) .det)) ∧
    (ag.guardU l.g = true → ag.cbmOf l.slot.val = fullMask →
      (∀ (n : Fin 4) (g : Bool),
        go l.nas { needX false [pairSrc a, { o := b, n := 8, al := 2 }] with badE := notK a || notK b || (!g && n != 0) } →
        ¬(g = true ∧ ag.gm.getD n.val 0xFFFFFFFF = 0xFFFFFFFF) → ag.pairOf a % 8 = 0 → s.holds (.fork l a b n g) .det) ∧
      (∀ y z, go l.nas { needX false [pairSrc a] with badE := notK a } → ag.pairOf a % 32 = 0 → s.holds (.cpy l a y z) .det) ∧
      (∀ x t (n : Fin 8) (core : Fin 4),
        let w := s.uval .int a
        let e := s.tid ag.ctx (w.toNat / 2 ^ 24)
        let bf := s.bufsOf ag.launch ag.die (if ag.kind = .seq then ag.core / 4 * 4 + core.val else ag.core)
        go l.nas { needX true [plain a, plain b] with bad1 := ag.kind == .warp && core != 0, badE := isSp a } →
        ¬(owBad w || shapeBad e t || (tFmt e == 7 && (s.uval .int b).toNat % 32 != 0) ||
          decide ((tCols e + fmtKs (tFmt e) - 1) / fmtKs (tFmt e) < owKo w + n.val + 1)) = true →
        1024 * (owOff w + chunkKib e * (n.val + 1)) ≤ (if x then bf.xsize else bf.wsize) → s.holds (.tload l a b x t n core) .det) ∧
      (∀ (tile core : Fin 4),
        let i := (s.uval .int a).toNat
        let e := s.tid ag.ctx i
        let bf := s.bufsOf ag.launch ag.die (if ag.kind = .seq then ag.core / 4 * 4 + core.val else ag.core)
        go l.nas { needX true [plain a] with bad1 := ag.kind == .warp && core != 0 } →
        i ≤ 255 → tRows e ≤ 128 → tFmt e ≠ 0 → tFmt e < 7 → tSparse e = 0 → tSeed e = 0 → 65536 * (tile.val + 1) ≤ bf.csize →
        s.holds (.tstor l a tile core) .det) ∧
      (∀ d op elt sat now,
        go l.nas { needX false (if op == RowOp.zero then [pairSrc a] else [pairSrc a, pairSrc b]) with
          dst := some d, badE := notK a || (op != RowOp.zero && notK b) } →
        ag.pairOf a % 1024 = 0 → s.holds (.gzreq l d a b op elt sat now) .det))

/-! ## Range counters, tasks, programs -/

/-- RINIT, RGET and RGET_SERVE (R213, R382, R383): a served counter with R elements left gives min(R, max(M, ceil(R / D))) of them. While the
agent is away its die holds the completion (R162). -/
def Obligations.RangeWords : Prop :=
  ∀ (h : Head) (l : LHead) (d a b : Opnd) (s : State),
    let ag := s.agent
    let i := (s.uval .int a).toNat
    let k := kOf b
    let x := s.ctx ag.ctx
    let r : RangeCtr := { next := 0, rem := ag.kreg k, m := ag.kreg (k + 1), d := ag.kreg (k + 2) }
    s.runsS (.rinit h a b) h { needX false [plain a, { o := b, n := 3 }] with badE := notK b }
      (if 63 < i ∨ r.m = 0 ∨ r.d = 0 then some (ag.flt 0x0E) else none)
      (s.setCtx ag.ctx { x with ranges := aset x.ranges i r }) ∧
    s.runsLX (.rget l d a) l (pairDst (needX false [plain a]) d) (if 63 < i then some (ag.flt 0x0E) else none)
      (s.flown (s.detach l (.rget l d a) (regRun d 2) (s.uval .int a) ag.lclk)) ∧
    ∀ (id slot n : Nat) (y : Agent) (f : Inflight) (r : RangeCtr), s.agentOf id = some y → y.inSlot slot = some f →
      f.instr = .rget l d a → f.dests = [.k n, .k (n + 1)] → (s.ctx y.ctx).residency = .active → (s.die y.die).runs = true →
      (s.isDet y = true → s.detReady y f.aux = true ∧ s.turnFirst y f = true) → aget? (s.ctx y.ctx).ranges (f.av.getD 0 0).toNat = some r →
      let R := r.rem.toNat
      let g := min R (max r.m.toNat ((R + r.d.toNat - 1) / r.d.toNat))
      let left : RangeCtr := { r with next := r.next + BitVec.ofNat 32 g, rem := r.rem - BitVec.ofNat 32 g }
      let away := y.status = .parked ∨ y.status = .evicted
      ∃ t z, exec (.rgetServe id slot) s = .next t ∧ t.agentOf id = some z ∧
        (¬away → z.cbmOf slot = fullMask ∧
          ∀ m, z.kreg m = if m = n then r.next else if m = n + 1 then BitVec.ofNat 32 g else y.kreg m) ∧
        (away → z = { y with late := y.late ++ [{ slot := slot, regs := [(n, r.next), (n + 1, BitVec.ofNat 32 g)] }] }) ∧
        (∀ c, t.ctx c = if c = y.ctx then { s.ctx c with ranges := aset (s.ctx c).ranges (f.av.getD 0 0).toNat left } else s.ctx c) ∧
        t = { s with agent := t.agent, others := t.others, ctxs := t.ctxs, launches := t.launches }

/-- TSPAWN and LARM (R201, R209, R212, R346, R399): a record waits in its virtual device's queue with its poster, not
ready; one submitted already is dropped and counted; an arrival slot is armed, with its place among its warp's writes. -/
def Obligations.TaskWords : Prop :=
  ∀ (h : Head) (a b : Opnd) (tag : BitVec 8) (s : State),
    let ag := s.agent
    let x := s.ctx ag.ctx
    let r := ag.pairOf a
    let i := (s.uval .int a).toNat
    let q : QRec :=
      { record := r, vf := x.desc.vf, poster := some (ag.id, { no := s.handles, clock := ag.lclk }), ready := false, prio := 0, since := s.time }
    s.runsS (.tspawn h a) h { needX false [pairSrc a] with badE := notK a } (if r % 64 ≠ 0 then some (Flt.at 0x09 r) else none)
      (match s.vfHome x.desc.vf with
        | none => s
        | some (_, c) => if s.submitted x.desc.vf r then s.count c 15 1 else { s with queue := s.queue ++ [q] }) ∧
    s.runsS (.larm h a b tag) h { needX false [plain a, pairSrc b] with priv := true, badE := notK b }
      (firstOf [(decide (255 < i), ag.flt 0x0E), (ag.pairOf b % 64 != 0, Flt.at 0x09 (ag.pairOf b))])
      (let r : Arrival := { record := ag.pairOf b, tag := tag, by_ := (ag.id, { no := s.handles, clock := ag.lclk }) }
       s.setCtx ag.ctx { x with arrivals := aset x.arrivals i r })

/-- FORK and RDV (R210, R214, R215, R325, R378): a program with eight registers of its forker, waiting for a place in its sequencer's
queue; and a party's arrival at the next meeting of its program, which a saved image may hold. -/
def Obligations.ProgramWords : Prop :=
  ∀ (l : LHead) (a b : Opnd) (n : Fin 4) (grp : Bool) (s : State),
    let ag := s.agent
    let pc := ag.pairOf a
    let g := ag.gm.getD n.val 0xFFFFFFFF
    let parties : List Nat := if grp then match s.groupOf ag.launch g.toNat with
        | none => [ag.wid.toNat]
        | some gr => setIn gr.members ag.wid.toNat true
      else [ag.wid.toNat]
    let p : Agent :=
      { Agent.vacant with
        id := s.handles + 1, kind := .seq, status := .waiting, die := ag.die, core := ag.core, ctx := ag.ctx, launch := ag.launch
        wid := ag.wid, nw := ag.nw, pc := pc % 2 ^ 48, k := ((List.range 8).map (fun j => ag.kreg (kOf b + j))).zipIdx.map (fun e => (e.2, e.1))
        lclk := s.handles + 1, argp := BitVec.ofNat 64 pc, forker := ag.id, parties := parties
        pairGroup := s.arePair ag.launch parties, prio := ag.prio, trig := some { no := s.handles + 1, clock := ag.lclk } }
    let was : State := { s with handles := s.handles + 1, others := s.others ++ [p] }
    (s.mayNow → s.runsLX (.fork l a b n grp) l
      { needX false [pairSrc a, { o := b, n := 8, al := 2 }] with badE := notK a || notK b || (!grp && n != 0) }
      (firstOf [(grp && g == 0xFFFFFFFF, ag.flt 0x0A), (pc % 8 != 0, Flt.at 0x09 pc)])
      (was.flown (s.detach l (.fork l a b n grp) [] 0 (s.handles + 1)))) ∧
    (s.progOf ag = none → s.runsLX (.rdv l a) l (needX true [plain a]) (some (ag.flt 0x0A)) s) ∧
    ∀ p next, s.progOf ag = some p → ag.status ≠ .vacant → ag.nasNext l.nas s.npc = .ok next →
      let k := aget p.rdvCount 0 ag.id
      let w := s.uval .int a
      let joined (p : Agent) : Agent :=
        { p with rdvs := p.rdvs ++ [{ ag := ag.id, k := k, n := w, slot := l.slot.val, pc := ag.pc, next := next.pc, clock := ag.lclk }]
                 rdvCount := aset p.rdvCount ag.id (k + 1) }
      (∀ e ∈ p.rdvs, e.k = k → e.n = w) →
      (s.agentOf p.id = some p → s.savedAgents = [] → s.runsLX (.rdv l a) l (needX true [plain a]) none
        ((s.flown (s.detach l (.rdv l a) [] w 0)).upd p.id joined)) ∧
      ((∀ x ∈ s.agents, x.id ≠ p.id) → s.savedAgents.filter (fun x => x.id == p.id) = [p] → (∀ x ∈ s.savedAgents, x.id ≠ ag.id) →
        ag.guardU l.g = true → ag.cbmOf l.slot.val = fullMask → s.passes l.nas (needX true [plain a]) true →
        ∃ t, exec (.rdv l a) s = .next t ∧ ∃ im ∈ t.images, joined p ∈ im.agents)

/-! ## Glazes, row requests, copies -/

/-- GZDEL, GZHOLD, GZPOS and GZREQ go to the partition or the controller (R151-R154, R158, R331-R333, R335). -/
def Obligations.GlazeWords : Prop :=
  ∀ (l : LHead) (d a b : Opnd) (res : Bool) (op : RowOp) (elt : Elt) (sat now : Bool) (s : State),
    let ag := s.agent
    let w := s.uval .int a
    let va := ag.pairOf a
    let c := if op = .zero then 0 else ag.pairOf b
    let q : Req :=
      { id := s.handles + 1, die := ag.die, bank := 0, row := 0, op := op, elt := elt, sat := sat, now := now, c0 := BitVec.ofNat 32 c
        c1 := BitVec.ofNat 32 (c / 2 ^ 32), ctx := ag.ctx, ag := ag.id, slot := l.slot.val, va := va, accepted := false, entry := 0
        time := s.time }
    let was : State := { s with handles := s.handles + 1, reqs := s.reqs ++ [q] }
    let bad := if 63 < w.toNat then some (ag.flt 0x0E) else none
    s.runsLX (.gzdel l a) l (needX false [plain a]) bad (s.flown (s.detach l (.gzdel l a) [] w 0)) ∧
    s.runsLX (.gzhold l a res) l (needX false [plain a]) bad (s.flown (s.detach l (.gzhold l a res) [] w 0)) ∧
    s.runsLX (.gzpos l d a) l { pairDst (needX false [pairSrc a]) d with badE := notK a } none
      (s.flown { s.inflight0 l.slot.val l.la.val (.gzpos l d a) with
        dests := regRun d 2, detached := true, base := BitVec.ofNat 64 va }) ∧
    (s.mayNow → s.runsLX (.gzreq l d a b op elt sat now) l
      { needX false (if op = .zero then [pairSrc a] else [pairSrc a, pairSrc b]) with
        dst := some d, badE := notK a || (op != .zero && notK b) }
      (if va % 1024 ≠ 0 then some (Flt.at 0x09 va) else none)
      (was.flown (s.detach l (.gzreq l d a b op elt sat now) (regRun d 1) 0 (s.handles + 1))))

/-- GZREG and CPY read their descriptors at issue (R146, R286, R334): once the agent's earlier stores to it are done; a descriptor that
cannot be read, or is poisoned, is a recorded fault of a word that has issued. -/
def Sys2Proof.Machine.descriptorWordsSays : Prop :=
  ∀ (l : LHead) (d a : Opnd) (src dst : CpySpace) (s : State), s.agent.status ≠ .vacant → s.agent.kind = .warp → s.away s.agent = false →
    s.agent.inSlot l.slot.val = none →
    let ag := s.agent
    let va := ag.pairOf a
    let n (w : Bool) : Need := { needX false [pairSrc a] with dst := if w then some d else none, badE := notK a }
    let go (w : Bool) : Prop := ag.guardU l.g = true ∧ ag.cbmOf l.slot.val = fullMask ∧ s.passes l.nas (n w) true
    let i (w : Bool) : Instr := if w then .gzreg l d a else .cpy l a src dst
    let size (w : Bool) : Nat := if w then 64 else 32
    let stores (w : Bool) (i : Nat) : Prop := ∃ f ∈ ag.inflight, f.slot = i ∧ f.finished = false ∧ ∃ m t a p, memOp f.instr = some m ∧
      m.pft = false ∧ (m.store = true ∨ m.atom.isSome = true) ∧ (if m.unif then t = 0 else t < 32 ∧ f.e.getLsbD t = true) ∧
      (ag.target m f.base.toNat (f.av.getD t 0) t).1 = .ok (.glob a p) ∧ va < a + tySize m.ty ∧ a < va + size w
    let busy (w : Bool) (m : BitVec 8) : Prop := ∀ i < 8, m.getLsbD i = true ↔ stores w i
    let f (w : Bool) : Inflight :=
      { s.detach l (i w) (if w then regRun d 1 else []) 0 (if w then ag.lclk else 0) with
        av := if w then [] else [0], base := if w then BitVec.ofNat 64 va else 0 }
    let failed (u : State) (w : Bool) (c : Nat) : Prop := ∃ t z, exec (i w) s = .next t ∧
      (∃ v, IssuedTo v t l.nas s.npc v.agent ∧ v.mem = u.mem) ∧ t.agent = z ∧ z.cbmOf l.slot.val = fullMask ∧
        z.recorded = ag.recorded ++ [{ cause := c, mask := if c = 0x0E then ag.exm else fullMask, addr := va, fpc := ag.pc, rpc := none, no := s.handles, hnd := ag.handler }]
    ∀ w : Bool, go w →
      (va % size w ≠ 0 → exec (i w) s = .next (s.raise (Flt.at 0x09 va))) ∧
      (va % size w = 0 → (w = true ∨ s.mayNow) → ∀ m, m ≠ 0 → busy w m → s.holds (i w) (.slots m)) ∧
      (va % size w = 0 → (w = true ∨ s.mayNow) → busy w 0 → s.isDet ag = false → ∀ x, s.reachable ag .read (.glob va false) (size w) x →
        let bytes := Memory.read s.mem x.pa (size w)
        (meets s.memPoison x.pa (size w) → failed s w 0x17) ∧
        (¬meets s.memPoison x.pa (size w) → w = true → ∃ t v, exec (i w) s = .next t ∧ IssuedTo v t l.nas s.npc v.agent ∧
          v = { s.flown { f true with dv := [(List.range 16).map (fun j => BitVec.ofNat 32 (leNat ((bytes.drop (4 * j)).take 4)))] } with
            ctxs := v.ctxs }) ∧
        (¬meets s.memPoison x.pa (size w) → w = false →
          let y : Copy := { s.copy0 l .cpy with srcSp := src, dstSp := dst, descAddr := va }
          (∀ c, s.copyDesc y (leNat bytes) = .error c → failed s w c) ∧
          ∀ z, s.copyDesc y (leNat bytes) = .ok z → ∃ t v, exec (i w) s = .next t ∧ IssuedTo v t l.nas s.npc v.agent ∧
            v = { ({ s with handles := s.handles + 1, copies := s.copies ++ [z] } : State).flown { f false with aux := s.handles + 1 } with
              ctxs := v.ctxs })) ∧
      (va % size w = 0 → (w = true ∨ s.mayNow) → busy w 0 → s.isDet ag = false →
        ∀ c, s.translate ag.ctx ag.die va .read = .error c →
          if c = 0x07 ∧ s.pageWait ag.die ag.ctx va = true then exec (i w) s = .next s else failed s w c)

/-- A copy descriptor (R286, R310): source, destination and length, each a multiple of 64, and a reserved double word; what it names
must lie within the allocations. -/
def Sys2Proof.Machine.copyDescriptorSays : Prop :=
  ∀ (s : State) (x : Copy) (n : Nat), n < 2 ^ 256 →
    let src := n % 2 ^ 64
    let dst := n / 2 ^ 64 % 2 ^ 64
    let len := n / 2 ^ 128 % 2 ^ 64
    let b := s.bufsOf x.launch x.die x.core
    let toofar (sp : CpySpace) (a : Nat) : Option Nat := match sp with
      | .g => none
      | .s => if (s.scratch x.scratch).size < a + len then some 0x08 else none
      | .w => if b.wsize < a + len then some 0x13 else none
      | .x => if b.xsize < a + len then some 0x13 else none
    let ill : Prop := n / 2 ^ 192 ≠ 0 ∨ src % 64 ≠ 0 ∨ dst % 64 ≠ 0 ∨ len % 64 ≠ 0 ∨ 2 ^ 40 ≤ len ∨
      (x.srcSp ≠ .g ∧ 2 ^ 32 ≤ src) ∨ (x.dstSp ≠ .g ∧ 2 ^ 32 ≤ dst)
    (ill → s.copyDesc x n = .error 0x0E) ∧
    (¬ill → x.srcSp = .w ∨ x.srcSp = .x → s.copyDesc x n = .error 0x13) ∧
    (¬ill → x.srcSp = .g ∨ x.srcSp = .s → s.copyDesc x n =
      match toofar x.srcSp src, toofar x.dstSp dst with
      | some c, _ => .error c
      | none, some c => .error c
      | none, none => .ok { x with src := src, dst := dst, blocks := len / 64 })

/-- CPY, GZREG and their descriptors (R286, R309, R310, R334). -/
def Obligations.Copies : Prop := descriptorWordsSays ∧ copyDescriptorSays

/-- TLOAD, TSTOR, TIDSET and TIDGET (R129, R130, R246, R388, R389, R392-R394, R400, R401). -/
def Obligations.TensorWords : Prop :=
  ∀ (h : Head) (l : LHead) (d a b : Opnd) (x tr : Bool) (n : Fin 8) (tile core : Fin 4) (s : State),
    let ag := s.agent
    let w := s.uval .int a
    let i := w.toNat
    let j := (s.uval .int b).toNat
    let seq := ag.kind == .seq
    let at_ := if seq then ag.core / 4 * 4 + core.val else ag.core
    let e := s.tid ag.ctx (i / 2 ^ 24)
    let e' := s.tid ag.ctx i
    let bf := s.bufsOf ag.launch ag.die at_
    let new := (List.range 16).map (fun m => ag.kreg (kOf b + m))
    let elsewhere := ag.kind == .warp && core != 0
    let run (i : Instr) (y : Copy) (v : Word) : State :=
      ({ s with handles := s.handles + 1, copies := s.copies ++ [y] } : State).flown (s.detach l i [] v (s.handles + 1))
    s.runsS (.tidset h a b) h { needX false [plain a, { o := b, n := 16, al := 16 }] with badE := notK b }
      (if 255 < i || tidBad new then some (ag.flt 0x0E) else none) (s.setTid ag.ctx i new) ∧
    s.runsX (.tidget h d a b) h { needX false [plain a, plain b] with dst := some d }
      (if 255 < i ∨ 15 < j then some (ag.flt 0x0E) else none)
      (fun t => WroteU ag t d ((s.tid ag.ctx i).getD j 0, false)) ∧
    (s.mayNow → s.runsLX (.tload l a b x tr n core) l { needX true [plain a, plain b] with bad1 := elsewhere, badE := isSp a }
      (firstOf [(owBad w || shapeBad e tr || (tFmt e == 7 && j % 32 != 0) ||
          decide ((tCols e + fmtKs (tFmt e) - 1) / fmtKs (tFmt e) < owKo w + n.val + 1), ag.flt 0x0E),
        (decide ((if x then bf.xsize else bf.wsize) < 1024 * (owOff w + chunkKib e * (n.val + 1))), Flt.at 0x13 (1024 * owOff w))])
      (run (.tload l a b x tr n core)
        { s.copy0 l .tload with core := at_, opword := w, row0 := j, transposed := tr, chunks := n.val + 1, bufX := x, entry := e, src := tBase e }
        w)) ∧
    (s.mayNow → s.runsLX (.tstor l a tile core) l { needX true [plain a] with bad1 := elsewhere }
      (firstOf [(decide (255 < i ∨ 128 < tRows e' ∨ tFmt e' = 0 ∨ 7 ≤ tFmt e' ∨ tSparse e' ≠ 0 ∨ tSeed e' ≠ 0), ag.flt 0x0E),
        (decide (bf.csize < 65536 * (tile.val + 1)), Flt.at 0x13 (65536 * tile.val))])
      (run (.tstor l a tile core) { s.copy0 l .tstor with core := at_, tile := tile.val, entry := e', dst := tBase e' } w))

/-! ## Matrix words -/

/-- A matrix word: its operand words or scalar, whether they name tensors, and the cause of an operation that cannot be. -/
structure Sys2Proof.Machine.MatRow where
  i : Instr
  srcs : List Use := []
  badE : Bool := false
  ws : List Word := []
  tens : Bool := false
  bad : List (List Word) → Option Nat := fun _ => none

/-- The matrix words (R225, R229-R232, R242, R243, R329, R357-R362). -/
def Sys2Proof.Machine.matrixRows (h : MHead) (c2 src : Fin 4) (a b : Opnd) (tr rm solo x sat : Bool) (n : Fin 8) (m : Fin 4) (s : State) :
    List MatRow :=
  let ag := s.agent
  let w (o : Opnd) : Word := s.uval .int o
  let k (o : Opnd) (i : Nat) : Word := match o with
    | .k r => ag.kreg (r.val + i)
    | _ => 0
  let same := h.c1 == c2
  let pair (o : Opnd) : Use := { o := o, n := 2, al := 2 }
  let f (es : List (List Word)) : Nat := tFmt (es.getD 0 [])
  [{ i := .mmac h a b tr src rm n, srcs := [plain a, plain b], ws := [w a, w b], tens := true },
   { i := .mmap h c2 a b src rm n, srcs := [pair a, plain b], badE := same || notK a, ws := [k a 0, k a 1, w b], tens := true },
   { i := .mmd2 h c2 a b src rm, srcs := [plain a, pair b], badE := same || notK b, ws := [w a, k b 0, k b 1], tens := true },
   { i := .gcmb h c2 a solo, srcs := [plain a], badE := same, ws := [s.uval (.float .fp32) a]
     bad := fun _ => match s.pairState ag with
       | none => none
       | some d => if !solo && (d.1 || d.2) then some 0x16 else none },
   { i := .mzero h },
   { i := .mqnt h a x sat m, srcs := [plain a], ws := [w a], tens := true
     bad := fun es =>
       if sat && f es != 4 && f es != 5 then some 0x01
       else if 3 < h.c1.val + m.val ∨ f es < 2 ∨ 7 < f es ∨ fmtKs (f es) < (m.val + 1) * 128 ∨ owKo (w a) ≠ 0 ∨ tSparse (es.getD 0 []) ≠ 0
       then some 0x0E else none },
   { i := .mscl h a, srcs := [plain a], ws := [s.uval (.float .fp32) a] }]

/-- The issue of MMAC, MMAP, MMD2, GCMB, MZERO, MQNT and MSCL (R96, R219, R220): on the sequencer alone; each completes its issue once every
array of its mask has room; it waits until every array of its mask has room, and joins
their queues with its operand words, copies of the entries that they name, and the state of its pair. -/
def Obligations.MatrixIssue : Prop :=
  ∀ (h : MHead) (c2 src : Fin 4) (a b : Opnd) (tr rm solo x sat : Bool) (n : Fin 8) (m : Fin 4) (s : State),
    ∀ r ∈ matrixRows h c2 src a b tr rm solo x sat n m s,
      let ag := s.agent
      let l : LHead := { nas := h.nas, g := h.g, la := h.la, slot := h.slot }
      let other (o : Opnd) : Bool := match o with
        | .b _ => true
        | .sp i => !seqSpecial i
        | _ => false
      let need : Need := { cls := .x, seq := true, warp := false, srcs := r.srcs, bad2 := r.srcs.any (fun u => other u.o), badE := r.badE }
      let es := if r.tens then r.ws.map (fun w => s.tid ag.ctx (w.toNat / 2 ^ 24)) else []
      let bad := firstOf ((r.tens && r.ws.any owBad, ag.flt 0x0E) :: match r.bad es with
        | none => []
        | some c => [(true, ag.flt c)])
      let o : MOp :=
        { id := s.handles + 1, ag := ag.id, slot := h.slot.val, pc := ag.pc, instr := r.i, die := ag.die, cluster := ag.core / 4, cm := h.cm
          launch := ag.launch, ctx := ag.ctx, words := r.ws, entries := es, started := false, pair := s.pairState ag }
      let room : Prop := ∀ i < 4, h.cm.getLsbD i = true →
        (s.mops.filter (fun o => o.die == ag.die && o.cluster == ag.core / 4 && o.cm.getLsbD i)).length < 4
      (room → s.runsLX r.i l need bad
        (({ s with handles := s.handles + 1, mops := s.mops ++ [o] } : State).flown (s.detach l r.i [] 0 o.id))) ∧
      (room → ag.guardU h.g = true → ag.cbmOf h.slot.val = fullMask → s.passes h.nas need true → bad = none →
        ∃ t, exec r.i s = .next t ∧ t.mops = s.mops ++ [o] ∧ t.agent.cbmOf h.slot.val = 0 ∧ t.bufs = s.bufs) ∧
      (¬room → ag.guardU h.g = true → ag.cbmOf h.slot.val = fullMask → s.passes h.nas need true → bad = none → s.holds r.i (.room h.cm))

/-! ## Exceptions -/

/-- What a failed access leaves (R138, R276): a missing page is outstanding on its die, a denial is counted; what the report of a mirror
failure leaves (R136): the failed writes at its address are forgotten. -/
def Sys2Proof.Machine.faultNotedSays : Prop :=
  ∀ (s : State) (die c va cause : Nat),
    let t := s.faulting die c va cause
    let p := (c, va / 2 ^ 16)
    t = { s with dies := t.dies, ctxs := t.ctxs } ∧ (∀ d, d ≠ die ∨ cause ≠ 0x07 → t.die d = s.die d) ∧
    (cause = 0x07 → t.die die = { s.die die with faults := (t.die die).faults } ∧
      ∀ q, (q ∈ (t.die die).faults ↔ q = p ∨ (q ∈ (s.die die).faults ∧ s.pageOpen die q = true)) ∨ (t.die die).faults = (s.die die).faults ∧
        p ∈ (s.die die).faults) ∧
    (∀ d, t.ctx d = if d = c ∧ cause = 0x1C then
      { s.ctx d with counters := aset (s.ctx d).counters 13 (aget (s.ctx d).counters 0 13 + 1) } else s.ctx d) ∧
    (s.clearMirror va).mirrors = s.mirrors.filter (fun m => !(m.failed && m.ag == s.agent.id && m.va == va)) ∧
    s.clearMirror va = { s with agent := (s.clearMirror va).agent, mirrors := (s.clearMirror va).mirrors } ∧
    ((∀ f ∈ s.agent.inflight, f.finished = true ∨ f.copyId = none) → (s.clearMirror va).agent = s.agent)

/-- An issue fault (R218, R248, R252, R255): a warp takes its trap, FPC and RPC the word, but for a word that names another resume
address; a warp in its handler is a double fault; a sequencer program stops. A mirror failure that is reported is forgotten. A fault on
a further page while 512 are outstanding waits, and so does one whose frame lies on such a page (R138): nothing is done. -/
def Sys2Proof.Machine.faultTakenSays : Prop :=
  ∀ (s : State) (f : Flt),
    let waits := f.cause = 0x07 ∧ s.pageWait s.agent.die s.agent.ctx f.addr = true
    let s' := (if f.cause = 0x0F then s.clearMirror f.addr else s).faulting s.agent.die s.agent.ctx f.addr f.cause
    let ag := s'.agent
    (waits → s.raise f = s) ∧ (¬waits →
    (ag.kind = .warp → ag.handler = false →
      s.raise f = (s'.tryTrap { cause := f.cause, mask := f.mask, addr := f.addr, fpc := ag.pc, rpc := f.rpc.getD ag.pc }).getD s) ∧
    (ag.kind = .warp → ag.handler = true → s.raise f = s'.doubleFault ag.id f.addr) ∧
    (ag.kind = .seq → s.raise f = s'.me (fun a =>
      { a with status := .faulted, hold := .none
               seqFault := some { cause := f.cause, mask := f.mask, addr := f.addr, fpc := ag.pc, rpc := none, hnd := false } })))

/-- The fault-domain signal (R259): every other live warp of an FD group of the warp that has none pending gets it. -/
def Sys2Proof.Machine.signalSays : Prop :=
  ∀ (s : State) (ag : Agent) (cause : Nat) (l : Launch), s.launchOf ag.launch = some l →
    let t := s.signalFd ag cause
    t = { s with agent := t.agent, others := t.others } ∧
    ∀ id a, s.agentOf id = some a → ∃ b, t.agentOf id = some b ∧
      let told := a.kind = .warp ∧ a.launch = ag.launch ∧ a.id ≠ ag.id ∧ a.status ≠ .retired ∧ a.live ≠ 0 ∧ a.fdSignal = none ∧
        ∃ g ∈ l.groups, g.fd = true ∧ ag.wid.toNat ∈ g.members ∧ a.wid.toNat ∈ g.members
      (told → b = { a with fdSignal := some { cause := cause, wid := ag.wid } }) ∧ (¬told → b = a)

/-- Trap entry (R249, R251, R254, R276): a warp whose frame can be written enters its handler: every live thread executes, the stacks
are empty, the frame's address is TA + 8192 (128 · core + index), the PC is HE; words that were captured are no longer in flight;
registers and everything it holds are as they were, its logical clock without the words that were captured (R192); counter 12 counts; for
a page marked MIG the driver is asked to pull it (R273); the other warps of its fault domains are signalled. A frame that cannot be
written is a double fault, one on a further page waits while 512 are outstanding, and nothing is done (R138). -/
def Sys2Proof.Machine.trapEntrySays : Prop :=
  ∀ (s : State) (t : Trap), (∀ k o n, s.agent.hold ≠ .acq k o n) → (∀ g w n, s.agent.hold ≠ .clasp g w n) → s.agent.wait = .none →
    s.agent.status ≠ .vacant → (∀ w ∈ s.agent.inflight, w.part = 0) →
    let ag := { s.agent with hold := .none }
    let caps := (ag.inflight.filter (fun w => !w.detached && !w.finished && !w.hnd)).map (fun w => (w.slot, w.aux))
    let counted := (ag.clocks.filter (fun e => !caps.any (fun c => c.1 == e.1))).length
    let taken := (caps.filter (fun c => !ag.clocks.any (fun e => e.1 == c.1))).length
    let d := (s.ctx ag.ctx).desc
    let f := d.ta + 8192 * (128 * ag.core + ag.ridx)
    (∀ c, (s.me (fun _ => ag)).writeRuns ag.ctx ag.die ag.id f (ag.frameRuns t) = .error c →
      if c = 0x07 ∧ s.pageWait ag.die ag.ctx f = true then s.tryTrap t = none ∧ s.enterTrap t = s
      else s.tryTrap t = some (((s.me (fun _ => ag)).faulting ag.die ag.ctx f c).doubleFault ag.id f) ∧ s.tryTrap t = some (s.enterTrap t)) ∧
    ∀ u, (s.me (fun _ => ag)).writeRuns ag.ctx ag.die ag.id f (ag.frameRuns t) = .ok u → ∃ v,
      let x := if t.cause = 0x07 ∧ u.migAt ag.ctx ag.die t.addr = true then
        v.notice ag.ctx { kind := 5, wid := ag.wid, addr := t.addr, poster := some ag.id } else v
      s.tryTrap t = some (if t.sig then x else x.signalFd ag t.cause) ∧ s.tryTrap t = some (s.enterTrap t) ∧
      v.agent = { ag with
        exm := ag.live, msk := [], link := [], loops := [], inflight := ag.inflight.filter (fun w => w.detached || w.finished)
        tframe := BitVec.ofNat 64 f, handler := true, pc := d.he % 2 ^ 48, arrPending := false
        caught := ag.inflight.any (fun w => !w.detached && !w.finished), status := .live, returning := false
        clocks := if ag.handler then ag.clocks else caps, lclk := if ag.handler then ag.lclk else ag.lclk + counted - taken } ∧
      v = { u with agent := v.agent, ctxs := v.ctxs } ∧
      ∀ c, v.ctx c = if c = ag.ctx then
        { u.ctx c with counters := aset (u.ctx c).counters 12 (aget (u.ctx c).counters 0 12 + 1) } else u.ctx c

/-- A frame (R252, R253): what its bytes hold, each field at its offset; the replay entries of the captured words follow from 0x200 in
issue order. -/
def Sys2Proof.Machine.frameLayoutSays : Prop :=
  ∀ (ag : Agent) (t : Trap), t.cause < 32 → ag.msk.length ≤ 16 → ag.link.length ≤ 8 → ag.loops.length ≤ 3 → ag.capturedWords.length ≤ 8 →
    let runs := ag.frameRuns t
    let field (off size v : Nat) : Prop := ∃ r ∈ runs, r.1 ≤ off ∧ off + size ≤ r.1 + r.2.length ∧
      leNat ((r.2.drop (off - r.1)).take size) = v
    let caps := ag.capturedWords
    field 0x00 1 t.cause ∧
    field 0x01 1 (t.seq.toNat + 2 * t.sig.toNat + 4 * ag.arrPending.toNat) ∧ field 0x02 2 caps.length ∧
    field 0x04 4 t.mask.toNat ∧ field 0x08 8 (t.addr % 2 ^ 64) ∧ field 0x10 8 (t.fpc % 2 ^ 64) ∧ field 0x18 8 (t.rpc % 2 ^ 64) ∧
    field 0x20 4 ag.exm.toNat ∧ field 0x24 4 ag.live.toNat ∧ field 0x28 1 ag.msk.length ∧
    field 0x29 1 (ag.link.length + 16 * ag.loops.length) ∧ field 0x2A 2 0 ∧ field 0x2C 4 0 ∧
    field 0x30 8 (ag.j0 % 2 ^ 64) ∧ field 0x38 8 (ag.j1 % 2 ^ 64) ∧
    (∀ i e, ag.msk.reverse[i]? = some e → field (0x40 + 8 * i) 4 e.outer.toNat ∧ field (0x44 + 8 * i) 4 e.alt.toNat) ∧
    (∀ i a, ag.link.reverse[i]? = some a → field (0xC0 + 8 * i) 8 (a % 2 ^ 64)) ∧
    (∀ i l, ag.loops[i]? = some l → field (0x100 + 16 * i) 8 (l.start % 2 ^ 64) ∧ field (0x108 + 16 * i) 8 (l.stop % 2 ^ 64)) ∧
    (∀ i < 3, field (0x130 + 4 * i) 4 (aget ag.lc 0 i).toNat) ∧ (∀ i < 4, field (0x140 + 4 * i) 4 (ag.kreg (60 + i)).toNat) ∧
    ∀ i w, caps[i]? = some w → w.ecause < 32 → w.slot < 8 →
      let at_ (o : Nat) : Nat := 0x200 + 960 * i + o
      field (at_ 0x00) 8 w.word.toNat ∧ field (at_ 0x08) 8 (w.pc % 2 ^ 64) ∧ field (at_ 0x10) 4 (ag.cbmOf w.slot).toNat ∧
      field (at_ 0x14) 1 (w.slot + 8) ∧ field (at_ 0x15) 1 w.ecause ∧ field (at_ 0x18) 4 w.fmask.toNat ∧
      field (at_ 0x20) 8 (w.eaddr % 2 ^ 64) ∧ field (at_ 0x28) 8 w.base.toNat ∧
      (∀ j < 32, field (at_ (0x30 + 4 * j)) 4 (w.av.getD j 0).toNat ∧ field (at_ (0xB0 + 4 * j)) 4 (w.bv.getD j 0).toNat ∧
        ∀ r < 4, field (at_ (0x130 + 16 * j + 4 * r)) 4 ((w.dv.getD r []).getD j 0).toNat) ∧
      field (at_ 0x330) 4 w.pa.toNat ∧ field (at_ 0x334) 4 w.pb.toNat ∧ field (at_ 0x338) 4 w.pd.toNat

/-- Entering a handler (R254), the frame that it finds (R252), and the signals it sends (R259). -/
def Obligations.TrapEntered : Prop := trapEntrySays ∧ frameLayoutSays ∧ signalSays

/-- The first event of R250 that is due: the thread fault of the earliest-issued word, in flight or detached, a poison report, a fault of a
program, whose TMASK is EXM for the causes of R261, the watchdog's signal, a fault-domain signal; in a handler those of its own words
alone, each a double fault. -/
def Sys2Proof.Machine.dueOrderSays : Prop :=
  ∀ ag : Agent,
    let due (t : Trap) (double : Bool) (a : Agent) : Prop := ag.due = some (t, double, a)
    let own (h : Bool) : Bool := !ag.handler || h
    let none1 : Prop := ∀ f ∈ ag.inflight, f.finished = true ∨ f.fmask = 0
    let none2 : Prop := ∀ r ∈ ag.recorded, own r.hnd = false
    let none3 : Prop := ∀ r, ag.report = some r → own r.hnd = false
    let first (f : Inflight) : Prop := ∃ pre post, ag.inflight = pre ++ f :: post ∧ (∀ g ∈ pre, g.finished = true ∨ g.fmask = 0) ∧
      f.finished = false ∧ f.fmask ≠ 0
    (∀ f, first f → (∀ r ∈ ag.recorded, own r.hnd = true → f.no ≤ r.no) →
      due { cause := f.ecause, mask := f.fmask, addr := f.eaddr, fpc := f.pc, rpc := ag.pc } ag.handler ag) ∧
    (∀ pre r post, ag.recorded = pre ++ r :: post → own r.hnd = true → (∀ q ∈ pre, own q.hnd = true → r.no < q.no) →
      (∀ q ∈ post, own q.hnd = true → r.no ≤ q.no) → (∀ f, first f → r.no < f.no) →
      due { cause := r.cause, mask := r.mask, addr := r.addr, fpc := r.fpc, rpc := r.rpc.getD ag.pc } ag.handler
        { ag with recorded := pre ++ post }) ∧
    (none1 → none2 → ∀ r, ag.report = some r → own r.hnd = true →
      due { cause := 0x17, mask := r.mask, addr := r.addr, fpc := r.fpc, rpc := ag.pc } ag.handler { ag with report := none }) ∧
    (none1 → none2 → none3 → ag.handler = true → ag.due = none) ∧
    (none1 → none2 → none3 → ag.handler = false →
      (∀ r l, ag.delivered = r :: l →
        due { cause := r.cause, mask := if r.cause ∈ [0x01, 0x02, 0x0A, 0x0C, 0x0D, 0x0E, 0x0F] then ag.exm else r.mask, addr := r.addr
              fpc := r.fpc, rpc := ag.pc, seq := true } false { ag with delivered := l }) ∧
      (ag.delivered = [] → ag.wdSignal = true →
        due { cause := 0x19, mask := 0, addr := 0, fpc := ag.pc, rpc := ag.pc, sig := true } false { ag with wdSignal := false }) ∧
      (ag.delivered = [] → ag.wdSignal = false → ∀ g, ag.fdSignal = some g →
        due { cause := g.cause, mask := 0, addr := g.wid.toNat, fpc := ag.pc, rpc := ag.pc, sig := true } false { ag with fdSignal := none }) ∧
      (ag.delivered = [] → ag.wdSignal = false → ag.fdSignal = none → ag.due = none))

/-- A double fault (R255, R258, R273): every FD group of the warp ends, and the warp; the driver is notified. -/
def Sys2Proof.Machine.doubleFaultSays : Prop :=
  ∀ (s : State) (id addr : Nat) (ag : Agent), s.agentOf id = some ag →
    let gs := s.groupsWith ag.launch ag.wid.toNat (·.fd)
    s.doubleFault id addr = ((gs.foldl (fun s g => s.endGroup ag.launch g) s).retire id).notice ag.ctx
      { kind := 2, wid := ag.wid, addr := addr, poster := some id }

/-- A fault at issue, a double fault, and which trap is taken first (R248-R250, R255). -/
def Obligations.Faults : Prop := faultNotedSays ∧ faultTakenSays ∧ doubleFaultSays ∧ dueOrderSays

/-- The words that trap, return, end groups and park (R256-R258, R260, R304, R330, R369, R396, R397): each issues and its NAS acts, then
TRAP and BKPT enter the handler with their cause, RPC the successor (in a handler a double fault; a warp whose NAS leaves no live thread
issues no handler word, R238; while the frame has to wait, R138, the word issues again); GEND ends its group; TRET does the
steps of its frame, whose rows it opens (R155); PARK waits for its own accesses, their acknowledgements and the operations of the die's
arrays (R236), then writes its image and leaves the core. -/
def Sys2Proof.Machine.trapWordsSays : Prop :=
  ∀ (h : Head) (a : Opnd) (s : State),
    let ag := s.agent
    let n := (s.uval .int a).toNat
    let g := s.uval .int a
    let va := ag.pairOf a
    let trap (c x : Nat) (u : State) : State :=
      if ag.handler then u.doubleFault ag.id x
      else if u.agent.live = 0 then u
      else (u.tryTrap { cause := c, mask := ag.exm, addr := x, fpc := ag.pc, rpc := u.agent.pc }).getD s
    let runs (i : Instr) (need : Need) (bad : Option Flt) (act : State → State) : Prop :=
      s.stopped i need (ag.guardU h.g) ∧
      (s.passes h.nas need (ag.guardU h.g) → ag.guardU h.g = true → ∀ f, bad = some f → exec i s = .next (s.raise f)) ∧
      (s.passes h.nas need (ag.guardU h.g) → (ag.guardU h.g = true → bad = none) → ∃ u, Issued s u h.nas ag ∧
        exec i s = .next (if ag.guardU h.g then act u else u))
    runs (.trap h a) (needX false [plain a]) (if 127 < n then some (ag.flt 0x0E) else none) (trap 0x0B n) ∧
    runs (.bkpt h) needX none (trap 0x1A 0) ∧
    runs (.gend h a) { needX false [plain a] with priv := true } (if ag.inGroup g then none else some (ag.flt 0x0A))
      (fun u => (u.endGroup ag.launch g.toNat).retire ag.id) ∧
    let opened (u : State) : State := u.touch ag.ctx ag.die ag.tframe.toNat 8192
    (∀ f, (opened s).frameAt = .error f → runs (.tret h) { needX with handlerOnly := true } (some f) id) ∧
    (∀ fr, (opened s).frameAt = .ok fr → runs (.tret h) { needX with handlerOnly := true } none
      (fun u => (((u.touch u.agent.ctx u.agent.die u.agent.tframe.toNat 8192).me (fun a => { a with returning := true })).applyFrame fr false))) ∧
    let pn : Need := { needX false [pairSrc a] with priv := true, badE := notK a }
    let bad := if va % 64 ≠ 0 then some (Flt.at 0x09 va)
      else (s.runFault ag.ctx ag.die va (0x2700 + ag.regImage.length)).map (fun e => Flt.at e.1 e.2)
    let busy (i : Nat) : Prop := ∃ f ∈ ag.inflight, f.slot = i ∧ f.detached = false ∧ f.finished = false
    let unacked : Prop := ∃ x ∈ s.mirrors, x.ag = ag.id ∧ x.copy = none ∧ x.failed = false
    let arrays : Prop := ∃ o ∈ s.mops, o.die = ag.die
    let go := ag.guardU h.g = true ∧ s.passes h.nas pn true ∧ bad = none
    ((∀ i < 8, ¬busy i) → ¬unacked → ¬arrays → runs (.park h a) pn bad (fun u => u.parkNow va)) ∧
    s.stopped (.park h a) pn (ag.guardU h.g) ∧
    (go → ∀ m : BitVec 8, m ≠ 0 → (∀ i < 8, m.getLsbD i = true ↔ busy i) → s.holds (.park h a) (.slots m)) ∧
    (go → (∀ i < 8, ¬busy i) → (unacked → s.holds (.park h a) .mirror) ∧ (¬unacked → arrays → s.holds (.park h a) .park))

/-- What TRET restores of a frame with no entry to replay (R257): PC, masks, stacks, loop counters, jump registers, k60 to k63; the
handler is left; threads that died in it stay dead. The words withdrawn before whose slots are complete count (R192). -/
def Sys2Proof.Machine.frameRestoredSays : Prop :=
  ∀ (s : State) (fr : Frame), fr.entries = [] → s.agent.status ≠ .vacant → s.agent.wait = .none → fr.k.length = 4 → fr.lc.length = 3 →
    let ag := s.agent
    let t := (s.applyFrame fr false).agent
    let live := ag.live &&& fr.live
    t.pc = fr.rpc ∧ t.exm = fr.exm &&& live ∧ t.live = live ∧ t.msk = fr.msk ∧ t.link = fr.link ∧ t.loops = fr.loops ∧ t.j0 = fr.j0 ∧
    t.j1 = fr.j1 ∧ t.arrPending = fr.arr ∧ t.handler = false ∧ t.hold = .none ∧ t.caught = false ∧ t.returning = false ∧
    t.lclk = ag.lclk + (ag.clocks.filter (fun e => ag.cbmOf e.1 == fullMask)).length ∧
    t.clocks = ag.clocks.filter (fun e => ag.cbmOf e.1 != fullMask) ∧
    t.status = (if live = 0 then .exiting else ag.status) ∧
    (∀ i : Nat, (i < 60 ∨ 64 ≤ i → t.kreg i = ag.kreg i) ∧ (∀ j, i = 60 + j → j < 4 → t.kreg i = fr.k.getD j 0)) ∧
    (∀ i < 3, aget t.lc 0 i = fr.lc.getD i 0) ∧
    t = { ag with k := t.k, lc := t.lc, j0 := t.j0, j1 := t.j1, loops := t.loops, msk := t.msk, link := t.link, live := t.live, exm := t.exm
                  handler := t.handler, pc := t.pc, arrPending := t.arrPending, hold := t.hold, caught := t.caught, status := t.status
                  returning := t.returning, lclk := t.lclk, clocks := t.clocks } ∧
    (s.applyFrame fr false = { s with agent := t, launches := (s.applyFrame fr false).launches } ∧
      ∀ l, (s.applyFrame fr false).launchOf l = (s.launchOf l).map (fun x =>
        if l = ag.launch ∧ ag.returning = true then { x with wdFired := false } else x))

/-- A replay entry (R192, R253, R257): one dropped completes its slot; another goes in flight with what it captured, for the live threads
whose bit is clear, each a track cycle (R46, R276), a uniform one whole, with the logical clock at which it first issued. -/
def Sys2Proof.Machine.replaySays : Prop :=
  ∀ (s : State) (e : Entry),
    let ag := s.agent
    (e.f = none → s.replay e = s.me (fun a => { a with cbm := aset a.cbm e.slot fullMask })) ∧
    ∀ f, e.f = some f → f.finished = false →
      let unif := ∃ m, memOp f.instr = some m ∧ m.unif = true
      let clock := if ag.handler then ag.lclk else (aget? ag.clocks e.slot).getD ag.lclk
      let goes (s' : State) (todo : Mask) : Prop := s.replay e = s'.flown { f with e := todo, aux := clock, hnd := ag.handler }
      (unif → goes s (if e.cbm = fullMask then 0 else fullMask)) ∧
        (¬unif → goes (s.tracked (ag.live &&& ~~~e.cbm)) (ag.live &&& ~~~e.cbm))

/-- TRAP, BKPT, TRET, GEND and PARK, and what a frame restores (R256-R258, R260). -/
def Obligations.TrapsAndReturns : Prop := trapWordsSays ∧ frameRestoredSays ∧ replaySays

/-! ## Special registers and the memory system -/

/-- WRS (R33, R97, R409, R410): what each special takes, and what it refuses. -/
def Obligations.WriteSpecial : Prop :=
  ∀ (h : Head) (a : Opnd) (s : State) (i : Fin 64),
    let ag := s.agent
    let w := s.uval .int a
    let n := w.toNat
    let run (bad : Option Nat) (P : Agent → Prop) : Prop :=
      s.runsX (.wrs h (.sp i) a) h (wrsNeed (.sp i) a) (bad.map ag.flt) P
    (i = 0x0D → run none (fun t => t = { ag with exm := w &&& ag.live })) ∧
    (i = 0x0E → run none (fun t => t = { ag with wst := w.extractLsb' 0 3 })) ∧
    (∀ j : Nat, j < 3 → i.val = 0x18 + j → run (if j < ag.loops.length then none else some 0x0A)
      (fun t => t = { ag with lc := aset ag.lc j w })) ∧
    (i = 0x1D → s.runsS (.wrs h (.sp i) a) h (wrsNeed (.sp i) a)
      (if n % 2048 = 0 ∧ n ≤ 2048 * 2 ^ ag.pw then none else some (ag.flt 0x0E)) ((s.wholeStores ag.id).me (fun x => { x with phwm := w }))) ∧
    ((∀ f ∈ ag.inflight, f.finished = true ∨ f.part = 0) → s.wholeStores ag.id = s) ∧
    (i = 0x20 → run (if n ≤ 7 then none else some 0x0E) (fun t => t = { ag with prio := n })) ∧
    (i = 0x36 → run none (fun t => t = { ag with tframe := ag.tframe.extractLsb' 32 32 ++ w })) ∧
    (i = 0x37 → run none (fun t => t = { ag with tframe := w ++ ag.tframe.extractLsb' 0 32 })) ∧
    (i = 0x1B → ag.guardU h.g = true → s.agent.firstFault s.mayPriv (wrsNeed (.sp i) a) true = none →
      s.frameFault (wrsNeed (.sp i) a).srcs = none →
      let cut : Agent := { ag with link := ag.link.drop (ag.link.length - n) }
      (8 < n → exec (.wrs h (.sp i) a) s = .next (s.raise (ag.flt 0x0E))) ∧
      (n ≤ 8 → ag.link.length < n → exec (.wrs h (.sp i) a) s = .next (s.raise (ag.flt 0x0A))) ∧
      (n ≤ ag.link.length → n ≤ 8 → cut.nasBad h.nas s.npc = none → ∃ t, exec (.wrs h (.sp i) a) s = .next t ∧ Issued s t h.nas cut)) ∧
    (i = 0x1C → run (if 16 < n then some 0x0E else if ag.msk.length < n then some 0x0A else none)
      (fun t => t = { ag with msk := ag.msk.drop (ag.msk.length - n) })) ∧
    (∀ off : Nat, (i.val, off) ∈ [(0x30, 0x00), (0x31, 0x10), (0x32, 0x14), (0x33, 0x08), (0x34, 0x0C), (0x35, 0x04)] →
      ag.guardU h.g = true → s.passes h.nas (wrsNeed (.sp i) a) true → ∀ x, s.reachable ag .write (.glob (ag.tframe.toNat + off) false) 4 x →
      (ag.tframe.toNat + off) % 64 ≤ 60 → bit x.leaf.desc 7 = false →
      ∃ t, exec (.wrs h (.sp i) a) s = .next t ∧ (∃ n, ag.nasNext h.nas s.npc = .ok n ∧ t.agent.pc = n.pc) ∧
        ∀ y, Memory.get t.mem y = if x.pa ≤ y ∧ y < x.pa + 4 then w.extractLsb' (8 * (y - x.pa)) 8 else Memory.get s.mem y)

/-- TLBI, DTLD, DIRTY and PCTL at issue (R77, R137, R281-R283, R287, R313, R315, R370, R371, R391). -/
def Obligations.SystemWords : Prop :=
  ∀ (h : Head) (l : LHead) (d a b : Opnd) (all : Bool) (s : State),
    let ag := s.agent
    let vf := (s.ctx ag.ctx).desc.vf
    let first := ag.pairOf a / 2 ^ 16
    let count := (s.uval .int b).toNat
    let covered (e : TlbEntry) : Bool :=
      let k := 2 ^ (pageBits e.level - 16)
      decide (0 < count) && decide (e.page / k * k < first + count) && decide (first < e.page / k * k + k)
    let i := (s.uval .int a).toNat
    let die := s.die ag.die
    let bits := (List.range 64).foldl (fun x j => if die.dirty.contains (64 * i + j) then x + 2 ^ j else x) 0
    let block := ag.pairOf b
    s.runsS (.tlbi h a b all) h
      { needX false (if all then [] else [pairSrc a, plain b]) with priv := true, badE := !all && (notK a || notK b) } none
      { s with ctxs := s.ctxs.map (fun e => if e.2.desc.vf == vf then
          (e.1, { e.2 with tlb := e.2.tlb.filter (fun t => !(all || covered t)) }) else e) } ∧
    s.runsLX (.dtld l a) l { needX false [pairSrc a] with priv := true, badE := notK a }
      (if ag.pairOf a % 64 ≠ 0 then some (Flt.at 0x09 (ag.pairOf a)) else none)
      (s.flown { s.inflight0 l.slot.val l.la.val (.dtld l a) with detached := true, base := BitVec.ofNat 64 (ag.pairOf a) }) ∧
    s.runsS (.dirty h d a) h { pairDst (needX false [plain a]) d with priv := true, badE := notK d }
      (if 16383 < i then some (ag.flt 0x0E) else none)
      ((s.setDie ag.die { die with dirty := die.dirty.filter (fun p => p / 64 != i) }).me (fun x => x.putPair d bits)) ∧
    ∀ (kind : PctlKind) (w : Instr),
      (kind, w) ∈ [(.stop, Instr.pctlStop h a b), (.resume, Instr.pctlResume h a b), (.reset, Instr.pctlReset h a b)] →
      let need : Need := { needX false [plain a, pairSrc b] with priv := true, badE := notK b }
      (s.ctxOn i ag.die = none → s.runsS w h need (some (ag.flt 0x0E)) s) ∧
      ∀ c, s.ctxOn i ag.die = some c →
        let u := if kind = .resume then (s.touch ag.ctx ag.die block 64).openSave c else s
        let zero : Prop := ∃ bs, u.readRun ag.ctx ag.die (block + 0x10) 48 = .ok bs ∧ ∀ b ∈ bs, b = 0
        let image := if kind = .resume ∧ u.canReside c = true then (u.imageIn c).map (fun e => (e.1.no, e.2)) else none
        let refused : Prop :=
          (∃ p ∈ u.pctls, p.vf = i ∧ p.die = ag.die) ∨ (kind = .stop ∧ c = ag.ctx) ∨ (kind = .resume ∧ ¬(zero ∧ image ≠ none))
        let p : Pctl :=
          { id := u.handles + 1, kind := kind, vf := i, die := ag.die, ctx := ag.ctx, ag := ag.id, block := block, image := image }
        let was : State := { u with handles := u.handles + 1, pctls := u.pctls ++ [p] }
        let bad := if block % 64 ≠ 0 then some (Flt.at 0x09 block) else match s.translate ag.ctx ag.die block .write with
          | .error e => some (Flt.at e block)
          | .ok _ => none
        (refused → s.runsS w h need bad
          ((u.putCompletion ag.ctx ag.die block 1).notice ag.ctx { kind := 6, wid := ag.wid, addr := block, poster := none })) ∧
        (¬refused → s.runsS w h need bad
          (if kind = .stop ∧ (s.ctx c).residency = .active then
            (was.setCtx c { s.ctx c with stopped := true }).setDie ag.die { die with exchanging := true }
          else if kind = .stop ∧ (s.ctx c).residency = .locket then was.setCtx c { s.ctx c with stopped := true } else was))

/-! ## Events of dies, firmware and the outside -/

/-- Release, cores, arrays, power, boot and debug (R21-R24, R142, R284, R285): when each comes about and what it leaves; at any other time
it changes nothing. That a die that is not released admits no debug session, and which words the current limiter withholds first, is log
46. -/
def Obligations.DieEvents : Prop :=
  ∀ (s : State) (die core cycles : Nat) (rsa slh ok : Bool),
    let d := s.die die
    let runs : Prop := d.released = true ∧ (d.power = .run ∨ d.power = .idle)
    let goes (i : Instr) (c : Prop) (t : State) : Prop := (c → exec i s = .next t) ∧ (¬c → exec i s = .next s)
    goes (.dieResetRelease die) (s.boot = .running ∧ die < 24 ∧ d.released = false ∧ ∀ e < die, (s.die e).released = true)
      (s.setDie die { d with released := true, power := .run, cores := 1, sweep := { start := s.time * 512, hot := d.hot, was := none } }) ∧
    goes (.coreEnable die) (runs ∧ d.cores < 32) (s.setDie die { d with cores := d.cores + 1 }) ∧
    goes (.arrayRampStep die core) (runs ∧ core < d.cores ∧ aget d.ramp 0 core < 128)
      (s.setDie die { d with ramp := aset d.ramp core (aget d.ramp 0 core + 32) }) ∧
    (let til := s.time + (5 * cycles + 3) / 4
     let matrix : Prop := (∃ o ∈ s.mops, o.die = die ∧ 0 < o.ksteps) ∧ d.withheldM ≤ s.time
     goes (.currentLimit die cycles) runs (s.setDie die (if matrix then { d with withheldM := til }
       else { d with withheldM := max d.withheldM til, withheldV := max d.withheldV til }))) ∧
    goes (.thermalTrip die) runs { s.setDie die { d with power := .off, cores := 0, ramp := [] } with alerts := s.alerts ++ [die] } ∧
    goes (.partitionOffExit die) (d.released = true ∧ d.power = .off ∧ s.standby = false)
      (s.setDie die { d with power := .run, cores := 1 }) ∧
    goes (.bootVerify rsa slh) (s.boot ≠ .halted) { s with boot := if rsa = true ∧ slh = true then .running else .halted } ∧
    (s.boot = .running → s.standby = false → ∃ t, exec .moduleStandbyEntry s = .next t ∧ t.standby = true ∧
      (∀ e ∈ t.dies, e.2.power ≠ .run ∨ e.2.released = false) ∧ t = { s with dies := t.dies, standby := true }) ∧
    (s.standby = true → ∃ t, exec .moduleStandbyExit s = .next t ∧ t.standby = false ∧ (∀ e ∈ t.dies, e.2.power ≠ .standby) ∧
      t = { s with dies := t.dies, standby := false }) ∧
    (¬(ok = true ∧ d.released = true) → exec (.debugUnlock die ok) s = .next s) ∧
    (ok = true → d.released = true → ∃ t, exec (.debugUnlock die ok) s = .next t ∧ (t.die die).debug = .vendor ∧
      (∀ a, Memory.get t.mem a = if a / 2 ^ 36 < 24 then 0 else Memory.get s.mem a) ∧
      (∀ e, (t.die e).dirty = [] ∧ (t.die e).faults = [] ∧ (t.die e).waits = []) ∧ (∀ e, e ≠ die → (t.die e).debug = (s.die e).debug) ∧
      (∀ e, ∀ g ∈ (t.die e).regions, g ∈ (s.die e).regions ∧ (s.ctx g.2.ctx).system = true) ∧
      (∀ e ∈ t.ctxs, e ∈ s.ctxs ∧ e.2.system = true) ∧ (∀ i ∈ t.images, i ∈ s.images ∧ i.ctx.system = true) ∧
      (∀ b ∈ t.bufs, b ∈ s.bufs ∧ ∃ x, s.launchOf b.launch = some x ∧ (s.ctx x.ctx).system = true) ∧
      (∀ q ∈ t.reqs, q ∈ s.reqs ∧ (s.ctx q.ctx).system = true) ∧ (∀ y ∈ t.copies, y ∈ s.copies ∧ (s.ctx y.ctx).system = true) ∧
      (∀ o ∈ t.mops, o ∈ s.mops ∧ (s.ctx o.ctx).system = true) ∧ ∀ a ∈ t.agents, a ∈ s.agents ∧ (s.ctx a.ctx).system = true)

/-- What firmware writes of contexts and orders of dies (R18, R23, R271, R272, R285): descriptors field by field, a context made resident,
the rate of a stack, Run and Idle, Tenant debug, and a die's reset. The form of firmware's orders is the model's choice (log 58). -/
def Sys2Proof.Machine.firmwareOrdersSays : Prop :=
  ∀ (s : State) (die c : Nat) (on hot sys : Bool) (bytes : List Byte),
    let d := s.die die
    let x := s.ctx c
    let goes (r : FwReg) (t : State) : Prop := exec (.registerWrite r) s = .next t
    let f (o k : Nat) : Nat := leNat bytes / 256 ^ o % 256 ^ k
    let desc : Descriptor :=
      { root := f 0x00 8, he := f 0x08 8, ta := f 0x10 8, evict := f 0x18 8, save := f 0x20 8, ab := f 0x28 8, noticeBase := f 0x30 8
        noticeSize := f 0x38 4, watchdog := f 0x3C 4, moff := BitVec.ofNat 64 (f 0x40 8), mid := f 0x48 2, cap := f 0x4A 2
        traceBase := f 0x50 8, traceSize := f 0x58 4, traceMask := BitVec.ofNat 32 (f 0x5C 4), vf := f 0x60 2, weight := f 0x62 1 }
    let bad : Bool := f 0x4C 4 != 0 || f 0x63 29 != 0
    let took : Descriptor × Bool := match x.written with
      | some w => w
      | none => (x.desc, x.badDesc)
    let may : Prop := x.residency = .saved ∧ took.2 = false ∧ (s.ctxIn x.die .active = none ∨ s.ctxIn x.die .locket = none)
    let reset : Die :=
      { d with late := [], wraps := [], waits := [], released := false, cores := 0, ramp := [], power := .off, debug := .closed }
    (x.residency ≠ .absent → goes (.descriptor c die sys bytes) (s.setCtx c { x with written := some (desc, bad) })) ∧
    (x.residency = .absent → 24 ≤ die → goes (.descriptor c die sys bytes) s) ∧
    (x.residency = .absent → die < 24 → goes (.descriptor c die sys bytes)
      (s.setCtx c { Ctx.absent with die := die, system := sys, desc := desc, badDesc := bad, residency := .saved })) ∧
    (¬may → goes (.restore c) s) ∧
    (may → x.imageNo = none → goes (.restore c) ((s.setCtx c { x with
      desc := took.1, badDesc := took.2, written := none,
      residency := if s.ctxIn x.die .active = none then .active else .locket }).recap x.die)) ∧
    (may → x.imageNo ≠ none → let u := s.openSave c
      (u.imageIn c = none → goes (.restore c) u) ∧
      ∀ i bs, u.imageIn c = some (i, bs) → (u.restoreCtx c i bs = none → goes (.restore c) u) ∧
        ∀ t, u.restoreCtx c i bs = some t → goes (.restore c) (t.retimed u)) ∧
    (die < 24 → goes (.stackHot die hot) (s.setDie die { d with sweep := d.sweepAt s.time, hot := hot })) ∧
    (d.power = .run → goes (.idle die true) (s.setDie die { d with power := .idle })) ∧
    (d.power = .idle → goes (.idle die false) (s.setDie die { d with power := .run })) ∧
    (d.power ≠ (if on then .run else .idle) → goes (.idle die on) s) ∧
    (d.released = true → d.debug ≠ .vendor → goes (.tenantDebug die on) (s.setDie die { d with debug := if on then .tenant else .closed })) ∧
    (d.released = false ∨ d.debug = .vendor → goes (.tenantDebug die on) s) ∧
    (d.released = false → goes (.dieReset die) s) ∧
    (d.released = true → ∃ t, goes (.dieReset die) t ∧ (t.die die).released = false ∧ (t.die die).debug = .closed ∧
      (d.debug ≠ .vendor → t.die die = reset ∧ (∀ e, e ≠ die → t.die e = s.die e) ∧ t.mem = s.mem ∧ t.ctxs = s.ctxs ∧
        ∀ a, a ∈ t.agents ↔ a ∈ s.agents ∧ a.die ≠ die) ∧
      (d.debug = .vendor → (∀ a, Memory.get t.mem a = if a / 2 ^ 36 < 24 then 0 else Memory.get s.mem a) ∧
        ∀ a ∈ t.agents, (s.ctx a.ctx).system = true ∧ a.die ≠ die))

/-- The bezel's registers, the counters that firmware selects, time, and the notice queue (R273, R274, R276-R278). A window's limit is the
last address that it admits (log 15). -/
def Sys2Proof.Machine.firmwareEventsSays : Prop :=
  ∀ (s : State) (die off c n ns id : Nat) (v : DWord) (ev : BitVec 32),
    let d := s.die die
    let z := d.bezel
    let set (z : Bezel) : State := s.setDie die { d with bezel := z }
    let x := s.ctx c
    exec (.bezelWrite die false off v) s = .next s ∧
    (die < 24 →
      exec (.bezelWrite die true 0x00 v) s = .next (set { z with peer := v.extractLsb' 0 24 }) ∧
      exec (.bezelWrite die true 0x04 v) s = .next (set { z with link := v.extractLsb' 0 2 }) ∧
      exec (.bezelWrite die true 0x08 v) s = .next (set { z with rmod := v }) ∧
      ∀ j < 16,
        let w := aget z.wins { base := 0, limit := 0, r := false, w := false, remote := false } j
        let lo : Window := { w with base := v.toNat }
        let hi : Window := { w with limit := v.toNat % 2 ^ 56, r := v.getLsbD 56, w := v.getLsbD 57, remote := v.getLsbD 58 }
        exec (.bezelWrite die true (0x10 + 16 * j) v) s = .next (set { z with wins := aset z.wins j lo }) ∧
        exec (.bezelWrite die true (0x18 + 16 * j) v) s = .next (set { z with wins := aset z.wins j hi })) ∧
    (16 ≤ n → n < 32 → exec (.registerWrite (.counterSel c n ev)) s = .next (s.setCtx c { x with counterSel := aset x.counterSel n ev })) ∧
    (n < 16 ∨ 32 ≤ n → exec (.registerWrite (.counterSel c n ev)) s = .next s) ∧
    (∃ t, exec (.servoStep ns) s = .next t ∧ t.time = s.time + ns ∧ ((∀ e ∈ s.ctxs, (s.ctx e.1).desc.traceMask.getLsbD 8 = false) →
      (∀ e, (s.die e).regions = [] ∧ (s.die e).late = []) → (∀ q ∈ s.reqs, q.accepted = false) → t = { s with time := s.time + ns })) ∧
    (∀ ag w, s.agentOf id = some ag → ag.hold = .sleep w → ∃ t z, exec (.sleepWake id) s = .next t ∧ t.agentOf id = some z ∧
      z = (if w ≤ s.time then { ag with hold := .none, readySince := s.time } else ag) ∧ t = { s with agent := t.agent, others := t.others }) ∧
    (0 < x.noticeUsed → exec (.noticeQueueRoom c) s = .next (s.setCtx c { x with noticeUsed := x.noticeUsed - 1 })) ∧
    ∀ m l, x.noticeWait = m :: l → x.noticeUsed < x.desc.noticeSize →
      ∀ y, let va := x.desc.noticeBase + 16 * (x.noticeTail % x.desc.noticeSize)
        s.translate c x.die va .write = .ok y → y.place ≠ .remote → va % 64 ≤ 48 → bit y.leaf.desc 7 = false →
        (∀ q ∈ s.reqs, q.accepted = true → (q.die, q.bank, q.row) ≠ rowOf y.pa) → ∃ t, exec (.noticePost c) s = .next t ∧ (t.ctx c).noticeWait = l ∧ (t.ctx c).noticeTail = x.noticeTail + 1 ∧
          (t.ctx c).noticeUsed = x.noticeUsed + 1 ∧
          leNat (Memory.read t.mem y.pa 2) = m.kind % 2 ^ 16 ∧ leNat (Memory.read t.mem (y.pa + 2) 2) = x.die % 2 ^ 16 ∧
          leNat (Memory.read t.mem (y.pa + 4) 4) = m.wid.toNat ∧ leNat (Memory.read t.mem (y.pa + 8) 8) = m.addr % 2 ^ 64 ∧
          (∀ a, ¬(y.pa ≤ a ∧ a < y.pa + 16) → Memory.get t.mem a = Memory.get s.mem a) ∧
          ∀ p b, m.poster = some p → s.agentOf p = some b →
            (b.hold = .notice → ∃ z, t.agentOf p = some z ∧ z = { b with hold := .none }) ∧
            (b.hold ≠ .notice → b.wait = .notice → ∃ z, t.agentOf p = some z ∧ z = { b with wait := .none })

/-- Accesses from outside a die (R167, R274, R275): one that every bezel on its way admits has its effect on the bytes that it names and
no others, but the page descriptors of pages that track writes, whose bits in the die's array are set (R282); one that is refused has
none, and is counted (counter 13); that of a remote or PCIe sender is notified too. What a die did for no context of its own charges
its active context, else the one in its locket, else a saved one (log 38). The bytes that an admitted access moves over the mesh and through
the port are counted (R276). Which accesses are held to which checks, and that a refused PCIe write is a remote sender's, is log 47; a
window's limit is the last address that it admits (log 15). -/
def Sys2Proof.Machine.outsideEventsSays : Prop :=
  ∀ (s : State) (die e pa sender : Nat) (b : Byte) (bs : List Byte),
    let z := (s.die die).bezel
    let peers (p q : Nat) : Bool := (s.die p).bezel.peer.getLsbD q && (s.die q).bezel.peer.getLsbD p
    let open_ (z : Bezel) (write remote : Bool) (pa : Nat) : Bool := z.wins.any (fun w =>
      decide (w.2.base ≤ pa) && decide (pa ≤ w.2.limit) && (if write then w.2.w else w.2.r) && (!remote || w.2.remote))
    let quiet (n : Nat) : Prop := ∀ q ∈ s.reqs, q.accepted = true → ∀ i < n, (q.die, q.bank, q.row) ≠ rowOf (pa + i)
    let wrote (t : State) (ws : List Byte) : Prop :=
      let m := Memory.write s.mem pa ws
      let on (l : Leaf) (p : Nat) : Prop := 65536 * p < pa + ws.length ∧ pa < 65536 * p + 65536 ∧ l.maps p = true ∧ bit l.desc 7 = true ∧
        ∃ e ∈ s.ctxs, e.2.residency ≠ .absent ∧ l ∈ leavesOf m 5 0 e.2.desc.root
      (∀ a, (∀ l p, on l p → a < l.at_ ∨ l.at_ + 8 ≤ a) →
        Memory.get t.mem a = if pa ≤ a ∧ a < pa + ws.length then ws.getD (a - pa) 0 else Memory.get s.mem a) ∧
      ∀ l p, on l p → p % 2 ^ 20 ∈ (t.die (p / 2 ^ 20 % 32)).dirty
    let inStack (e n : Nat) : Prop := ∀ i < n, placeOf false (pa + i) = .ok (.stack e)
    (inStack e 1 → quiet 1 →
      let ok (w : Bool) : Bool := decide (e = die) || (peers die e && open_ (s.die e).bezel w false pa)
      (∀ w, ok w = false → exec (.meshAccess die w pa b) s = .next (s.countOn die 13 1)) ∧
      (ok true = true → ∃ t, exec (.meshAccess die true pa b) s = .next t ∧ wrote t [b]) ∧
      (ok false = true → ∃ t, exec (.meshAccess die false pa b) s = .next t ∧ t.mem = s.mem)) ∧
    (inStack e 1 → quiet 1 → sender < 64 →
      let ok (w : Bool) : Bool := z.link.getLsbD 0 && z.rmod.getLsbD sender && open_ z w true pa &&
        (decide (e = die) || (peers die e && open_ (s.die e).bezel w true pa))
      (∀ w, ok w = false → exec (.evofisalAccess die sender w pa b) s = .next (s.denied die pa)) ∧
      (ok true = true → ∃ t, exec (.evofisalAccess die sender true pa b) s = .next t ∧ wrote t [b]) ∧
      (ok false = true → ∃ t, exec (.evofisalAccess die sender false pa b) s = .next t ∧ t.mem = s.mem)) ∧
    (quiet bs.length → bs ≠ [] →
      let ok : Prop := inStack die bs.length ∧ ∀ i < bs.length, open_ z true false (pa + i) = true
      (ok → ∃ t, exec (.pciePeerWrite die pa bs) s = .next t ∧ wrote t bs) ∧
      (¬ok → exec (.pciePeerWrite die pa bs) s = .next (s.denied die pa))) ∧
    (s.ctxIn die .active = none → s.ctxIn die .locket = none → s.ctxIn die .saved = none →
      s.denied die pa = s ∧ ∀ n k, s.countOn die n k = s) ∧
    ∀ c, s.ctxIn die .active = some c ∨ (s.ctxIn die .active = none ∧
        (s.ctxIn die .locket = some c ∨ (s.ctxIn die .locket = none ∧ s.ctxIn die .saved = some c))) →
      s.denied die pa = (s.count c 13 1).notice c { kind := 4, wid := 0xFFFFFFFF, addr := pa, poster := none } ∧
      ∀ n k, s.countOn die n k = s.count c n k

/-- What firmware, the bezel and senders outside a die do. -/
def Obligations.FirmwareAndOutside : Prop := firmwareOrdersSays ∧ firmwareEventsSays ∧ outsideEventsSays

/-! ## Events of waiting words -/

/-- Grants, clasp rounds and the buddy's answers (R136, R175, R177, R195, R218, R234). A request that a resume has brought to another die is
granted on the object as it stands there (log 57). -/
def Obligations.SyncEvents : Prop :=
  ∀ (s : State) (id launch g write : Nat),
    (∀ ag k o nas w, s.agentOf id = some ag → s.isDet ag = false → ag.hold = .acq k o nas → s.waiters.find? (fun x => x.ag == id) = some w →
      let v := s.obj k
      let first : Prop := w.key = k ∧ ∃ x, s.waiters.find? (fun x => x.key == k) = some x ∧ x.ag = id
      let free : Prop := bit v 63 = false ∧ if w.sh then v % 2 ^ 16 < 65535 else v % 2 ^ 16 = 0
      (∀ x ∈ s.waiters, x.key.here = true) →
      (w.key = k → ¬(first ∧ free) → exec (.acqGrant id) s = .next s) ∧
      (first → free → exec (.acqGrant id) s = .next
        ((({ s with waiters := s.waiters.filter (fun x => x.ag != id) }).grant id k o (v / 2 ^ 16 % 2 ^ 16 + 65535)).within id
          (fun u => u.resumeNas nas)))) ∧
    ((∀ w ∈ s.waiters, w.key.here = true) → s.found = s) ∧
    (∀ ag o k w, s.waiters = [w] → w.key.here = false → s.agentOf w.ag = some ag →
      ((∃ x nas, ag.hold = .acq x o nas) ∨ ((∀ x p nas, ag.hold ≠ .acq x p nas) ∧ ∃ x nas, ag.wait = .acq x o nas)) →
      s.keyOf ag o = .ok k → s.found = { s with waiters := [{ w with key := k }] }) ∧
    (∀ (s : State) (nas : Nas), s.agent.nasBad nas s.npc = none → Issued s (s.resumeNas nas) nas s.agent) ∧
    (∀ x, s.launchOf launch = some x → x.det = false → exec (.claspRoundComplete launch g) s = .next (s.claspRound launch g)) ∧
    (∀ x gr, s.launchOf launch = some x → x.det = false → s.groupOf launch g = some gr → (∀ a ∈ s.agents, a.launch = launch → g ∉ a.arriving) →
      let r := s.round launch g
      let gone (w : Nat) : Prop := match s.warpOf launch w with
        | some a => a.alive = false
        | none => ∀ a ∈ s.savedAgents, a.kind = .warp → a.launch = launch → a.wid.toNat = w → a.alive = false
      let all : Prop := r.arrived ≠ [] ∧ ∀ w ∈ gr.members, w ∈ r.arrived ∨ gone w
      r.waiting = [] →
        (all → exec (.claspRoundComplete launch g) s = .next (s.setRound { r with passing := r.arrived ++ r.passing, arrived := [] })) ∧
        (¬all → exec (.claspRoundComplete launch g) s = .next s)) ∧
    (∀ x gr a o w nas k, s.launchOf launch = some x → x.det = false → s.groupOf launch g = some gr →
      (∀ a ∈ s.agents, a.launch = launch → g ∉ a.arriving) → s.agentOf id = some a → a.hold = .clasp o w nas →
      s.keyOf a (claspObj gr) = .ok k →
      let r := s.round launch g
      let u := (s.grant id k (claspObj gr) (s.obj k / 2 ^ 16 % 2 ^ 16)).setRound
        { r with waiting := [], passing := r.passing.filter (fun y => y != a.wid.toNat) }
      r.arrived = [] → r.waiting = [id] →
        (a.wid.toNat ∉ r.passing ∨ bit (s.obj k) 63 = true → exec (.claspRoundComplete launch g) s = .next s) ∧
        (a.wid.toNat ∈ r.passing → bit (s.obj k) 63 = false → exec (.claspRoundComplete launch g) s = .next
          ((u.upd id (fun a => { a with arrived := a.arrived.filter (fun y => y != g), arrPending := false })).within id
            (fun v => v.resumeNas nas)))) ∧
    (∀ m, s.mirrors.find? (fun x => x.id == write) = some m →
      exec (.mirrorAcknowledgement write true) s = .next { s with mirrors := s.mirrors.filter (fun x => x.id != write) } ∧
      let u : State := { s with mirrors := s.mirrors.filter (fun x => x.id != write) }
      (s.agentOf m.ag = none → exec (.mirrorAcknowledgement write false) s = .next u) ∧
      ∀ a, s.agentOf m.ag = some a →
        (a.kind = .warp → exec (.mirrorAcknowledgement write false) s = .next
          { s with mirrors := s.mirrors.map (fun x => if x.id = write then { x with failed := true } else x) }) ∧
        let word := a.inflight.find? (fun f => !f.finished && m.copy.isSome && m.copy == f.copyId)
        (a.kind = .seq → word = none → exec (.mirrorAcknowledgement write false) s = .next u) ∧
        ∀ f, a.kind = .seq → word = some f → exec (.mirrorAcknowledgement write false) s = .next (u.upd m.ag (fun x =>
          if x.status = .faulted ∨ x.status = .retired then x else { x with
            status := .faulted, hold := .none
            seqFault := some { cause := 0x0F, mask := fullMask, addr := m.va, fpc := f.pc, rpc := none, hnd := false } })))

/-- One thread of two matched loads (R240): one value read for both where both execute it with one address; otherwise a read of each
that executes it, and PDIV where they differ. A thread that has to wait leaves its access in the order of demand activations (R157); where
the loads stand in different quanta, the wait of one does not undo the read of the other (R193; `apart`). -/
def Sys2Proof.Machine.pairThreadSays : Prop :=
  ∀ (s : State) (c u t : Nat) (ac au : Agent) (f g : Inflight) (m : MemOp) (apart : Bool),
    s.agentOf c = some ac → s.agentOf u = some au →
    let ea := (ac.target m f.base.toNat (f.av.getD t 0) t).2
    let eb := (au.target m g.base.toNat (g.av.getD t 0) t).2
    let pdiv (id : Nat) (s : State) : State := s.upd id (fun x => { x with wst := x.wst ||| 2 })
    let read (s : State) (id slot : Nat) : State × Bool := match s.threadStep id slot m t m.elements with
      | none => (s.joinThread id slot m t, false)
      | some s => (s, true)
    let lone (id slot : Nat) : State × Bool := match s.threadStep id slot m t m.elements with
      | none => ((if apart then pdiv id s else s).joinThread id slot m t, false)
      | some s => (pdiv id s, true)
    let x := read s c f.slot
    let y := read x.1 u g.slot
    let acted : Prop := mbit (ac.cbmOf f.slot) t ∨ mbit f.fmask t ∨ mbit (au.cbmOf g.slot) t ∨ mbit g.fmask t
    let did := s.pairThread c u f g m apart t
    (mbit f.e t = false → mbit g.e t = false → did = (s, true)) ∧
    (mbit f.e t = true → mbit g.e t = false → did = lone c f.slot) ∧
    (mbit f.e t = false → mbit g.e t = true → did = lone u g.slot) ∧
    (mbit f.e t = true → mbit g.e t = true →
      (ea ≠ eb → did = (pdiv u (pdiv c y.1), x.2 && y.2)) ∧
      (ea = eb → acted ∨ mbit f.pa t ∨ mbit g.pa t → did = (y.1, x.2 && y.2)) ∧
      (ea = eb → ¬acted → mbit f.pa t = false → mbit g.pa t = false →
        let read := if s.isDet ac then s.threadAccess { ac with detBuf := [] } { f with aux := min f.aux g.aux } m t else s.threadAccess ac f m t
        (read = .wait → did = ((s.joinThread c f.slot m t).joinThread u g.slot m t, false)) ∧
        (∀ k a, read = .fault k a →
          ((s.threadFails c f false t k a).bind (fun s => s.threadFails u g false t k a) = none → did = (s, false)) ∧
          ∀ v, (s.threadFails c f false t k a).bind (fun s => s.threadFails u g false t k a) = some v → did = (v, true)) ∧
        (∀ s' ws pois rep, read = .done s' ws pois rep →
          let ends (wc wu : List Word × Bool) : State × Bool :=
            ((s'.upd c (fun x => x.threadDone f false t ea wc.1 wc.2 rep)).upd u (fun x => x.threadDone g false t ea wu.1 wu.2 rep), true)
          (s'.isDet ac = false → s'.isDet au = false → did = ends (ws, pois) (ws, pois)) ∧
          ∀ tc tu, s'.isDet ac = true → s'.isDet au = true → (ac.target m f.base.toNat (f.av.getD t 0) t).1 = .ok tc →
            (au.target m g.base.toNat (g.av.getD t 0) t).1 = .ok tu →
            let x := s'.seen ac tc (tySize m.ty) ac.detBuf
            let y := s'.seen au tu (tySize m.ty) au.detBuf
            did = ends (loadRegs m.ty x.1, x.2) (loadRegs m.ty y.1, y.2))))

/-- The threads of two matched loads act in thread order, up to one that has to wait (R157, R240); where the loads stand in different quanta,
all of them that can (R193). -/
def Sys2Proof.Machine.pairThreadsSays : Prop :=
  ∀ (s : State) (c u t : Nat) (ts : List Nat) (f g : Inflight) (m : MemOp) (apart : Bool),
    let x := s.pairThread c u f g m apart t
    let y := x.1.pairThreads c u f g m apart ts
    s.pairThreads c u f g m apart [] = (s, true) ∧
    (x.2 = false → apart = false → s.pairThreads c u f g m apart (t :: ts) = (x.1, false)) ∧
    (x.2 = true ∨ apart = true → s.pairThreads c u f g m apart (t :: ts) = (y.1, x.2 && y.2))

/-- Matching (R239, R241): a load whose partner is gone, or has died without its match, goes on alone, as do two whose program counters
differ, both setting PDIV; matched ones are performed together, though one of the warps has died since. A word alone that executed in no
thread goes, but for what LA = 15 keeps pending (R69). -/
def Sys2Proof.Machine.pairMatchSays : Prop :=
  ∀ (s : State) (id slot : Nat) (ag : Agent) (f : Inflight) (m : MemOp), s.agentOf id = some ag → (s.ctx ag.ctx).resident = true →
    ag.inSlot slot = some f → memOp f.instr = some m → f.pwNo ≠ 0 → ag.hold = .none →
    let gone (f : Inflight) : Bool := f.finished && f.pwNo == 0 && !(f.la == 15 && !f.dests.isEmpty)
    let alone (u : State) (id : Nat) : State := u.upd id (fun x => { x with
      inflight := (x.inflight.map (fun g => if g.pwNo = f.pwNo then { g with alone := true, pwNo := 0 } else g)).filter (fun f => !gone f) })
    let pdiv (u : State) (id : Nat) : State := u.upd id (fun x => { x with wst := x.wst ||| 2 })
    let goes (t : State) : Prop := exec (.pwLoadMatch id slot) s = .next t
    (s.partner ag = none → goes (alone s id)) ∧
    ∀ p, s.partner ag = some p → s.agentOf p.id = some p → p.id ≠ id → p.hold = .none →
      (p.inflight.find? (fun g => g.pwNo == f.pwNo) = none →
        (p.alive = false ∨ f.pwNo ≤ p.pwCount → goes (alone s id)) ∧
        (p.alive = true → p.pwCount < f.pwNo → goes s)) ∧
      ∀ g, p.inflight.find? (fun g => g.pwNo == f.pwNo) = some g →
        (g.pc ≠ f.pc → goes (pdiv (pdiv (alone (alone s id) p.id) id) p.id)) ∧
        (g.pc = f.pc →
          let may : Prop := s.headV ag slot = true ∧ (g.finished = true ∨ s.headV p g.slot = true) ∧ s.halts ag = false ∧ s.halts p = false
          let ts := threadsOf (f.e ||| g.e)
          let apart := s.quantaApart ag f g
          let r := if ag.wid.toNat < p.wid.toNat then s.pairThreads id p.id f g m apart ts else s.pairThreads p.id id g f m apart ts
          let full (id slot : Nat) : Prop := ∃ x, r.1.agentOf id = some x ∧ x.cbmOf slot = fullMask
          let ends : Prop := r.2 = true ∨ (apart = true ∧ (full id slot ∨ full p.id g.slot))
          (apart = true ↔ s.isDet ag = true ∧ ∃ l, s.launchOf ag.launch = some l ∧ f.aux / l.quantum ≠ g.aux / l.quantum) ∧
          (¬may → goes s) ∧
          (may → ¬ends → goes ((r.1.endReplay id).endReplay p.id)) ∧
          (may → ends →
            goes (((((alone (alone r.1 id) p.id).completeFull id slot).completeFull p.id g.slot).endReplay id).endReplay p.id)))

/-- Pair-weight loads (R239-R241). -/
def Obligations.PairLoads : Prop := pairMatchSays ∧ pairThreadsSays ∧ pairThreadSays

/-! ## Events of the scheduler -/

/-- Records as the scheduler reads them and orders them (R201, R202, R212, R273): what a record becomes once read; a poster's record is
read when its writes are visible; ageing counts by the millisecond, and the oldest starved record goes first. A record that cannot be read is
dropped and counted, and its denial by the mesh is (R276). -/
def Sys2Proof.Machine.recordSays : Prop :=
  ∀ (s : State) (vf home c : Nat) (q : QRec),
    let rest := s.queue.filter (fun x => !(x.vf == q.vf && x.record == q.record))
    let u := s.touch c home q.record 64
    let aged (q : QRec) : QRec :=
      let n := if q.ready then min (7 - q.prio) ((s.time - q.since) / 1000000) else 0
      { q with prio := q.prio + n, since := q.since + 1000000 * n }
    let starved (q : QRec) : Prop := q.prio = 7 ∧ q.since + 1000000 ≤ s.time
    let mine (q : QRec) : Prop := ∃ p ∈ s.queue, p.vf = vf ∧ p.ready = true ∧ q = aged p
    (∀ e, s.denies c e = s.count c 13 (if e = 0x1C then 1 else 0)) ∧
    (s.vfHome vf = none → s.countDrop vf = s) ∧ (s.vfHome vf = some (home, c) → s.countDrop vf = s.count c 15 1) ∧
    (s.vfHome q.vf = none → s.readRecord q = { s with queue := rest }) ∧
    (s.vfHome q.vf = some (home, c) →
      (∀ e, u.readNum c home q.record 64 = .error e → s.readRecord q = (({ u with queue := rest }).denies c e).countDrop q.vf) ∧
      ∀ n, u.readNum c home q.record 64 = .ok n → s.readRecord q = { u with queue := rest ++
        [{ q with poster := none, ready := n / 2 ^ 48 % 2 ^ 16 == 0, prio := n / 2 ^ 120 % 8, since := s.time }] }) ∧
    ((∀ e ∈ s.ctxs, (s.ctx e.1).landed = []) →
      ((∀ p ∈ s.queue, ∀ id at_, p.poster = some (id, at_) → s.wroteBefore id at_ = false) → s.absorb = s) ∧
      (∀ p id at_, s.queue.filter (fun p => p.poster.isSome) = [p] → p.poster = some (id, at_) → s.wroteBefore id at_ = true →
        s.absorb = s.readRecord p)) ∧
    ((∀ p ∈ s.queue, p.prio ≤ 7) →
      ((∃ p, mine p ∧ starved p) → ∃ p, s.readyRecs vf = [p] ∧ mine p ∧ starved p ∧ ∀ r, mine r → starved r → p.since ≤ r.since) ∧
      ((∀ p, mine p → ¬starved p) → (∀ p, p ∈ s.readyRecs vf ↔ mine p) ∧
        (s.readyRecs vf).Pairwise (fun a b => b.prio < a.prio ∨ (a.prio = b.prio ∧ a.since ≤ b.since))))

/-- The checks of a record at dispatch (R199, R200, R203, R204): one that cannot be read, or whose completion word cannot be written, is
dropped; one that breaks a condition is rejected; another is a launch or a copy node with the fields of R199. -/
def Sys2Proof.Machine.recordChecksSays : Prop :=
  ∀ (s : State) (q : QRec) (d c n : Nat), s.vfHome q.vf = some (d, c) → s.readNum c d q.record 64 = .ok n →
    let f (off size : Nat) : Nat := n / 256 ^ off % 256 ^ size
    let cw := f 0x38 8
    let copy : Prop := bit n (8 * 0x16 + 2) = true
    let gcnt := f 0x18 2 % 512
    let pw := f 0x18 2 / 512 % 32
    let bad : Prop := 16 ≤ f 0x0F 1 ∨ 9 < f 0x16 1 / 16 ∨ 2 ^ 14 ≤ f 0x18 2 ∨ 256 < gcnt ∨ 20 < pw ∨
      256 < f 0x20 2 ∨ 512 < f 0x22 2 ∨ 256 < f 0x24 2 ∨ 256 < f 0x26 2 ∨ f 0x28 8 % 8 ≠ 0 ∨ (f 0x28 8 = 0 ∧ gcnt ≠ 0) ∨ (f 0x28 8 ≠ 0 ∧ gcnt = 0) ∨
      f 0x30 8 % 8 ≠ 0 ∨ (f 0x30 8 = 0 ∧ f 0x1A 1 ≠ 0) ∨
      (copy ∧ (bit n (8 * 0x16 + 3) = true ∨ f 0x00 6 ≠ 0 ∨ f 0x10 6 ≠ 0 ∨ f 0x17 1 ≠ 0 ∨ f 0x18 2 % 2 ^ 14 ≠ 0 ∨ f 0x1B 5 ≠ 0 ∨ f 0x20 8 ≠ 0 ∨ f 0x28 8 ≠ 0)) ∨
      (¬copy ∧ (f 0x17 1 = 0 ∨ 32 < f 0x17 1 ∨ f 0x00 6 % 8 ≠ 0 ∨ f 0x08 7 % 8 ≠ 0))
    let dropped : Prop := cw % 8 ≠ 0 ∨ ∃ e, s.translate c d cw .write = .error e
    let listed : Prop := ∀ i < f 0x1A 1, ∃ a, s.readNum c d (f 0x30 8 + 8 * i) 8 = .ok a
    let it (gs : List Group) : Launch := launchOfRec n q.record c q.vf q.prio s.time gs
    (recBad n = true ↔ bad) ∧
    (dropped → s.takeRecord q = .gone) ∧
    (¬dropped → bad ∨ ¬listed → s.takeRecord q = .bad n) ∧
    (¬dropped → ¬bad → listed → copy → s.takeRecord q = .node n (it [])) ∧
    (¬dropped → ¬bad → listed → ¬copy →
      (s.readGroups c d n = none → s.takeRecord q = .bad n) ∧
      ∀ gs, s.readGroups c d n = some gs →
        let broken := groupsBad gs (bit n (8 * 0x16 + 3)) (8 * f 0x17 1) (f 0x20 2)
        s.takeRecord q = if broken then .bad n else .launch n (it gs)) ∧
    (∀ gs, let x := it gs
      x.record = q.record ∧ x.ctx = c ∧ x.vf = q.vf ∧ x.queuePrio = q.prio ∧ x.dispatched = s.time ∧ x.groups = gs ∧ x.code = f 0x00 6 ∧
      x.args = f 0x08 7 ∧ x.prio = f 0x0F 1 % 8 ∧ x.spread = bit n (8 * 0x0F + 3) ∧ x.nx = f 0x10 2 ∧ x.ny = f 0x12 2 ∧ x.nz = f 0x14 2 ∧
      x.det = bit n (8 * 0x16) ∧ x.pre = bit n (8 * 0x16 + 1) ∧ x.pair = bit n (8 * 0x16 + 3) ∧ x.qn = f 0x16 1 / 16 ∧ x.vn = 8 * f 0x17 1 ∧
      x.pw = pw ∧ x.priv = f 0x1B 5 ∧ x.scr = 1024 * f 0x20 2 ∧ x.wneed = 1024 * f 0x22 2 ∧ x.xneed = 1024 * f 0x24 2 ∧
      x.cneed = 1024 * f 0x26 2 ∧ x.scnt = f 0x1A 1 ∧ x.succ = f 0x30 8 ∧ x.cword = cw ∧ x.admitted = [] ∧ x.exited = [] ∧ x.triggered = [] ∧
      x.released = false ∧ x.ended = false ∧ x.commits = 0)

/-- A group-table entry (R203, R204): its checks, and its members, by ranges or by a bitmap; and the checks of a whole table: of how many
groups a warp is, what a PAIR group holds, the flag of the record, and what fits on a core. -/
def Sys2Proof.Machine.groupChecksSays : Prop :=
  ∀ (s : State) (c die a total n : Nat) (gs : List Group) (pair : Bool) (vn scr : Nat), s.readNum c die a 48 = .ok n →
    let f (off size : Nat) : Nat := n / 256 ^ off % 256 ^ size
    let clasp := f 8 8
    let gang := bit n 4
    let bad : Prop := 32 ≤ f 0 1 ∨ 8 ≤ f 1 1 ∨ f 2 6 ≠ 0 ∨ clasp % 8 ≠ 0 ∨ (clasp ≠ 0 ∧ gang = false)
    let nr := f 1 1 / 2 % 4 + 1
    let first (i : Nat) : Nat := f (16 + 8 * i) 4
    let last (i : Nat) : Nat := f (20 + 8 * i) 4
    let entry (g : Group) : Prop :=
      g.fd = bit n 0 ∧ g.pair = bit n 1 ∧ g.cor = bit n 2 ∧ g.drain = bit n 3 ∧ g.gang = gang ∧ g.clasp = clasp
    let ranged : Prop := ∀ i < 4, if i < nr then first i ≤ last i ∧ last i < total else first i = 0 ∧ last i = 0
    let of (w : Nat) : List Group := gs.filter (fun g => g.members.contains w)
    let fits (g : Group) : Prop := g.members.length ≤ 128 ∧ g.members.length ≤ 4096 / vn ∧ allocCount gs g.members * scr ≤ 256
    (bad → s.readGroup c die a total = none) ∧
    (¬bad → bit n 8 = false →
      (¬ranged → s.readGroup c die a total = none) ∧
      (ranged → ∃ g, s.readGroup c die a total = some g ∧ entry g ∧
        ∀ w, w ∈ g.members ↔ ∃ i < nr, first i ≤ w ∧ w ≤ last i)) ∧
    (¬bad → bit n 8 = true →
      (total < f 0x18 4 + f 0x1C 4 → s.readGroup c die a total = none) ∧
      (f 0x18 4 + f 0x1C 4 ≤ total →
        let bytes := s.readNum c die (f 0x10 8) ((f 0x1C 4 + 7) / 8)
        (∀ e, bytes = .error e → s.readGroup c die a total = none) ∧
        ∀ m, bytes = .ok m → ∃ g, s.readGroup c die a total = some g ∧ entry g ∧
          ∀ w, w ∈ g.members ↔ ∃ i < f 0x1C 4, bit m i = true ∧ w = f 0x18 4 + i)) ∧
    (groupsBad gs pair vn scr = true ↔
      (∃ g ∈ gs, ∃ w ∈ g.members, 4 < (of w).length ∨ 1 < ((of w).filter (·.pair)).length) ∨
      (∃ g ∈ gs, (g.pair = true ∧ g.members.length ≠ 2) ∨ ((g.pair = true ∨ g.cor = true) ∧ ¬fits g)) ∨
      ¬(pair = true ↔ ∃ g ∈ gs, g.pair = true))

/-- Arrivals that have disarmed their slot (R209, R346): one takes effect once what the arming warp wrote before its LARM is visible; the
payload goes to offset 0 of the record's ARGS, and its join counter is decremented. And what the dispatcher opens before it reads (R155). -/
def Sys2Proof.Machine.landingSays : Prop :=
  ∀ (s : State) (c vf : Nat) (r : Arrival) (v : Nat) (q : QRec) (l : List QRec),
    let x := s.ctx c
    let u := s.touch c x.die (r.record + 8) 7
    (x.landed = [] → s.landCtx c = s) ∧
    (x.landed = [(r, v)] →
      (s.wroteBefore r.by_.1 r.by_.2 = false → s.landCtx c = s) ∧
      (s.wroteBefore r.by_.1 r.by_.2 = true → s.landCtx c = (s.setCtx c { x with landed := [] }).land c r v)) ∧
    (∀ e, u.readNum c x.die (r.record + 8) 7 = .error e → s.land c r v = (u.denies c e).count c 15 1) ∧
    (∀ args, u.readNum c x.die (r.record + 8) 7 = .ok args →
      (∀ e, u.writeRun c x.die 0 args (leBytes 8 v) = .error e → s.land c r v = (u.denies c e).unjoin c x.die x.desc.vf r.record) ∧
      ∀ w, u.writeRun c x.die 0 args (leBytes 8 v) = .ok w → s.land c r v = w.unjoin c x.die x.desc.vf r.record) ∧
    s.openReady vf [] = s ∧
    (∀ d h, s.vfHome vf = some (d, h) →
      let t := s.openRecord h d q.record
      s.openReady vf (q :: l) = if t.placeable q then t else t.openReady vf l) ∧
    (∀ d h n, let t := s.touch h d q.record 64
      t.readNum h d q.record 64 = .ok n → bit n (8 * 0x16 + 2) = true ∨ n / 2 ^ 192 % 512 = 0 →
      s.openRecord h d q.record = t.touch h d (n / 2 ^ 384 % 2 ^ 64) (8 * (n / 2 ^ 208 % 2 ^ 8)))

/-- The writes of a posting warp issued before a place are visible (R180, R212): complete, committed, and acknowledged by the buddy; those
of a warp that a saved image holds are not known to be. -/
def Sys2Proof.Machine.visibleSays : Prop :=
  ∀ (s : State) (id : Nat) (at_ : IssueAt),
    (∀ a, s.agentOf id = some a → (s.wroteBefore id at_ = true ↔
      (a.status = .retired ∨ (a.caught = false ∧ ∀ f ∈ a.inflight, f.finished = true ∨ at_.no ≤ f.no ∨ writesVG f.instr = false)) ∧
      (∀ e ∈ a.detBuf, at_.clock ≤ e.clock) ∧ ∀ m ∈ s.mirrors, m.ag = id → m.copy = none → m.failed = true)) ∧
    (s.agentOf id = none → (s.wroteBefore id at_ = true ↔ ∀ im ∈ s.images, ∀ a ∈ im.agents, a.id ≠ id))

/-- The end of a launch (R200, R201, R206): its completion word; its successors in list order, where it retired; nothing of it is left.
A release decrements the join counter of a record, and at 0 the record is ready, in the queue or in the saved image that holds it. -/
def Sys2Proof.Machine.retireSays : Prop :=
  ∀ (s : State) (l st c d vf a succ cnt : Nat),
    (∀ v, s.writeRun c d 0 a (leBytes 8 (2 ^ 63 + st * 2 ^ 60 + s.time % 2 ^ 48)) = .ok v → s.putCompletion c d a st = v) ∧
    (∀ e, s.writeRun c d 0 a (leBytes 8 (2 ^ 63 + st * 2 ^ 60 + s.time % 2 ^ 48)) = .error e → s.putCompletion c d a st = s.denies c e) ∧
    (∀ x, s.launchOf l = some x →
      let home := (s.ctx x.ctx).die
      let u := s.putCompletion x.ctx home x.cword st
      let v := if st = 0 ∧ x.released = false then u.releaseSuccs x.ctx home x.vf x.succ x.scnt else u
      let t := s.retireLaunch l st
      t.mem = v.mem ∧ t.queue = v.queue ∧ t.ctxs = v.ctxs ∧ t.launchOf l = none ∧ (∀ m, m ≠ l → t.launchOf m = v.launchOf m) ∧
      (∀ b, b ∈ t.bufs ↔ b ∈ v.bufs ∧ b.launch ≠ l) ∧ (∀ b, b ∈ t.agents ↔ b ∈ v.agents ∧ b.launch ≠ l) ∧
      ∀ r, r ∈ t.rounds ↔ r ∈ v.rounds ∧ r.launch ≠ l) ∧
    s.releaseSuccs c d vf succ 0 = s ∧
    (let v := (s.releaseSuccs c d vf succ cnt).touch c d (succ + 8 * cnt) 8
     (∀ e, v.readNum c d (succ + 8 * cnt) 8 = .error e → s.releaseSuccs c d vf succ (cnt + 1) = (v.denies c e).countDrop vf) ∧
     ∀ r, v.readNum c d (succ + 8 * cnt) 8 = .ok r → s.releaseSuccs c d vf succ (cnt + 1) = v.unjoin c d vf r) ∧
    (let u := s.touch c d (a + 6) 2
     let bad := u.runWritable c d (a + 6) 2 true
     (∀ e, u.readNum c d (a + 6) 2 = .error e → s.unjoin c d vf a = (u.denies c e).countDrop vf) ∧
     ∀ j, u.readNum c d (a + 6) 2 = .ok j →
      (∀ e, bad = some e → s.unjoin c d vf a = (u.denies c e).countDrop vf) ∧
      (bad = none → j = 0 → s.unjoin c d vf a = u.countDrop vf) ∧
      (bad = none → j ≠ 0 → ∀ v, u.writeRun c d 0 (a + 6) (leBytes 2 (j - 1)) = .ok v →
        (j ≠ 1 → s.unjoin c d vf a = v) ∧ (j = 1 → s.unjoin c d vf a = v.makeReady vf a))) ∧
    (let it (l : List QRec) : Option QRec := l.find? (fun q => q.vf == vf && q.record == a && q.poster.isNone && !q.ready)
     (it s.queue = none → (∀ i ∈ s.images, it i.queue = none) → s.makeReady vf a = s) ∧
     ((∀ i ∈ s.images, it i.queue = none) → ∀ p, it s.queue = some p → s.makeReady vf a =
       { s with queue := s.queue.filter (fun x => !(x.vf == vf && x.record == a)) ++ [{ p with ready := true, since := s.time }] }) ∧
     ∀ i p, it s.queue = none → s.images = [i] → it i.queue = some p → s.makeReady vf a =
       { s with images := [{ i with queue := i.queue.filter (fun x => !(x.vf == vf && x.record == a)) ++ [{ p with ready := true, since := s.time }] }] })

/-- A launch has ended (R206): all its warps have been admitted and are done with all that they issued, its copies among it, and
whatever of it a saved image holds is done too. -/
def Sys2Proof.Machine.launchDoneSays : Prop :=
  ∀ (s : State) (l : Nat) (x : Launch), s.launchDone l x = true ↔ x.next = none ∧
    (∀ a ∈ s.agents, a.launch = l → a.status = .retired ∧ a.detBuf = [] ∧ (∀ f ∈ a.inflight, f.finished = true) ∧
      ∀ r ∈ s.reqs, r.ag ≠ a.id) ∧
    (∀ c ∈ s.copies, c.launch ≠ l) ∧ (∀ a ∈ s.savedAgents, a.launch = l → a.status = .retired) ∧
    ∀ i ∈ s.images, (∃ e ∈ s.ctxs, e.2.residency = .saved ∧ e.2.imageNo = some i.no) → ∀ c ∈ i.copies, c.launch ≠ l

/-- Submission, ageing, dispatch, retirement, triggers and arrivals (R199-R202, R206-R209, R273). That an arrival which LINK[1] or a window
refuses counts as a denial is the model's choice (log 47), as is the context that the die charges (log 38). -/
def Sys2Proof.Machine.queueEventsSays : Prop :=
  ∀ (s : State) (vf die launch c home sender : Nat) (addr v : DWord),
    (s.vfHome vf = none → exec (.submit vf addr) s = .next s) ∧
    (s.vfHome vf = some (home, c) → (addr.toNat % 64 ≠ 0 ∨ s.submitted vf addr.toNat = true) →
      exec (.submit vf addr) s = .next (s.count c 15 1)) ∧
    (s.vfHome vf = some (home, c) → addr.toNat % 64 = 0 → s.submitted vf addr.toNat = false →
      let q : QRec := { record := addr.toNat, vf := vf, poster := none, ready := false, prio := 0, since := s.time }
      exec (.submit vf addr) s = .next (({ s with queue := s.queue ++ [q] }).readRecord q)) ∧
    (∃ t, exec (.recordAgeing addr.toNat) s = .next t ∧ t = { s with queue := t.queue } ∧ ∀ q, q ∈ t.queue ↔
      let old (q : QRec) : Prop := q.ready = true ∧ q.record = addr.toNat ∧ q.prio < 7 ∧ q.since + 1000000 ≤ s.time
      (q ∈ s.queue ∧ ¬old q) ∨ ∃ p ∈ s.queue, old p ∧ q = { p with prio := p.prio + 1, since := p.since + 1000000 }) ∧
    (let u := s.absorb.openReady vf (s.absorb.readyRecs vf)
     (∀ q, (u.readyRecs vf).find? u.placeable = some q → u.dispatchStopped vf = false → u.outranked vf q.prio = false →
       exec (.taskDispatch vf die) s = .next (u.dispatch q die)) ∧
     ((u.readyRecs vf).find? u.placeable = none → exec (.taskDispatch vf die) s = .next u)) ∧
    (∀ x, s.launchOf launch = some x →
      (s.launchDone launch x = true → exec (.launchRetire launch) s = .next (s.retireLaunch launch (if x.ended then 3 else 0))) ∧
      (s.launchDone launch x = false → exec (.launchRetire launch) s = .next s) ∧
      (x.released = false → x.ended = false → x.next = none → x.triggered ≠ [] → (∀ w < x.warps, s.letGo launch w x = true) →
        exec (.triggerRelease launch) s = .next ((s.releaseSuccs x.ctx (s.ctx x.ctx).die x.vf x.succ x.scnt).updLaunch launch
          (fun y => { y with released := true })))) ∧
    (∀ x w, s.letGo launch w x = true ↔ match s.warpOf launch w with
      | none => w ∈ x.exited
      | some a => if a.status = .retired then a.detBuf = [] else ∃ p, a.trig = some p ∧ s.wroteBefore a.id p = true) ∧
    (∀ q, s.placeable q = match s.takeRecord q with
      | .launch _ x => x.nx * x.ny * x.nz == 0 || s.admissible (s.handles + 1) x
      | _ => true) ∧
    (let z := (s.die die).bezel
     let ok (sender : Option Nat) : Bool := z.link.getLsbD 1 && z.wins.any (fun w => decide (w.2.base ≤ addr.toNat) &&
         decide (addr.toNat ≤ w.2.limit) && w.2.w && (sender.isNone || w.2.remote)) &&
       (match sender with
         | none => true
         | some m => z.link.getLsbD 0 && decide (m < 64) && z.rmod.getLsbD m)
     let lands (sender : Option Nat) : State := if ok sender then
      match s.ctxs.find? (fun e => e.2.die == die && (e.2.residency == .active || e.2.residency == .locket) &&
          decide (e.2.desc.ab ≤ addr.toNat) && decide (addr.toNat < e.2.desc.ab + 64 * 256) && (addr.toNat - e.2.desc.ab) % 64 == 0) with
      | none => s
      | some (c, x) =>
        let i := (addr.toNat - x.desc.ab) / 64
        let u := s.count c 11 (if sender.isSome then 8 else 0)
        match aget? x.arrivals i with
        | none => u.count c 15 1
        | some r =>
          if r.tag = v.extractLsb' 56 8 then
            let y := u.ctx c
            (u.setCtx c { y with arrivals := adel x.arrivals i, landed := y.landed ++ [(r, v.toNat % 2 ^ 56)] }).landCtx c
          else u.count c 15 1
      else s.denied die addr.toNat
     exec (.arrival die addr v) s = .next (lands none) ∧ exec (.evofisalArrival die sender addr v) s = .next (lands (some sender)))

/-- A dispatched record (R200, R202): refused with ST = 001 in its completion word, made a launch, or a copy, a node whose descriptor fails
ending with ST = 100; or, where it can no longer be read, counted. -/
def Sys2Proof.Machine.dispatchSays : Prop :=
  ∀ (s : State) (q : QRec) (die d c : Nat), s.vfHome q.vf = some (d, c) →
    let u : State := { s with queue := s.queue.filter (fun x => !(x.vf == q.vf && x.record == q.record)) }
    let l := s.handles + 1
    let done (st : Nat) : Nat := 2 ^ 63 + st * 2 ^ 60 + s.time % 2 ^ 48
    (∀ n, s.takeRecord q = .bad n → ∀ v, u.writeRun c d 0 (n / 2 ^ 448 % 2 ^ 64) (leBytes 8 (done 1)) = .ok v →
      s.dispatch q die = v) ∧
    (∀ n x, s.takeRecord q = .launch n x → x.warps ≠ 0 → s.dispatch q die = { u with
      launches := aset s.launches l x, handles := l
      ctxs := s.ctxs.map (fun e => if e.2.desc.vf = q.vf then (e.1, { e.2 with stale := [] }) else e) }) ∧
    (∀ n x, s.takeRecord q = .node n x →
      let on := (u.ctxOn q.vf die).getD c
      let w := ({ u with launches := aset u.launches l x }).touch on die x.args 32
      (∀ e, w.nodeCopy l die on x = .error e →
        s.dispatch q die = (({ w with handles := w.handles + 1 }).faulting die on x.args e).retireLaunch l 4) ∧
      ∀ z, w.nodeCopy l die on x = .ok z → s.dispatch q die = { w with copies := w.copies ++ [z], handles := w.handles + 2 }) ∧
    (s.takeRecord q = .gone → s.dispatch q die = u.countDrop q.vf)

/-- The events of the scheduler (R199-R209), the checks of a record, and its dispatch. What a refused arrival counts as is log 47. -/
def Obligations.Queues : Prop :=
  queueEventsSays ∧ recordSays ∧ recordChecksSays ∧ groupChecksSays ∧ landingSays ∧ visibleSays ∧ retireSays ∧ launchDoneSays ∧ dispatchSays

/-- A launch with no warps (R208): it retires when it is dispatched; its completion word carries ST = 000 and its successors are
released. -/
def Obligations.EmptyLaunch : Prop :=
  ∀ (s : State) (q : QRec) (die d c n : Nat) (x : Launch), s.vfHome q.vf = some (d, c) → s.takeRecord q = .launch n x →
    (x.nx = 0 ∨ x.ny = 0 ∨ x.nz = 0) →
    let l := s.handles + 1
    let u : State := { s with
      queue := s.queue.filter (fun y => !(y.vf == q.vf && y.record == q.record)), launches := aset s.launches l x, handles := l
      ctxs := s.ctxs.map (fun e => if e.2.desc.vf = q.vf then (e.1, { e.2 with stale := [] }) else e) }
    let home := (u.ctx x.ctx).die
    x.warps = 0 ∧ ∀ v, u.writeRun x.ctx home 0 x.cword (leBytes 8 (2 ^ 63 + s.time % 2 ^ 48)) = .ok v →
      let r := v.releaseSuccs x.ctx home x.vf x.succ x.scnt
      let t := s.dispatch q die
      t.mem = r.mem ∧ t.queue = r.queue ∧ t.launchOf l = none ∧ ∀ a ∈ t.agents, a.launch ≠ l

/-- What goes before a new warp (R202, R205, R263): a launch's evicted warps, and a ready record of a higher priority that can be placed;
a launch whose warps are all admitted admits none. -/
def Sys2Proof.Machine.admitOrderSays : Prop :=
  ∀ (s : State) (launch die core : Nat) (x : Launch), s.launchOf launch = some x →
    ((∃ a ∈ s.agents, a.launch = launch ∧ a.status = .evicted ∧ s.partner a = none) → exec (.warpAdmit launch die core) s = .next s) ∧
    ((∃ q ∈ s.readyRecs x.vf, x.queuePrio < q.prio ∧ s.placeable q = true) → exec (.warpAdmit launch die core) s = .next s) ∧
    ((x.ended = true ∨ ∀ w < x.nx * x.ny * x.nz, w ∈ x.admitted) → exec (.warpAdmit launch die core) s = .next s)

/-- The first warp of a launch on a core (R26, R27, R32, R88, R205): a launch of one warp per unit, admitted on a core that has room,
starts its next warp with every register at zero, its identity, its launch's code and arguments, and every thread live. -/
def Obligations.WarpAdmit : Prop :=
  admitOrderSays ∧ ∀ (s : State) (launch die core c w : Nat) (x : Launch), s.launchOf launch = some x → s.ctxOn x.vf die = some c →
    (s.ctx c).stopped = false → s.evictedOf launch = [] → (∀ q ∈ s.readyRecs x.vf, q.prio ≤ x.queuePrio) → x.next = some w →
    x.unitOf w = [w] → x.det = false → x.corOf w = none → (die, core) ∈ s.coresFor x [w] → s.fits launch x die core 1 1 = true →
    x.blocks 1 [w] = [[w]] →
    ∃ t a, exec (.warpAdmit launch die core) s = .next t ∧ t.others.getLast? = some a ∧ a.status = .live ∧ a.kind = .warp ∧ a.launch = launch ∧
      a.die = die ∧ a.core = core ∧ a.ctx = c ∧ a.wid = BitVec.ofNat 32 w ∧ a.nw = BitVec.ofNat 32 (x.nx * x.ny * x.nz) ∧
      a.wx = BitVec.ofNat 32 (w % x.nx) ∧ a.wy = BitVec.ofNat 32 (w / x.nx % x.ny) ∧ a.wz = BitVec.ofNat 32 (w / x.nx / x.ny) ∧
      a.pc = x.code ∧ a.argp = BitVec.ofNat 64 x.args ∧ a.prio = x.prio ∧ a.vn = x.vn ∧ a.exm = fullMask ∧ a.live = fullMask ∧
      a.handler = false ∧ a.wst = 0 ∧ a.lclk = 0 ∧ a.loops = [] ∧ a.link = [] ∧ a.msk = [] ∧ a.inflight = [] ∧ a.held = [] ∧
      (∀ n, a.kreg n = 0 ∧ (∀ i < 32, (a.vreg n).lane i = 0 ∧ mbit (a.vreg n).poison i = false) ∧ a.areg n = ⟨0, 0, false⟩ ∧ a.preg n = 0 ∧
        a.flag n = false ∧ a.cbmOf n = fullMask) ∧
      (t.launchOf launch).map (·.admitted) = some (w :: x.admitted)

/-- A warp that retires (R61, R176): no thread of it is live, its captured words and its unaccepted requests are withdrawn, its detached words
run on, a pair-weight load of no thread stands for its match (R239), and it counts as exited. What it holds is released in ascending order
of address, each object's word losing its hold; while mirrored writes of it are neither acknowledged nor failed it waits with that,
though a failed one has no thread left to report it (log 56). A half-done wide store is first finished (R249; log 27). -/
def Sys2Proof.Machine.warpEndSays : Prop :=
  ∀ (s : State) (id : Nat) (ag : Agent), s.agentOf id = some ag → (∀ a ∈ s.others, a.id = id → a.status ≠ .vacant) →
    ag.hold = .none → ag.wait = .none → (∀ f ∈ ag.inflight, f.part = 0) →
    let t := s.retire id
    let awaited : Prop := ag.held ≠ [] ∧ ∃ m ∈ s.mirrors, m.ag = id ∧ m.copy = none ∧ m.failed = false
    (awaited → ∃ z, t.agentOf id = some z ∧ z.status = .exiting ∧ z.live = 0 ∧ z.held = ag.held ∧ t.mem = s.mem) ∧
    (∀ os : List Held, ¬awaited → os.Perm ag.held → os.Pairwise (fun a b => a.addr < b.addr) → ∃ u : State, u.mem = s.mem ∧ u.ctxs = s.ctxs ∧
      u.agentOf id = some { ag with
        live := 0, exm := 0, handler := false, arrPending := false
        inflight := ag.inflight.filter (fun f => (f.detached && !f.finished && !s.reqs.any (fun q =>
          q.ag == id && q.slot == f.slot && q.id == f.aux && !q.accepted)) || (f.finished && !(f.pwNo == 0))) } ∧
      t.mem = (os.foldl (fun s o => s.release id o) u).mem) ∧
    (∀ o, s.isDet ag = false →
      let u := s.upd id (fun a => { a with held := a.held.filter (fun h => !(h == o)) })
      ∀ k, u.keyOf ag o = .ok k → s.release id o = u.setObj ag o k (let w := u.obj k
        objWord false (w / 2 ^ 16 % 2 ^ 16) (if bit w 63 then w % 2 ^ 16 else w % 2 ^ 16 + 65535))) ∧
    (ag.held = [] → t.mem = s.mem ∧ (∀ q ∈ t.reqs, q ∈ s.reqs ∧ (q.ag = id → q.accepted = true)) ∧
    (∃ z, t.agentOf id = some z ∧ z.status = .retired ∧ z.live = 0 ∧ z.exm = 0 ∧ z.hold = .none ∧ z.handler = false ∧
      ∀ f ∈ z.inflight, f ∈ ag.inflight ∧ ((f.detached = true ∧ f.finished = false) ∨ (f.finished = true ∧ f.pwNo ≠ 0))) ∧
    ∀ x, s.launchOf ag.launch = some x → ∃ y, t.launchOf ag.launch = some y ∧ ∀ w, w ∈ y.exited ↔ w = ag.wid.toNat ∨ w ∈ x.exited)

/-- The parties of a meeting (R179, R215): one has reached it when it has issued its RDV or has exited; what it issued before is complete,
buffered stores of a determinate launch being committed. -/
def Sys2Proof.Machine.meetingSays : Prop :=
  ∀ (s : State) (p : Agent) (k w : Nat) (e : Rdv),
    let named (a : Agent) : Prop := ∃ e ∈ p.rdvs, e.k = k ∧ e.ag = a.id
    (∀ a, s.warpOf p.launch w = some a → (s.reached p k w = true ↔ a.alive = false ∨ named a)) ∧
    (∀ l, s.warpOf p.launch w = none → s.launchOf p.launch = some l →
      (s.reached p k w = true ↔ w ∈ l.exited ∨ ∃ a ∈ s.savedAgents, named a ∧ a.kind = .warp ∧ a.wid.toNat = w)) ∧
    (s.agentOf e.ag = none → (s.clearBefore e = true ↔ ∀ a ∈ s.savedAgents, a.id ≠ e.ag)) ∧
    ∀ a, s.agentOf e.ag = some a →
      (a.inSlot e.slot = none → s.clearBefore e = true) ∧
      ∀ f, a.inSlot e.slot = some f → (s.clearBefore e = true ↔ (∀ x ∈ a.detBuf, e.clock ≤ x.clock) ∧
        (a.status = .retired ∨ (a.caught = false ∧ ∀ g ∈ a.inflight, g.finished = true ∨ f.no ≤ g.no ∨ ∃ h o, g.instr = .rdv h o)))

/-- The end of a warp and of a program, and the start, the fault and the meetings of programs (R61, R176, R179, R214, R215, R217,
R218). A mirrored write that the buddy failed to acknowledge keeps no warp from its end (log 56), nor do threads that have faulted in a
warp with no live thread (log 30). -/
def Sys2Proof.Machine.programEventsSays : Prop :=
  ∀ (s : State) (id : Nat) (ag : Agent), s.agentOf id = some ag →
    let past (f : Inflight) : Prop := ag.live = 0 ∧ ∃ m, memOp f.instr = some m ∧ ∀ t ∈ f.yetToAct m (ag.cbmOf f.slot), mbit f.fmask t = true
    let left (f : Inflight) : Prop :=
      f.finished = true ∨ past f ∨ ∃ m ∈ s.mirrors, m.failed = true ∧ m.copy.isSome = true ∧ m.copy = f.copyId
    let ended : Prop := ag.status = .exiting ∧ (∀ f ∈ ag.inflight, left f) ∧
      ¬(ag.held ≠ [] ∧ ∃ m ∈ s.mirrors, m.ag = id ∧ m.copy = none ∧ m.failed = false)
    let queue := s.agents.filter (fun a => a.kind == .seq && a.die == ag.die && a.core / 4 == ag.core / 4 && a.ctx == ag.ctx &&
      (a.status == .queued || a.status == .live || a.status == .exiting || a.status == .faulted))
    (ended → ag.kind = .warp → exec (.warpRetire id) s = .next (s.retire id)) ∧
    (ended → ag.kind = .seq → exec (.warpRetire id) s = .next (s.endProgram id)) ∧
    (¬ended → exec (.warpRetire id) s = .next s) ∧
    (ag.status = .queued → (∀ b ∈ queue, b.status = .queued ∧ ag.ridx ≤ b.ridx) →
      (∀ f, s.agentOf ag.forker = some f → f.doneBefore ag.lclk pathVCG = true ∧
        ∀ p, ag.trig = some p → ∀ e ∈ f.detBuf, p.clock ≤ e.clock) →
      (s.agentOf ag.forker = none → ∀ b ∈ s.savedAgents, b.id ≠ ag.forker) → s.powered ag = true →
      exec (.seqProgramStart id) s = .next ((s.upd id (fun a => { a with status := .live, readySince := s.time })).trace ag.ctx
        { kind := 5, die := ag.die, source := ag.core / 4, code := 0, wid := ag.wid.toNat, arg := 0, payload := ag.argp.toNat })) ∧
    (∀ b ∈ queue, ag.status = .queued → (b.status ≠ .queued ∨ b.ridx < ag.ridx) → exec (.seqProgramStart id) s = .next s) ∧
    (∀ r, ag.status = .faulted → ag.seqFault = some r →
      let u := (s.upd id (fun a => { a with seqFault := none })).endProgram id
      let give (p : Nat) : State := u.upd p (fun x => { x with delivered := x.delivered ++ [r] })
      let lives (w : Nat) : Prop := ∃ a, u.warpOf ag.launch w = some a ∧ a.alive = true
      (∀ f, u.agentOf ag.forker = some f → f.alive = true → exec (.seqProgramFault id) s = .next (give f.id)) ∧
      ((∀ f, u.agentOf ag.forker = some f → f.alive = false) →
        (∀ w ∈ ag.parties, lives w → (∀ v ∈ ag.parties, v < w → ¬lives v) → ∃ a, u.warpOf ag.launch w = some a ∧
          exec (.seqProgramFault id) s = .next (give a.id)) ∧
        ((∀ w ∈ ag.parties, ¬lives w) →
          exec (.seqProgramFault id) s = .next (u.updLaunch ag.launch (fun l => { l with ended := true }))))) ∧
    (∀ k, (∀ e ∈ ag.rdvs, k ≤ e.k) → (∃ e ∈ ag.rdvs, e.k = k) →
      let es := ag.rdvs.filter (fun e => e.k == k)
      let met : Prop := (ag.status = .retired ∨ ∃ e ∈ es, e.ag = id) ∧ (∀ w ∈ ag.parties, s.reached ag k w = true) ∧
        ∀ e ∈ es, s.clearBefore e = true
      (¬met → exec (.rdvMeetingComplete id) s = .next s) ∧
      (met → exec (.rdvMeetingComplete id) s = .next (es.foldl (fun u e => match u.agentOf e.ag with
        | none => u
        | some a => (u.slotDone e.ag e.slot).trace a.ctx
          { kind := 7, die := a.die, source := a.core, code := e.slot, wid := a.wid.toNat, arg := e.n.toNat, payload := 0 })
        (s.upd id (fun p => { p with rdvs := p.rdvs.filter (fun e => e.k != k) })))))

/-- Warps, programs and their meetings. -/
def Obligations.ProgramEvents : Prop := programEventsSays ∧ warpEndSays ∧ meetingSays

/-- When a commit may begin (R192, R193, R195): every warp of the launch, one that a saved image holds too, that is not sleeping has reached
the quantum's end or has retired, and every V-path word from below that end has acted, one that a trap withdrew once it has replayed. -/
def Sys2Proof.Machine.commitReadySays : Prop :=
  ∀ (s : State) (launch : Nat) (x : Launch),
    let lim := (x.commits + 1) * (if x.qn = 0 then 1024 else 2 ^ (x.qn + 7))
    let mine (a : Agent) : Prop := a.kind = .warp ∧ a.launch = launch
    let waits (a : Agent) : Prop := (∃ k o n, a.hold = .acq k o n ∨ a.wait = .acq k o n) ∨ ∃ g w n, a.hold = .clasp g w n
    s.commitReady launch x = true ↔
      (∀ a ∈ s.agents ++ s.savedAgents, mine a → (a.status = .retired ∨ waits a ∨ lim ≤ a.lclk) ∧ (∀ e ∈ a.clocks, lim ≤ e.2) ∧
        ∀ f ∈ a.inflight, f.finished = true ∨ memOp f.instr = none ∨ lim ≤ f.aux) ∧
      ∃ a ∈ s.agents ++ s.savedAgents, mine a ∧ (a.status ≠ .retired ∨ a.detBuf ≠ [])

/-- An act on every agent, those that saved images hold among them (R193-R195, R280): they are put back for it, and go back into their
images after it. -/
def Sys2Proof.Machine.awakeSays : Prop :=
  ∀ (s t : State) (f : State → State),
    (s.savedAgents = [] → s.awake f = f s) ∧
    (s.savedAgents ≠ [] → s.awake f = (f s.thawed).frozen s) ∧
    s.thawed.mem = s.mem ∧ s.thawed.ctxs = s.ctxs ∧ s.thawed.agent = s.agent ∧
    (∀ a, a ∈ s.thawed.agents ↔ a ∈ s.agents ∨ (a ∈ s.savedAgents ∧ a.status ≠ .vacant)) ∧
    (t.frozen s).mem = t.mem ∧ (t.frozen s).ctxs = t.ctxs ∧ (t.frozen s).launches = t.launches ∧
    (∀ a, a ∈ (t.frozen s).agents ↔ a ∈ t.agents ∧ ∀ b ∈ s.savedAgents, b.id ≠ a.id) ∧
    ∀ i ∈ s.images, s.holdsImage i = true → ∃ j ∈ (t.frozen s).images, j.no = i.no ∧ j.agents = i.agents.map (fun a => (t.agentOf a.id).getD a)

/-- The grants that end a commit (R195): the requests of the sleeping warps of the launch stand behind the others in order of clock and
warp id, whenever they arrived, and each sleeping warp in that order gets what it waits for, if it can be granted. -/
def Sys2Proof.Machine.commitGrantsSays : Prop :=
  ∀ (s : State) (launch : Nat) (ws : List Agent),
    let waits (a : Agent) : Prop := (∃ k o n, a.hold = .acq k o n ∨ a.wait = .acq k o n) ∨ ∃ g w n, a.hold = .clasp g w n
    let mine (a : Agent) : Prop := a.kind = .warp ∧ a.launch = launch ∧ a.status ≠ .retired ∧ waits a
    let before (a b : Agent) : Prop := a.lclk < b.lclk ∨ (a.lclk = b.lclk ∧ a.wid.toNat < b.wid.toNat)
    let u : State := { s with waiters := s.waiters.filter (fun w => !ws.any (fun a => a.id == w.ag)) ++
                                         ws.flatMap (fun a => s.waiters.filter (fun w => w.ag == a.id)) }
    let give (s : State) (a : Agent) : State := match a.hold with
      | .acq .. => s.acqGrant a.id
      | .clasp g _ _ => (match a.wait with
        | .acq .. => s.acqGrant a.id
        | _ => s.claspRound launch g)
      | _ => (match a.wait with
        | .acq .. => s.acqGrant a.id
        | _ => s)
    ws.Nodup → (s.agents ++ s.savedAgents).Nodup → (∀ a, a ∈ ws ↔ a ∈ s.agents ++ s.savedAgents ∧ mine a) → ws.Pairwise before →
      s.commitGrants launch = ws.foldl give u

/-- What the commit of one entry does (R139, R193-R195): a store is written, a RED is applied to what memory holds then, the result of a
returning ATOM is left for the end, a REL and an arrival take effect. -/
def Sys2Proof.Machine.commitEntrySays : Prop :=
  ∀ (s : State) (a : Agent) (c va : Nat) (bs : List Byte) (p : Bool) (x : Xl) (op : AtomOp) (wide : Bool) (d : DWord) (v : Bool) (t pc : Nat)
      (o : Held) (g : Nat),
    let act (e : DetOp) : State := s.commitEntry a { clock := c, op := e }
    let n := if wide then 8 else 4
    let sc := s.scratch a.scratch
    let wrote (bs : List Byte) : State := s.setScratch a.scratch
      { sc with bytes := Memory.write sc.bytes va bs, poison := markPoison sc.poison va bs.length p }
    (s.translate a.ctx a.die va .write = .ok x → act (.store false va bs p) = s.writeAt x a.ctx a.id va none bs p) ∧
    act (.store true va bs p) = wrote bs ∧
    act (.atom false va bs p) = s ∧ act (.atom true va bs p) = s ∧
    (s.translate a.ctx a.die va .read = .ok x → s.translate a.ctx a.die va .write = .ok x →
      let old := leNat (s.bytesAt x n)
      (s.poisonedAt x n = true → act (.red false va op wide d p v t pc) = s) ∧
      (s.poisonedAt x n = false →
        (atomResult op (8 * n) ⟨v, t, pc⟩ old d.toNat 0 = none → act (.red false va op wide d p v t pc) = s) ∧
        ∀ r, atomResult op (8 * n) ⟨v, t, pc⟩ old d.toNat 0 = some r →
          act (.red false va op wide d p v t pc) = s.writeAt x a.ctx a.id va none (leBytes n r) p)) ∧
    (va % n = 0 →
      (va / 32 ∈ sc.poison → act (.red true va op wide d p v t pc) = s) ∧
      (va / 32 ∉ sc.poison → ∀ r, atomResult op (8 * n) ⟨v, t, pc⟩ (leNat (Memory.read sc.bytes va n)) d.toNat 0 = some r →
        act (.red true va op wide d p v t pc) = wrote (leBytes n r))) ∧
    (s.translate a.ctx a.die va .write = .ok x → x.place ≠ .remote → ∀ y,
      y ∈ (act (.clean false va)).memPoison ↔ y ∈ s.memPoison ∧ y ≠ x.pa / 32) ∧
    (∀ k, s.keyOf a o = .ok k → act (.rel o) = s.setObj a o k (let w := s.obj k
      objWord false (w / 2 ^ 16 % 2 ^ 16) (if bit w 63 then w % 2 ^ 16 else w % 2 ^ 16 + 65535))) ∧
    act (.arrive g) = s.setRound { s.round a.launch g with
      arrived := if a.wid.toNat ∈ (s.round a.launch g).arrived then (s.round a.launch g).arrived else a.wid.toNat :: (s.round a.launch g).arrived }

/-- The order of a commit (R193, R194): the warps in ascending warp id, each one's entries from below the quantum's end in program order;
then the results of returning ATOMs in order of clock and warp id; then what was committed leaves the buffers. -/
def Sys2Proof.Machine.commitOrderSays : Prop :=
  ∀ (s : State) (launch : Nat) (x : Launch) (ws : List Agent) (ats : List DetAt), s.launchOf launch = some x → x.det = true →
    s.commitReady launch x = true →
    let lim := (x.commits + 1) * (if x.qn = 0 then 1024 else 2 ^ (x.qn + 7))
    let mine (a : Agent) : Bool := a.kind == .warp && a.launch == launch
    let below (a : Agent) : List DetEntry := a.detBuf.filter (fun e => decide (e.clock < lim))
    let returning (e : DetEntry) : Bool := match e.op with
      | .atom .. => true
      | _ => false
    let later (y z : DetAt) : Prop := z.entry.clock < y.entry.clock ∨ (y.entry.clock = z.entry.clock ∧ z.wid < y.wid)
    s.savedAgents = [] → ws.Perm (s.agents.filter mine) → ws.Pairwise (fun a b => a.wid.toNat < b.wid.toNat) →
    ats.Pairwise (fun y z => ¬later y z) → (∀ y ∈ ats, ∃ a ∈ ws, y.wid = a.wid.toNat) →
    (∀ a ∈ ws, ∀ c, ats.filter (fun y => y.wid == a.wid.toNat && y.entry.clock == c) =
      ((below a).filter (fun e => returning e && e.clock == c)).map (fun e => { wid := a.wid.toNat, scratch := a.scratch, entry := e })) →
    let u := ws.foldl (fun s a => (below a).foldl (fun s e => s.commitEntry a e) s) s
    let v := ats.foldl (fun s y => match s.warpOf launch y.wid, y.entry.op with
      | some a, .atom scr va bs p => s.commitEntry a { y.entry with op := .store scr va bs p }
      | _, _ => s) u
    exec (.quantumCommit launch) s = .next
      (((v.updAll (fun a => if mine a then { a with detBuf := a.detBuf.filter (fun e => !decide (e.clock < lim)) } else a)).updLaunch launch
        (fun y => { y with commits := y.commits + 1 })).commitGrants launch)

/-- QUANTUM_COMMIT (R193, R195) of a determinate launch: not ready, it does nothing; ready, it takes the quantum's entries from the
buffers of the launch's warps, counts the commit and then grants, and where there was no such entry it writes nothing. -/
def Obligations.QuantumCommit : Prop :=
  commitReadySays ∧ commitEntrySays ∧ commitOrderSays ∧ commitGrantsSays ∧ awakeSays ∧
  ∀ (s : State) (launch : Nat) (x : Launch), s.launchOf launch = some x → x.det = true →
    let lim := (x.commits + 1) * (if x.qn = 0 then 1024 else 2 ^ (x.qn + 7))
    (s.commitReady launch x = false → exec (.quantumCommit launch) s = .next s) ∧
    (s.commitReady launch x = true → s.savedAgents ≠ [] → exec (.quantumCommit launch) s = .next ((s.thawed.commit launch lim).frozen s)) ∧
    (s.commitReady launch x = true → s.savedAgents = [] → exec (.quantumCommit launch) s = .next (s.commit launch lim)) ∧
    (∃ u : State, s.commit launch lim = u.commitGrants launch ∧
      (∀ a ∈ u.agents, a.kind = .warp → a.launch = launch → ∀ e ∈ a.detBuf, lim ≤ e.clock) ∧
      (u.launchOf launch).map (·.commits) = some (x.commits + 1) ∧
      ((∀ a ∈ s.agents ++ s.savedAgents, a.launch = launch → ∀ e ∈ a.detBuf, lim ≤ e.clock) → u.mem = s.mem ∧ u.scratches = s.scratches))

/-! ## Events of the engines -/

/-- A copy goes on (R183, R185, R234, R286): the first of its agent's, on a die that runs, moves some of its parts; it ends at a fault,
or when its units are done and its mirrored writes acknowledged. -/
def Sys2Proof.Machine.copyRunSays : Prop :=
  ∀ (s : State) (id k : Nat) (x : Copy) (f : Option (Nat × Nat)),
    (s.copies.find? (fun y => y.id == id) = some x →
      let d := s.die x.die
      let goes : Prop := s.copyFirst x = true ∧ d.released = true ∧ (d.power = .run ∨ d.power = .idle)
      let r := s.copyParts x (min (Config.copyPace s.fresh + 1) (512 * x.units))
      (goes → exec (.copyComplete id) s = .next (r.1.settleCopy r.2.1 r.2.2)) ∧ (¬goes → exec (.copyComplete id) s = .next s)) ∧
    (let u : State := { s with copies := s.copies.map (fun y => if y.id = x.id then x else y) }
     (f.isSome = true → s.settleCopy x f = u.endCopy x x.done f) ∧
     (f = none → x.units ≤ x.done → (∀ m ∈ s.mirrors, m.copy ≠ some x.id) → s.settleCopy x f = u.endCopy x x.done none) ∧
     (f = none → x.done < x.units ∨ (∃ m ∈ s.mirrors, m.copy = some x.id ∧ m.failed = false) → s.settleCopy x f = u)) ∧
    s.copyParts x 0 = (s, x, none) ∧ (x.units ≤ x.done → s.copyParts x k = (s, x, none)) ∧
    (x.done < x.units →
      (∀ e a, s.copyPart x k = .fault e a → s.copyParts x (k + 1) = (s, x, some (e, a))) ∧
      (∀ u, s.copyPart x k = .wait u → s.copyParts x (k + 1) = (u, x, none)) ∧
      ∀ u y, s.copyPart x k = .ok u y → s.copyParts x (k + 1) = u.copyParts y k)

/-- One part of a copy of blocks (R67, R183, R286): while its block is not wholly read, one more part of it is read, else one more is
written; which of those left it is, timing chooses. A part is an element; a block of a SWEPT page moves whole, and one written to a page that
may be executed by 8-byte words (log 33). -/
def Sys2Proof.Machine.copyPartSays : Prop :=
  ∀ (s : State) (x : Copy) (k : Nat), x.kind = .cpy ∨ x.kind = .node →
    let y := if x.got = [] ∧ x.put = [] then { x with grain := s.copyGrain x } else x
    let n := y.grain
    let parts := List.range (64 / n)
    let at_ (p : Nat) : Nat := 64 * y.done + n * p
    let src := s.translate x.ctx x.die (x.src + 64 * x.done) .read
    let dst := s.translate x.ctx x.die (x.dst + 64 * x.done) .write
    let swept : Prop := (x.srcSp = .g ∧ ∃ l, src = .ok l ∧ bit l.leaf.desc 5 = true) ∨ (x.dstSp = .g ∧ ∃ l, dst = .ok l ∧ bit l.leaf.desc 5 = true)
    let code : Prop := x.dstSp = .g ∧ ∃ l, dst = .ok l ∧ bit l.leaf.desc 4 = true
    let unread := parts.filter (fun p => (aget? y.got p).isNone)
    let unput := parts.filter (fun p => !y.put.contains p)
    let r := unread.getD (Config.copyOrder s.fresh k % unread.length) 0
    let w := unput.getD (Config.copyOrder s.fresh k % unput.length) 0
    (swept → s.copyGrain x = 64) ∧ (¬swept → code → s.copyGrain x = 8) ∧ (¬swept → ¬code → s.copyGrain x = 4) ∧
    (unread ≠ [] →
      (∀ e a, s.srcRead y (at_ r) n = .fault e a → s.copyPart x k = .fault e a) ∧
      (∀ u, s.srcRead y (at_ r) n = .wait u → s.copyPart x k = .wait u) ∧
      ∀ u v, s.srcRead y (at_ r) n = .ok u v → s.copyPart x k = .ok u { y with got := aset y.got r v }) ∧
    (unread = [] → ∀ v, v = aget y.got ([], []) w →
      (∀ e a, s.dstWrite y (at_ w) v.1 v.2 = .fault e a → s.copyPart x k = .fault e a) ∧
      (∀ u, s.dstWrite y (at_ w) v.1 v.2 = .wait u → s.copyPart x k = .wait u) ∧
      ∀ u, s.dstWrite y (at_ w) v.1 v.2 = .ok u () →
        (unput.length ≤ 1 → s.copyPart x k = .ok (u.blockPoison y) { y with done := y.done + 1, got := [], put := [] }) ∧
        (1 < unput.length → s.copyPart x k = .ok u { y with put := w :: y.put }))

/-- What a part reads and writes (R286, R310): bytes of memory through the agent's tables, of its scratch, or of a buffer of its core; the
rest stays. A part of memory that fails to translate faults at its block; a further faulting page waits (R138), and so does a row (R157). -/
def Sys2Proof.Machine.copyBytesSays : Prop :=
  ∀ (s : State) (x : Copy) (o n : Nat) (bs : List Byte) (pois : List Bool),
    let src := x.src + o
    let dst := x.dst + o
    let sc := s.scratch x.scratch
    let reads (va back : Nat) (acc : Acc) (u : State) (l : Xl) : Prop := s.copyReach x va n back acc = .ok u l
    (x.srcSp = .s → ∃ u, s.srcRead x o n = .ok u (Memory.read sc.bytes src n, (span (src / 32) ((src + n + 31) / 32)).map sc.poison.contains) ∧
      u.mem = s.mem ∧ u.scratches = s.scratches) ∧
    (x.srcSp = .g → ∀ u l, reads src (x.src + o / 64 * 64) .read u l → ∃ v p, s.srcRead x o n = .ok v (u.bytesAt l n, p) ∧ v.mem = u.mem) ∧
    (x.srcSp = .g → ∀ e, s.translate x.ctx x.die src .read = .error e → (e = 0x07 → s.pageWait x.die x.ctx src = false) →
      s.srcRead x o n = .fault e (x.src + o / 64 * 64)) ∧
    (x.dstSp = .s → ∃ u, s.dstWrite x o bs pois = .ok u () ∧ u.mem = s.mem ∧
      (u.scratch x.scratch).bytes = Memory.write sc.bytes dst bs ∧ (u.scratch x.scratch).size = sc.size) ∧
    (∀ b, (x.dstSp = .w ∧ b = BufName.w) ∨ (x.dstSp = .x ∧ b = BufName.x) →
      let was := s.bufsOf x.launch x.die x.core
      was ∈ s.bufs → was.launch = x.launch → was.die = x.die → was.core = x.core → ∃ u, s.dstWrite x o bs pois = .ok u () ∧ u.mem = s.mem ∧
        ((u.bufsOf x.launch x.die x.core).mem b) = Memory.write (was.mem b) dst bs) ∧
    (x.dstSp = .g → ∀ u l, s.copyReach x dst bs.length (x.dst + o / 64 * 64) .write = .ok u l → l.place ≠ .remote → bit l.leaf.desc 7 = false →
      ∃ v, s.dstWrite x o bs pois = .ok v () ∧ v.mem = Memory.write u.mem l.pa bs)

/-- Where the bytes of a TLOAD come from and those of a TSTOR go (R220, R246, R393, R401): for an untransposed dense tensor of whole
bytes without swizzle, row by row of the chunk; what lies beyond the tensor reads zero. -/
def Sys2Proof.Machine.tensorBytesSays : Prop :=
  ∀ (s : State) (x : Copy) (j r a i : Nat),
    let e := x.entry
    let n := fmtBits (tFmt e) / 8
    let row := x.row0 + r
    let col := (owKo x.opword + j) * fmtKs (tFmt e) + a / n
    let cols := min (tCols e) 128
    (2 ≤ tFmt e → tFmt e ≤ 6 → tSparse e = 0 → tSwz e = 0 → x.transposed = false → r < 128 → a < fmtKs (tFmt e) * n →
      x.chunkSrc j (r * (fmtKs (tFmt e) * n) + a) =
        [if row < tRows e ∧ col < tCols e then some ((tBase e + row * tStride e + col * n + a % n) % 2 ^ 64, 2) else none]) ∧
    s.chunkByte x [none] = (0, false) ∧
    (∀ va l, s.translate x.ctx x.die va .read = .ok l → l.place ≠ .remote →
      s.chunkByte x [some (va, 2)] = (Memory.get s.mem l.pa, s.memPoison.contains (l.pa / 32))) ∧
    (x.kind = .tstor → s.partWrite x i = s.storeElement x (x.done + i)) ∧
    (let b := s.bufsOf x.launch x.die x.core
     let c := storeConv (tFmt e) (b.cel x.tile (i / cols) (i % cols))
     let va := (tBase e + i / cols * tStride e + i % cols * c.1) % 2 ^ 64
     (va % c.1 ≠ 0 → s.storeElement x i = .fault 0x09 va) ∧
     (va % c.1 = 0 → b.cpois.contains ((65536 * x.tile + 512 * (i / cols) + 4 * (i % cols)) / 32) = false →
       s.storeElement x i = s.copyWrite x va va (leBytes c.1 c.2) [false]))

/-- The end of a copy (R202, R206, R218, R279, R286): its trace record; a node's launch ends with ST = 000, or 100 after a fault; a word's
slot completes, a fault going to its agent, and a TLOAD's entry names where the tensor lies (R128). -/
def Sys2Proof.Machine.copyEndSays : Prop :=
  ∀ (s : State) (x : Copy) (n : Nat) (f : Option (Nat × Nat)),
    let node := x.kind = .node
    let v := match f with
      | some (c, a) => s.faulting x.die x.ctx a c
      | none => s
    let w : State := { v with copies := v.copies.filter (fun y => y.id != x.id), mirrors := v.mirrors.filter (fun m => m.copy != some x.id) }
    let size := match x.kind with
      | .cpy | .node => 64
      | .tload => 1024
      | .tstor => (storeConv (tFmt x.entry) 0).1
    let wid := match w.agentOf x.ag with
      | some a => a.wid.toNat
      | none => 0xFFFFFFFF
    let record : Trace :=
      { kind := 2, die := x.die, source := if node then 0 else x.core, code := if node then 0 else x.slot,
        wid := if node then 0xFFFFFFFF else wid, arg := size * n, payload := Config.copyVa x.src x.dst }
    let t := w.trace x.ctx record
    (node → s.endCopy x n f = t.retireLaunch x.launch (if f.isSome then 4 else 0)) ∧
    (¬node → (s.ctx x.ctx).desc.traceMask.getLsbD 2 = false → (∀ a ∈ s.agent :: s.others, a.id = x.ag → a.report = none) →
      (x.kind ≠ .tload → f = none → s.endCopy x n f = t.slotDone x.ag x.slot) ∧
      (x.kind = .tload → f = none → s.endCopy x n f =
        (t.setResidency x.ctx (x.opword.toNat / 2 ^ 24) (if x.bufX then 2 else 1) (x.opword.toNat % 2 ^ 10)).slotDone x.ag x.slot) ∧
      ∀ c a, f = some (c, a) → s.endCopy x n f = (t.upd x.ag (fun z => z.detachedFault x.slot x.pc c a)).slotDone x.ag x.slot)

/-- The start of a matrix operation (R21, R22, R219, R222): in order, once no earlier one is in its way; or its end with its first failed
check; its completion, once started and with no earlier one of its array at the granules that it writes. -/
def Sys2Proof.Machine.matrixOrderSays : Prop :=
  ∀ (s : State) (id : Nat) (o : MOp), s.mops.find? (fun o => o.id == id) = some o →
    let d := s.die o.die
    let runs : Prop := d.released = true ∧ (d.power = .run ∨ d.power = .idle) ∧ (o.ksteps = 0 ∨ d.withheldM ≤ s.time)
    let es := s.mops.filter (fun p => decide (p.id < o.id) && (p.die == o.die && p.cluster == o.cluster && p.cm &&& o.cm != 0))
    let free : Prop := runs ∧ o.started = false ∧
      ∀ p ∈ es, p.started = true ∧ (∀ c ∈ p.tiles, c ∉ o.tiles) ∧ granulesMeet p.writes o.reads = false
    let check := o.cores.findSome? (s.checkCore o)
    (free → check = none → exec (.matrixOpStart id) s = .next
      { s with mops := s.mops.map (fun p => if p.id = id then { p with started := true } else p) }) ∧
    (free → ∀ c a, check = some (c, a) → exec (.matrixOpStart id) s = .next
      (({ s.upd o.ag (fun x => x.detachedFault o.slot o.pc c a) with mops := s.mops.filter (fun p => p.id != o.id) }).slotDone o.ag o.slot)) ∧
    (¬free → exec (.matrixOpStart id) s = .next s) ∧
    (¬(runs ∧ o.started = true ∧ ∀ p ∈ es, granulesMeet (p.reads ++ p.writes) o.writes = false) →
      exec (.matrixOpComplete id) s = .next s)

/-- The sum of a group (R106, R111): a block whose scale is none is NaN; a NaN product gives the first NaN; otherwise the exact sum times the
scales, rounded once. A group result is added to the accumulator in FP32, a NaN of either staying (of both, the accumulator's; log 37). -/
def Sys2Proof.Machine.groupSays : Prop :=
  ∀ (h e2 acc g : Nat) (scales : List (Option FVal)) (ps : List (El × El)),
    let times (v : FVal) (x : Option FVal) : FVal := match x with
      | none => v
      | some y => (v.mul y).getD v
    (none ∈ scales → groupResult h e2 scales ps = 0x7FC00000) ∧
    (none ∉ scales → ∀ n, ps.findSome? (termNan h) = some n → groupResult h e2 scales ps = n) ∧
    (none ∉ scales → ps.findSome? (termNan h) = none → ∀ v, sumVals h (ps.filterMap (fun p => p.1.v.mul p.2.v)) = .ok v →
      groupResult h e2 scales ps = Fmt.fp32.ofVal .rne false (invalidM h) ((scales.foldl times v).shift (-(e2 : Int)))) ∧
    (∀ n, Fmt.fp32.firstNan [acc, g] = some n → accAdd h acc g = n) ∧
    (Fmt.fp32.firstNan [acc, g] = none → accAdd h acc g = Fmt.fp32.sum .rne (invalidM h) (Fmt.fp32.val acc) (Fmt.fp32.val g)) ∧
    (∀ l v w, sumVals h l = .ok v → FVal.plus v w = none → sumVals h (l ++ [w]) = .error (invalidM h)) ∧
    (∀ l v w r, sumVals h l = .ok v → FVal.plus v w = some r → sumVals h (l ++ [w]) = .ok r) ∧
    ∀ (a b : Int), FVal.plus (El.int a 0).v (El.int b 0).v = some (El.int (a + b) 0).v

/-- Where an operand's elements lie in its chunk (R220, R221), dense and without swizzle: row `i` and index `k` in row-major order, the
rows of a transposed one running along `k`; what is beyond the K bound is none. -/
def Sys2Proof.Machine.operandPlaceSays : Prop :=
  ∀ (a : MArg) (i k : Nat), tSparse a.e = 0 → tSwz a.e = 0 → a.k0 ≤ k →
    let f := tFmt a.e
    let base := 1024 * owOff a.w + (k - a.k0) / fmtKs f * (chunkKib a.e * 1024)
    let q := (k - a.k0) % fmtKs f
    let bound := if tSeed a.e = 0 then tKb a.e else (tKb a.e + 31) / 32 * 32
    (bound ≤ k → a.place i k = none) ∧
    (k < bound → a.t = false → a.place i k = some (base + i * (fmtKs f * fmtBits f / 8) + q * fmtBits f / 8, decide (q % 2 = 1))) ∧
    (k < bound → a.t = true → a.place i k = some (base + q * (128 * fmtBits f / 8) + i * fmtBits f / 8, decide (i % 2 = 1)))

/-- What a completed matrix operation leaves (R225, R229-R232, R235, R243, R244, R329), in each core of its mask, and nowhere else: the sums
of MMAC, MMAP and MMD2, group after group in ascending K; GCMB's guided combination; MZERO's zeros; MSCL's products; the chunk of MQNT. -/
def Sys2Proof.Machine.matrixEffectSays : Prop :=
  ∀ (s : State) (id : Nat) (o : MOp), s.mops.find? (fun o => o.id == id) = some o →
    let d := s.die o.die
    d.released = true → d.power = .run ∨ d.power = .idle → o.ksteps = 0 ∨ d.withheldM ≤ s.time → o.started = true →
    (∀ p ∈ s.mops, p.id < o.id → p.die = o.die → p.cluster = o.cluster → p.cm &&& o.cm ≠ 0 →
      granulesMeet (p.reads ++ p.writes) o.writes = false) →
    (∀ i ∈ o.cores, s.mbufs o i ∈ s.bufs ∧
      (s.mbufs o i).launch = o.launch ∧ (s.mbufs o i).die = o.die ∧ (s.mbufs o i).core = 4 * o.cluster + i) →
    ∃ t, exec (.matrixOpComplete id) s = .next t ∧ t.mops = s.mops.filter (fun p => p.id != o.id) ∧ t.mem = s.mem ∧
      (∀ l d c, ¬(l = o.launch ∧ d = o.die ∧ ∃ i ∈ o.cores, c = 4 * o.cluster + i) → t.bufsOf l d c = s.bufsOf l d c) ∧
      ∀ i ∈ o.cores,
        let b := s.mbufs o i
        let b' := t.mbufs o i
        let h := pcHash o.pc
        let org : Origin := ⟨false, 0, o.pc⟩
        let arg (j : Nat) (x t : Bool) (n : Nat) : MArg := { w := o.words.getD j 0, e := o.entries.getD j [], x := x, t := t, n := n }
        let from_ (rm : Bool) (src : Fin 4) : Bufs := s.mbufs o (if rm then src.val else i)
        let only (ts : List Nat) : Prop := b'.mem .w = b.mem .w ∧ b'.mem .x = b.mem .x ∧
          ∀ a, (∀ k ∈ ts, a < 65536 * k ∨ 65536 * k + 65536 ≤ a) → Memory.get b'.c a = Memory.get b.c a
        let tile (k : Nat) (f : Nat → Nat → Nat) (p : Nat → Nat → Bool) : Prop :=
          ∀ m < 128, (∀ n < 128, b'.cel k m n = f m n % 2 ^ 32) ∧ ∀ u < 16, b'.cbad k m u = p m u
        let any8 (f : Nat → Bool) (u : Nat) : Bool := (List.range 8).any (fun j => f (8 * u + j))
        let product (k : Nat) (a w : MArg) (wb : Bufs) : Prop :=
          let e2 := if tSeed a.e = 0 then 0 else 5
          tile k (fun m n => (List.range (w.n * w.ks / 32)).foldl (fun acc g =>
              let k := w.k0 + 32 * g
              if a.bound ≤ k || w.bound ≤ k then accAdd h acc 0
              else accAdd h acc (groupResult h e2 (a.scale b m k ++ w.scale wb n k) ((span k (k + 32)).filterMap (fun k =>
                match a.el b m k, w.el wb n k with
                | some x, some y => some (x, y)
                | _, _ => none)))) (b.cel k m n))
            (fun m u => b.cbad k m u || a.rowBad b m || any8 (w.rowBad wb) u)
        let dead := o.pair.getD (false, false)
        (∀ g, o.instr = .mzero g → only [g.c1.val] ∧ tile g.c1.val (fun _ _ => 0) (fun _ _ => false)) ∧
        (∀ g a, o.instr = .mscl g a → only [g.c1.val] ∧
          tile g.c1.val (fun m n => Fmt.fp32.mul .rne org (b.cel g.c1.val m n) (o.words.getD 0 0).toNat) (b.cbad g.c1.val)) ∧
        (∀ g a x y tr src rm (n : Fin 8), o.instr = .mmac g x y tr src rm n → a = arg 0 true false (n.val + 1) →
          only [g.c1.val] ∧ product g.c1.val a (arg 1 false tr (n.val + 1)) (from_ rm src)) ∧
        (∀ g (c2 : Fin 4) x y src rm (n : Fin 8), o.instr = .mmap g c2 x y src rm n → g.c1 ≠ c2 →
          let w := arg 2 false false (n.val + 1)
          only [g.c1.val, c2.val] ∧
          (if dead.1 then tile g.c1.val (b.cel g.c1.val) (b.cbad g.c1.val) else product g.c1.val (arg 0 true false (n.val + 1)) w (from_ rm src)) ∧
          (if dead.2 then tile c2.val (b.cel c2.val) (b.cbad c2.val) else product c2.val (arg 1 true false (n.val + 1)) w (from_ rm src))) ∧
        (∀ g (c2 : Fin 4) x y src rm, o.instr = .mmd2 g c2 x y src rm → g.c1 ≠ c2 →
          let dy := arg 0 true false 1
          let w := arg 1 false false 1
          let xs := arg 2 true false 1
          let wb := from_ rm src
          let sum (acc : Nat) (f : Nat → Option El × Option El) : Nat := (List.range 4).foldl (fun acc q =>
            accAdd h acc (groupResult h 0 [] ((span (32 * q) (32 * q + 32)).filterMap (fun j => match f j with
              | (some p, some q) => some (p, q)
              | _ => none)))) acc
          let col (a : MArg) (b : Bufs) (i : Nat) : Bool := (List.range 128).any (fun r => a.poisoned b r (dy.k0 + i))
          only [g.c1.val, c2.val] ∧
          tile g.c1.val (fun m i => sum (b.cel g.c1.val m i) (fun j => (dy.el b m (dy.k0 + j), w.el wb j (dy.k0 + i))))
            (fun m u => b.cbad g.c1.val m u || dy.rowBad b m || any8 (col w wb) u) ∧
          tile c2.val (fun i j => sum (b.cel c2.val i j) (fun m => (xs.el b m (dy.k0 + i), dy.el b m (dy.k0 + j))))
            (fun i u => b.cbad c2.val i u || col xs b i || any8 (col dy b) u)) ∧
        (∀ g (c2 : Fin 4) a solo, o.instr = .gcmb g c2 a solo →
          let k := (o.words.getD 0 0).toNat
          let bad (m u : Nat) : Bool := b.cbad g.c1.val m u || b.cbad c2.val m u
          only [g.c1.val] ∧
          (dead.2 = true → tile g.c1.val (b.cel g.c1.val) (b.cbad g.c1.val)) ∧
          (dead.2 = false → dead.1 = true → tile g.c1.val (b.cel c2.val) bad) ∧
          (dead.2 = false → dead.1 = false → tile g.c1.val (fun m n =>
            let x := b.cel g.c1.val m n
            let y := b.cel c2.val m n
            match Fmt.fp32.firstNan [x, y, k] with
            | some r => r
            | none => Fmt.fp32.fma .rne org [] k (Fmt.fp32.sub .rne org x y) y) bad)) ∧
        (∀ g a x sat (n : Fin 4), o.instr = .mqnt g a x sat n →
          let c := arg 0 x false 1
          let f := tFmt c.e
          let bits := fmtBits f
          let rowOf (m q : Nat) : El := (b.quantRow h g.c1.val (n.val + 1) c m (q / 32)).getD (q % 32) .zero
          let words := b.quantWords h g.c1.val (n.val + 1) c
          let code (m q : Nat) : Nat :=
            if min ((n.val + 1) * 128) c.bound ≤ q then 0
            else if f = 7 then blockCode (words.getD (m / 32 * (c.ks / 32) + q / 32) 0) (rowOf m q) else quantEl f sat (rowOf m q)
          (∀ k, Memory.get b'.c k = Memory.get b.c k) ∧ b'.mem (if x then .w else .x) = b.mem (if x then .w else .x) ∧
          (∀ m < 128, ∀ p < 256, let q := swizzle (tSwz c.e) m p
            Memory.get (b'.mem (if x then .x else .w)) (c.off + 256 * m + p) = BitVec.ofNat 8
              (if bits = 4 then code m (2 * q) + 16 * code m (2 * q + 1) else code m (q * 8 / bits) / 256 ^ (q % (bits / 8)))) ∧
          (∀ k, k < c.off ∨ c.off + 33792 ≤ k → Memory.get (b'.mem (if x then .x else .w)) k = Memory.get (b.mem (if x then .x else .w)) k) ∧
          t.tid o.ctx (owTid c.w) = (s.tid o.ctx (owTid c.w)).set 15 (BitVec.ofNat 32 ((if x then 2 else 1) + owOff c.w * 2 ^ 16)))

/-- Copies and matrix operations. -/
def Obligations.EngineEvents : Prop :=
  copyRunSays ∧ copyPartSays ∧ copyBytesSays ∧ tensorBytesSays ∧ copyEndSays ∧ matrixOrderSays ∧ groupSays ∧ operandPlaceSays ∧ matrixEffectSays

/-- The nominal schedule of a stack (R18, R140, R142): row intervals of 488.28125 ns, or half of it above 85 degrees from the next sweep on; 8
slots in each, bank `b` visited in slot `b` mod 8; a bank that owes no restore stands behind the last visit, and its wrap is the last
visit of its row 65,535, before the first one the start of its stack's sweep (log 62). Instants are in 1/512 ns. -/
def Sys2Proof.Machine.scheduleSays : Prop :=
  ∀ (s : State) (d : Die) (die bank row : Nat),
    let w := d.sweepAt s.time
    let now := s.time * 512
    let sweep (h : Bool) : Nat := 65536 * if h then 125000 else 250000
    let len := if w.hot then 125000 else 250000
    w.visit bank row = w.start + row * len + bank % 8 * (len / 8) ∧
    (now < d.sweep.start + sweep d.sweep.hot → w = d.sweep) ∧
    (d.sweep.start + sweep d.sweep.hot ≤ now → w.hot = d.hot ∧ w.start ≤ now ∧ now < w.start + sweep d.hot ∧
      ∃ k, w.start = d.sweep.start + sweep d.sweep.hot + k * sweep d.hot) ∧
    (let e := s.die die
     let x := e.sweepAt s.time
     let step := if x.hot then 125000 else 250000
     let first := x.start + bank % 8 * (step / 8)
     (s.opened die).late.find? (fun l => l.bank == bank) = none → (now < first → (s.position die bank).1 = 0) ∧
      ∀ r < 65536, first + r * step ≤ now → now < first + r * step + step →
        (s.position die bank).1 = (r + 1) % 65536 ∧ (x.was = none → r + 1 < 65536 → e.wraps = [] → (s.position die bank).2 = x.start / 512) ∧
        (r + 1 = 65536 → e.wraps = [] → (s.position die bank).2 = (first + r * step) / 512)) ∧
    (∀ l, (s.opened die).late.find? (fun l => l.bank == bank) = some l → s.position die bank = (l.row, l.wrap))

/-- A slot's work (R157): opening a slot puts its own restores, those that apply something and those of banks that owe one, behind the
postponed ones; the next restore is the first, one bank's in order, whose weight fits the 128 units of the slot; at most 32 demand
activations start in a slot, the row with the oldest request first. -/
def Sys2Proof.Machine.slotSays : Prop :=
  ∀ (s : State) (die bank row : Nat),
    let d := s.die die
    let o := s.opened die
    let now := s.time * 512
    let busy : Prop := d.regions ≠ [] ∨ d.late ≠ [] ∨ ∃ q ∈ s.reqs, q.accepted = true ∧ q.die = die
    let fits (e : Late) : Prop := o.weight + s.weightOf die e.bank e.row e.visit now ≤ 128
    let started := if d.slot = d.slotAt s.time then d.demands else 0
    let waits (b r : Nat) : Prop :=
      (b, r) ∈ d.waits ∨ ∃ q ∈ s.reqs, q.accepted = true ∧ q.die = die ∧ q.bank = b ∧ q.row = r ∧ q.now = true
    let pending (q : Req) : Prop := q ∈ s.reqs ∧ q.accepted = true ∧ q.die = die ∧ waits q.bank q.row
    (d.slot = d.slotAt s.time ∨ ¬busy → o = d) ∧
    (d.slot ≠ d.slotAt s.time → busy → o = { d with slot := d.slotAt s.time, late := o.late, weight := 0, demands := 0 } ∧
      (∃ l, o.late = d.late ++ l ∧ l.Pairwise (fun a b => a.bank < b.bank)) ∧
      ∀ e ∈ o.late, e ∈ d.late ∨ (e.row = (d.sweepAt s.time).row now ∧ e.bank < 1024 ∧ e.visit = d.slotAt s.time)) ∧
    (d.released = false ∨ ¬busy → s.nextRestore die = none) ∧
    (d.released = true → busy →
      (∀ e, s.nextRestore die = some e → e ∈ o.late ∧ fits e) ∧
      ∀ a e b, o.late = a ++ e :: b → (∀ x ∈ a, ¬fits x ∧ x.bank ≠ e.bank) → fits e → s.nextRestore die = some e) ∧
    (d.released = false ∨ 32 ≤ started → s.nextDemand die = none) ∧
    (d.released = true → started < 32 →
      ((∀ q, ¬pending q) → s.nextDemand die = none) ∧
      ∀ a q b, s.reqs = a ++ q :: b → pending q → (∀ x ∈ a, ¬pending x) → s.nextDemand die = some (q.bank, q.row)) ∧
    (s.rowWait die bank row = true ↔ (∃ q ∈ s.reqs, q.accepted = true ∧ q.die = die ∧ q.bank = bank ∧ q.row = row) ∧
      (32 ≤ started ∨ ∃ e, s.firstDemand die = some e ∧ e ≠ (bank, row))) ∧
    (s.joinRow die bank row = if (bank, row) ∈ d.waits then s else s.setDie die { d with waits := d.waits ++ [(bank, row)] })

/-- A restore (R142, R150, R155, R157): of the bank whose turn it is; the row's pending requests first, then a glaze that is due; it takes its
weight of the slot and is owed no longer; a bank's row 65,535 notes the wrap. -/
def Sys2Proof.Machine.restoreSays : Prop :=
  ∀ (s : State) (die bank : Nat),
    (∀ e, s.nextRestore die = some e →
      let o := s.opened die
      let weight := s.weightOf die e.bank e.row e.visit (s.time * 512)
      let u := (s.setDie die o).activate false die e.bank e.row
      let v := match (u.die die).regionAt (rowPa die e.bank e.row) with
        | none => u
        | some (h, g, i) => if g.due i e.visit then u.applyGlaze die h g i e.visit else u
      let wraps : Prop := e.row = 65535
      let d := v.die die
      let t := v.setDie die { d with
        weight := d.weight + weight
        late := (d.late.erase e).map (fun l => if wraps ∧ l.bank = e.bank then { l with wrap := s.time } else l)
        wraps := if wraps then aset d.wraps e.bank (e.visit, s.time) else d.wraps }
      (e.bank = bank → exec (.rowRestore die bank) s = .next t) ∧ (e.bank ≠ bank → exec (.rowRestore die bank) s = .next s)) ∧
    (s.nextRestore die = none → exec (.rowRestore die bank) s = .next s)

/-- An activation of a row (R155-R157): its pending requests are applied in order of acceptance, and no access waits for it any longer; a
demand activation that applies some takes one of its slot's 32, or, where it has to wait, comes to nothing and marks the step as undone
(log 51). -/
def Sys2Proof.Machine.activationSays : Prop :=
  ∀ (s : State) (die bank row : Nat) (dem : Bool),
    let on (q : Req) : Bool := q.accepted && q.die == die && q.bank == bank && q.row == row
    let rest (u : State) : State := if (bank, row) ∈ (u.die die).waits then
      u.setDie die { u.die die with waits := (u.die die).waits.filter (fun e => e != (bank, row)) } else u
    (s.nextDemand die = some (bank, row) → exec (.demandActivation die bank row) s = .next (s.demandRow die bank row)) ∧
    (s.nextDemand die ≠ some (bank, row) → exec (.demandActivation die bank row) s = .next s) ∧
    (s.reqs.filter on = [] → s.demandRow die bank row = s ∧ s.activate dem die bank row = rest s) ∧
    (s.rowWait die bank row = true → s.demandRow die bank row = { s with blocked := match s.blocked with
      | none => some (die, bank, row)
      | some b => some b }) ∧
    (s.reqs.filter on ≠ [] → s.rowWait die bank row = false → s.demandRow die bank row =
      (s.setDie die { s.opened die with demands := (s.opened die).demands + 1 }).activate true die bank row) ∧
    let pa := rowPa die bank row
    let applied (s : State) (q : Req) : State :=
      let r := s.rowResult pa none q.op q.elt q.sat (0x40 + q.entry) q.c0 q.c1
      let tok := BitVec.ofNat 32 ((if r.err then 2 ^ 30 else 0) + (if r.clamped then 2 ^ 29 else 0) + (if dem then 2 ^ 28 else 0) +
        q.row * 2 ^ 10 + q.bank)
      let u := s.storeRow q.ctx die pa q.va r
      ({ u with reqs := u.reqs.filter (fun x => x.id != q.id) }).doneK q.ag q.slot [tok]
    ((s.reqs.filter on).map (·.id)).Nodup → (∀ q ∈ s.reqs.filter on, (s.ctx q.ctx).desc.traceMask.getLsbD 4 = false) →
      s.activate dem die bank row = rest ((s.reqs.filter on).foldl applied s)

/-- A glaze (R144, R150, R151, R157): when a nominal visit applies it to a row, at the first visit of each window that finds it neither held
nor applied in that window; its weight in the slot; and what its application does, after the requests on its partner's row. The visits that
a hold bars are those from its instant on (log 35). -/
def Sys2Proof.Machine.glazeSays : Prop :=
  ∀ (s : State) (die bank row h i n visit : Nat) (g : Region),
    let window := (n - g.t0) / (g.per * (32000000 * 512))
    let held : Prop := ∃ a e b, g.holds = a ++ e :: b ∧ e.1 ≤ n ∧ e.2 = true ∧ ∀ x ∈ a, n < x.1
    (g.due i n = true ↔ g.t0 ≤ n ∧ g.win0 ≤ window ∧ ¬held ∧ aget g.applied 0 i ≤ window) ∧
    (let asked : Prop := ∃ q ∈ s.reqs, q.accepted = true ∧ q.die = die ∧ q.bank = bank ∧ q.row = row ∧ q.time * 512 ≤ n
     let here := (s.die die).regionAt (rowPa die bank row)
     let weight := s.weightOf die bank row visit n
     (∀ h g i, here = some (h, g, i) → g.due i visit = true → weight = if g.op = .axpby then 2 else 1) ∧
     ((here = none ∨ ∃ h g i, here = some (h, g, i) ∧ g.due i visit = false) → (asked → weight = 1) ∧ (¬asked → weight = 0))) ∧
    ((∀ c, (s.ctx c).desc.traceMask.getLsbD 3 = false ∧ (s.ctx c).desc.traceMask.getLsbD 4 = false) →
      let pa := g.rowAt i
      let b := (rowOf pa).2.1
      let partner := rowPa die b (((rowOf pa).2.2 : Int) + g.delta).toNat
      let made (s : State) (py : Option Nat) : State := s.storeRow g.ctx die pa (g.base + 1024 * i) (s.rowResult pa py g.op g.elt g.sat h g.c0 g.c1)
      let noted (s : State) : State :=
        let d := s.die die
        let r := aget d.regions g h
        s.setDie die { d with regions := aset d.regions h { r with applied := aset r.applied i (window + 1) } }
      (g.op ≠ .axpby → s.applyGlaze die h g i n = noted (made s none)) ∧
      (g.op = .axpby → s.applyGlaze die h g i n =
        noted ((made (s.activate false die b (rowOf partner).2.2) (some partner)).count g.ctx 8 1024)))

/-- A row written on the restore path (R160, R167, R276, R282): its 1,024 bytes; the codewords that could not be corrected are poisoned; a page
that tracks writes, still mapped where the row lies, is dirty; counters 8 and 9 count. -/
def Sys2Proof.Machine.rowStoredSays : Prop :=
  ∀ (s : State) (c die pa va : Nat) (r : RowResult),
    let t := s.storeRow c die pa va r
    let m := Memory.write s.mem pa r.bytes
    let plain : Prop := ∀ l, ({ s with mem := m } : State).leafFor c die va = .ok l → l.pa va = pa → bit l.desc 7 = false
    (plain → t.mem = m) ∧ (∀ u, u ∈ t.memPoison ↔ u ∈ s.memPoison ∨ ∃ i ∈ r.poison, u = pa / 32 + i) ∧
    (∀ l, ({ s with mem := m } : State).leafFor c die va = .ok l → l.pa va = pa → bit l.desc 7 = true →
      pa / 2 ^ 16 % 2 ^ 20 ∈ (t.die die).dirty) ∧
    ∀ n, aget (t.ctx c).counters 0 n = aget (s.ctx c).counters 0 n + if n = 8 ∨ n = 9 then 1024 else 0

/-- A request accepted (R154): it takes the lowest free of its bank's 16 entries, while there is one and its row index has room below 896; a
request that fits no row, or whose page cannot be reached, ends with its cause. -/
def Sys2Proof.Machine.acceptSays : Prop :=
  ∀ (s : State) (id slot : Nat),
    ∀ a q f, s.agentOf id = some a → s.reqs.find? (fun q => q.ag == id && q.slot == slot && !q.accepted) = some q →
      a.inSlot slot = some f →
      (a.reachedAfter f = false ∨ a.posFirst f = false → exec (.requestAccept id slot) s = .next s) ∧
      (a.reachedAfter f = true → a.posFirst f = true →
        let ends (c : Nat) : State := ((({ s with reqs := s.reqs.filter (fun r => r.id != q.id) } : State).faulting a.die a.ctx q.va c).upd id
          (fun a => a.detachedFault slot f.pc c q.va)).slotDone id slot
        (∀ c, s.pageAt a.ctx a.die q.va .both = .error c →
          let waits : Prop := c = 0x07 ∧ s.pageWait a.die a.ctx q.va = true
          (waits → exec (.requestAccept id slot) s = .next s) ∧ (¬waits → exec (.requestAccept id slot) s = .next (ends c))) ∧
        ∀ x, s.pageAt a.ctx a.die q.va .both = .ok x →
          let fit : Prop := x.leaf.swept = true ∧ x.place = .stack a.die ∧ ¬(q.op = .clmp ∧ badClamp q.elt q.c0.toNat q.c1.toNat = true)
          let r := rowOf x.pa
          let used (i : Nat) : Prop := ∃ p ∈ s.reqs, p.accepted = true ∧ p.die = a.die ∧ p.bank = r.2.1 ∧ p.entry = i
          (¬fit → exec (.requestAccept id slot) s = .next (ends 0x18)) ∧
          (fit → (∀ i < 16, used i) → exec (.requestAccept id slot) s = .next s) ∧
          (fit → 896 ≤ s.load a.die r.2.2 → exec (.requestAccept id slot) s = .next s) ∧
          (fit → s.load a.die r.2.2 < 896 → ∀ i < 16, ¬used i → (∀ j < i, used j) → exec (.requestAccept id slot) s = .next
            { s with reqs := s.reqs.filter (fun p => p.id != q.id) ++
              [{ q with bank := r.2.1, row := r.2.2, accepted := true, entry := i, time := s.time }] }))

/-- The sweep and row requests (R18, R140-R142, R150, R153-R157, R160). -/
def Obligations.SweepEvents : Prop :=
  scheduleSays ∧ slotSays ∧ restoreSays ∧ activationSays ∧ glazeSays ∧ rowStoredSays ∧ acceptSays

/-- What the restore path makes of an integer element of `w` bits (R144): the exact result, wrapped, or under SAT clamped to the element's
range; and whether SAT clamped it. -/
def Sys2Proof.Machine.restoredInt (w : Nat) (op : RowOp) (sat : Bool) (x y c0 c1 : BitVec w) : Nat × Bool :=
  let r : Int := match op with
    | .addc => x.toInt + c0.toInt
    | .mulc => x.toInt * c0.toInt
    | .fmac => x.toInt * c0.toInt + c1.toInt
    | .clmp => min (max x.toInt c0.toInt) c1.toInt
    | .zero => 0
    | .axpby => c0.toInt * x.toInt + c1.toInt * y.toInt
  let c := if sat then max (-2 ^ (w - 1)) (min (2 ^ (w - 1) - 1) r) else r
  ((BitVec.ofInt w c).toNat, decide (c ≠ r))

/-- Integer elements of a row (R143, R144): words, and halves with the halves of the constants. -/
def Sys2Proof.Machine.rowIntegersSays : Prop :=
  ∀ (op : RowOp) (sat : Bool) (x y c0 c1 : Word) (h : Nat),
    let half (i : Nat) : Nat × Bool :=
      restoredInt 16 op sat (x.extractLsb' (16 * i) 16) (y.extractLsb' (16 * i) 16) (c0.extractLsb' (16 * i) 16) (c1.extractLsb' (16 * i) 16)
    let made (e : Elt) : Nat × Bool := wordOp op e sat h x.toNat y.toNat c0.toNat c1.toNat
    made .i32 = restoredInt 32 op sat x y c0 c1 ∧ made .i16x2 = ((half 1).1 * 65536 + (half 0).1, (half 0).2 || (half 1).2)

/-- Floating-point elements of a row (R143-R145): the first NaN of x, y, C0 and C1 quieted; 0 times infinity and opposed infinities the
invalid pattern with the origin `h`; infinities; else the exact result rounded once by RNE, an exact zero sum +0 but for zeros of one
sign. CLMP orders -0 below +0 and quiets a NaN x. BF16 goes half by half. -/
def Sys2Proof.Machine.rowFloatsSays : Prop :=
  (∀ (op : RowOp) (sat : Bool) (h x y c0 c1 : Nat), wordOp op .f32 sat h x y c0 c1 = (floatOp .fp32 op h x y c0 c1, false) ∧
    wordOp op .bf16x2 sat h x y c0 c1 =
      (floatOp .bf16 op h (x / 65536 % 65536) (y / 65536 % 65536) (c0 / 65536 % 65536) (c1 / 65536 % 65536) * 65536 +
        floatOp .bf16 op h (x % 65536) (y % 65536) (c0 % 65536) (c1 % 65536), false)) ∧
  ∀ f ∈ [Fmt.fp32, Fmt.bf16], ∀ (op : RowOp) (h x y c0 c1 : Nat),
    (∀ z ∈ [x, y, c0, c1], z < 2 ^ (f.ew + f.fw + 1)) →
    let nan (z : Nat) : Prop := f.isNan z = true
    let fin (z : Nat) : Prop := ∃ s m e, f.val z = .fin s m e
    let bit (z : Nat) : Bool := z / 2 ^ (f.ew + f.fw) % 2 == 1
    let v := numOf f
    let zero (s : Bool) : Nat := if s then 2 ^ (f.ew + f.fw) else 0
    let infinite (s : Bool) : Nat := zero s + f.most + 1
    let inv : Nat := if f.fw = 23 then 0x7FC00000 + h else 0x7FC0
    let one : Nat := f.bias.toNat * 2 ^ f.fw
    let got := floatOp f op h x y c0 c1
    let reads : List Nat := match op with
      | .addc | .mulc => [x, c0]
      | .fmac => [x, c0, c1]
      | .axpby => [x, y, c0, c1]
      | .clmp | .zero => []
    let terms : Option ((Nat × Nat) × (Nat × Nat)) := match op with
      | .addc => some ((x, one), (c0, one))
      | .fmac => some ((x, c0), (c1, one))
      | .axpby => some ((c0, x), (c1, y))
      | .mulc | .clmp | .zero => none
    let bad (p : Nat × Nat) : Prop := (v p.1 = 0 ∧ ¬fin p.2) ∨ (v p.2 = 0 ∧ ¬fin p.1)
    let huge (p : Nat × Nat) : Prop := ¬bad p ∧ (¬fin p.1 ∨ ¬fin p.2)
    let plain (p : Nat × Nat) : Prop := fin p.1 ∧ fin p.2
    let neg (p : Nat × Nat) : Bool := bit p.1 != bit p.2
    let val (p : Nat × Nat) := v p.1 * v p.2
    let sound : Prop := ∀ z ∈ reads, ¬nan z
    (∀ l z m, reads = l ++ z :: m → (∀ w ∈ l, ¬nan w) → nan z → got = f.quiet z) ∧
    (sound → ∀ p q, terms = some (p, q) →
      (bad p ∨ bad q ∨ (huge p ∧ huge q ∧ neg p ≠ neg q) → got = inv) ∧
      (huge p → plain q ∨ (huge q ∧ neg p = neg q) → got = infinite (neg p)) ∧
      (plain p → huge q → got = infinite (neg q)) ∧
      (plain p → plain q → (val p + val q ≠ 0 → rounds f .rne false (val p + val q) got) ∧
        (val p + val q = 0 → got = zero (decide (val p = 0 ∧ val q = 0) && neg p && neg q)))) ∧
    (sound → op = .mulc → let p := (x, c0)
      (bad p → got = inv) ∧ (huge p → got = infinite (neg p)) ∧
      (plain p → (val p ≠ 0 → rounds f .rne false (val p) got) ∧ (val p = 0 → got = zero (neg p)))) ∧
    (op = .zero → got = 0) ∧
    (op = .clmp → (nan x → got = f.quiet x) ∧
      (¬nan x → ¬nan c0 → ¬nan c1 →
        let below (a b : Nat) : Prop := v a < v b ∨ (v a = v b ∧ bit a = true ∧ bit b = false)
        let low (m : Nat) : Prop := (below x c0 → m = c0) ∧ (¬below x c0 → m = x)
        ∀ m, low m → (below c1 m → got = c1) ∧ (¬below c1 m → got = m)))

/-- A row as the restore path makes it (R143, R144, R160): word by word; a codeword that cannot be corrected, of the row or of its partner's, stays
as it is, is poisoned and is an error. -/
def Sys2Proof.Machine.rowMadeSays : Prop :=
  ∀ (s : State) (pa : Nat) (py : Option Nat) (op : RowOp) (elt : Elt) (sat : Bool) (h : Nat) (c0 c1 : Word), h < 0x50 →
    let r := s.rowResult pa py op elt sat h c0 c1
    let lost (i : Nat) : Prop := pa / 32 + i ∈ s.memPoison ∨ ∃ q, py = some q ∧ q / 32 + i ∈ s.memPoison
    let word (a : Nat) : Nat := leNat (Memory.read s.mem a 4)
    let made (i j : Nat) : Nat × Bool := wordOp op elt sat h (word (pa + 32 * i + 4 * j)) (match py with
      | none => 0
      | some q => word (q + 32 * i + 4 * j)) c0.toNat c1.toNat
    r.bytes.length = 1024 ∧ (∀ i, i ∈ r.poison ↔ i < 32 ∧ lost i) ∧ (r.err = true ↔ ∃ i < 32, lost i) ∧
    (r.clamped = true ↔ ∃ i < 32, ∃ j < 8, ¬lost i ∧ (made i j).2 = true) ∧
    ∀ i < 32, ∀ j < 8, let got := leNat ((r.bytes.drop (32 * i + 4 * j)).take 4)
      (lost i → got = word (pa + 32 * i + 4 * j)) ∧ (¬lost i → got = (made i j).1)

/-- What the restore path makes of the elements of a row (R143-R145, R160). -/
def Obligations.RowArithmetic : Prop := rowIntegersSays ∧ rowFloatsSays ∧ rowMadeSays

/-! ## Pre-emption and partitions -/

/-- What a refused image leaves (R45, R260): the warp stays parked, its fault record holds cause 0x0A, and the driver is told where the
image lies. Nothing else of it changes. An image whose frame is not one that TRET accepts is refused too, where it keeps one. Which field
holds the cause, that the warp counts as parked and that the notice is of a free kind are choices of the model (log 19). -/
def Sys2Proof.Machine.refusedSays : Prop :=
  ∀ (s : State) (id core : Nat) (a : Agent) (l : List Agent), s.agentOf id = some a →
    (∃ kind < 256, s.refuseImage a = (s.upd a.id (fun x => { x with status := .parked, refused := some 0x0A })).notice a.ctx
      { kind := kind, wid := a.wid, addr := a.image, poster := none }) ∧
    (s.imageOf a = none → s.bringBack id core = none) ∧ (s.launchOf a.launch = none → s.bringBack id core = none) ∧
    (∀ x, s.launchOf a.launch = some x →
      (∀ e, s.readRun a.ctx a.die a.image 4 = .error e → s.imageOf a = none) ∧
      ∀ b, s.readRun a.ctx a.die a.image 4 = .ok b →
        let n := leNat b
        (n < 0x2700 ∨ 65536 < n → s.imageOf a = none) ∧
        (0x2700 ≤ n → n ≤ 65536 → (∀ e, s.readRun a.ctx a.die a.image n = .error e → s.imageOf a = none) ∧
          ∀ bs, s.readRun a.ctx a.die a.image n = .ok bs →
            (a.readPark x.record bs = none → s.imageOf a = none) ∧
            ∀ p, a.readPark x.record bs = some p →
              let keeps : Prop := p.evict = true ∨ a.handler = true
              (¬keeps ∨ (readFrame (s.ctx a.ctx).table p.frame).isSome = true → s.imageOf a = some p) ∧
              (keeps → readFrame (s.ctx a.ctx).table p.frame = none → s.imageOf a = none))) ∧
    (let u := l.foldl (fun (u : State) b => match u.readRun b.ctx b.die b.image 4 with
        | .error _ => u
        | .ok bs => u.touch b.ctx b.die b.image (min (leNat bs) 65536)) s
     (∀ b, l.find? (fun b => (u.bringBack b.id core).isNone) = some b → s.bringAll core l = u.refuseImage b) ∧
     ((∀ b ∈ l, (u.bringBack b.id core).isSome = true) → s.bringAll core l = l.foldl (fun t b => (t.bringBack b.id core).getD t) u))

/-- What an accepted image restores (R44, R162, R260, R263): the warp is live on its core with the image's registers, bindings, bitmaps and
clock, its late completions posted, its buffers there again. An evicted one performs TRET's steps on the image's frame; a parked one goes
on after its PARK, and in a handler its frame lies at its new place. -/
def Sys2Proof.Machine.broughtSays : Prop :=
  ∀ (s : State) (id core : Nat) (a : Agent) (p : ParkImage) (x : Launch), s.agentOf id = some a → a.status ≠ .vacant →
    s.imageOf a = some p → s.launchOf a.launch = some x →
    let r := p.regs
    let v := s.allocBufs a.launch x a.die core
    let cbm (y : Agent) := (List.range 8).foldl (fun c i => if ∃ f ∈ y.inflight, f.slot = i then c else aset c i (p.cbm.getD i fullMask)) y.cbm
    let back (y : Agent) : Agent := { y with
      vn := r.vn, v := r.v, k := r.k, a := r.a, p := r.p, b := r.b, wst := r.wst, lclk := p.lclk, binds := p.binds, cbm := cbm y }
    let here (i : Nat) (y : Agent) : Agent := { (back y).posted with
      core := core, ridx := i, status := .live, readySince := s.time, passed := 0, refused := none,
      hold := if a.hold = .notice then .notice else .none }
    ∃ i, (i < 128 ∧ ((∃ j < 128, ∀ b ∈ v.agents, b.kind = .warp → b.resident = true → b.ctx = a.ctx → b.die = a.die → b.core = core →
        b.ridx ≠ j) → ∀ b ∈ v.agents, b.kind = .warp → b.resident = true → b.ctx = a.ctx → b.die = a.die → b.core = core → b.ridx ≠ i)) ∧
      let u := v.upd id (here i)
      (p.evict = true → ∀ fr, readFrame (s.ctx a.ctx).table p.frame = some fr →
        s.bringBack id core = some (u.within id (fun t => t.applyFrame fr a.handler))) ∧
      (p.evict = false → a.handler = false → s.bringBack id core = some u) ∧
      (p.evict = false → a.handler = true →
        let f := u.frameVa { a with core := core, ridx := i }
        (∀ e, u.writeRun a.ctx a.die id f p.frame = .error e → s.bringBack id core = none) ∧
        ∀ t, u.writeRun a.ctx a.die id f p.frame = .ok t →
          s.bringBack id core = some (t.upd id (fun y => { y with tframe := BitVec.ofNat 64 f })))

/-- Sets of warps that leave or come back (R262, R263): warps are evicted one after another, and none if one cannot be written; a set that
comes back goes on the first of its cores that has room for it, and if a set finds none, no warp comes back. All or nothing is the model's
choice (log 29). -/
def Sys2Proof.Machine.setsSays : Prop :=
  ∀ (s : State) (l : Nat) (x : Launch) (at_ : List (Nat × Nat)) (i : Nat) (is b : List Nat) (bs : List (List Nat)),
    s.evictAll [] = some s ∧ (s.evictWarp i = none → s.evictAll (i :: is) = none) ∧
    (∀ t, s.evictWarp i = some t → s.evictAll (i :: is) = t.evictAll is) ∧
    s.bringBlocks l x at_ [] = some s ∧
    (let as := (s.evictedOf l).filter (fun a => b.contains a.wid.toNat)
     (as = [] → s.bringBlocks l x at_ (b :: bs) = s.bringBlocks l x at_ bs) ∧
     ∀ a ∈ as.head?, let cores := if at_ = [] then List.range 32 else at_.map (·.2)
       ((∀ c ∈ cores, s.roomFor l x a.die c as = false) → s.bringBlocks l x at_ (b :: bs) = none) ∧
       ∀ c, cores.find? (fun c => s.roomFor l x a.die c as) = some c →
         s.bringBlocks l x at_ (b :: bs) = (s.bringAll c as).bringBlocks l x [] bs)

/-- An eviction (R260, R262, R263): stores cut in the middle end, what the warp holds and its request for an object stay its own, its words
that have not acted are withdrawn from its clock, its image with a frame of its state lies in its context's eviction area, and its launch's
buffers go with the last of its warps on the core. Where the area has no free image, or the image cannot be written, the warp stays (log
29). -/
def Sys2Proof.Machine.evictionSays : Prop :=
  ∀ (s : State) (id : Nat) (a : Agent) (x : Launch), (s.wholeStores id).agentOf id = some a →
    (s.wholeStores id).launchOf a.launch = some x → (∀ g w n, a.hold ≠ .clasp g w n) →
    let w := s.wholeStores id
    let keep : Hold := match a.hold with
      | .acq k o n => .acq k o n
      | _ => a.wait
    let out (y : Agent) : Agent := { y.uncounted with hold := .none, wait := keep }
    let b := out a
    let u := w.upd id out
    (w.evictVa a.ctx = none → s.evictWarp id = none) ∧
    ∀ va, w.evictVa a.ctx = some va →
      (∃ k < 4096, va = (w.ctx a.ctx).desc.evict + 65536 * k) ∧ (∀ y ∈ w.agents, y.status = .evicted → y.ctx = a.ctx → y.image ≠ va) ∧
      let runs := b.imageRuns x.record true (b.frameRuns { cause := 0, mask := 0, addr := 0, fpc := b.pc, rpc := b.pc })
      (∀ e, u.writeRuns a.ctx a.die id va runs = .error e → s.evictWarp id = none) ∧
      ∀ t, u.writeRuns a.ctx a.die id va runs = .ok t →
        s.evictWarp id = some ((t.upd id (fun y => { y with
          status := .evicted, image := va, caught := y.caught || y.inflight.any Inflight.captured, arrPending := false,
          inflight := y.inflight.filter (fun f => !f.captured) })).freeBufs a.launch a.die a.core)

/-- Traps at a word boundary, eviction and what brings warps back (R250, R254, R260, R262, R263). -/
def Obligations.PreemptionEvents : Prop :=
  refusedSays ∧ broughtSays ∧ setsSays ∧ evictionSays ∧ ∀ (s : State) (id core : Nat) (a : Agent), s.agentOf id = some a →
    let take : Prop := a.status = .live ∧ a.kind = .warp ∧ s.powered a = true ∧ a.trapDue = true
    (take → exec (.trapEntry id) s = .next (s.within id State.takeDue)) ∧
    (¬take → exec (.trapEntry id) s = .next s) ∧
    (∀ (s : State) t double b, s.agent.due = some (t, double, b) → s.takeDue =
      if double then ({ s with agent := b }).doubleFault b.id t.addr else (({ s with agent := b }).tryTrap t).getD s) ∧
    (∀ x, s.launchOf a.launch = some x → a.status = .parked →
      let go (both : List Agent) : Prop := (s.roomFor a.launch x a.die core both = true →
          exec (.parkRestore id core) s = .next ((s.bringAll core both).retimed s)) ∧
        (s.roomFor a.launch x a.die core both = false → exec (.parkRestore id core) s = .next s)
      (s.partner a = none → go [a]) ∧ ∀ p, s.partner a = some p → (p.status = .evicted → go [a, p]) ∧ (p.status ≠ .evicted → go [a])) ∧
    (a.status ≠ .parked → exec (.parkRestore id core) s = .next s) ∧
    (∀ q, (s.readyRecs (s.ctx a.ctx).desc.vf).head? = some q →
      let vs := s.victims (s.ctx a.ctx).desc.vf q.prio
      s.placeable q = false → (s.ctx a.ctx).stopped = false → (∃ b ∈ vs, b.id = id) →
      (∀ b ∈ vs, lexLt (s.victimRank b) (s.victimRank a) = false) →
      (s.evictAll ((s.evictees a).map (·.id)) = none → exec (.partialEviction id) s = .next (s.retimed s)) ∧
      ∀ t, s.evictAll ((s.evictees a).map (·.id)) = some t → exec (.partialEviction id) s = .next (t.retimed s)) ∧
    (∀ x b l, s.launchOf a.launch = some x → s.evictOrder a.launch = b :: l → b.id = id →
      ((s.ctx a.ctx).stopped = false ∨ x.pre = false) → (∀ q ∈ s.readyRecs x.vf, q.prio ≤ x.queuePrio) →
      let blocks := x.blocks x.warps ((x.unitOf a.wid.toNat).filter (fun w => (s.evictedOf a.launch).any (fun e => e.wid.toNat == w)))
      let back := s.bringBlocks a.launch x [(a.die, core)]
        (blocks.filter (·.contains a.wid.toNat) ++ blocks.filter (fun l => !l.contains a.wid.toNat))
      (back = none → exec (.warpReadmit id core) s = .next (s.retimed s)) ∧
      ∀ t, back = some t → exec (.warpReadmit id core) s = .next (t.retimed s))

/-- A warp settled where it stays (R192, R249, R264): its words that have not finished are replayed before its next word, alone, with the faults
of their threads forgotten, and count as they retire; a pair-weight load that waits for its partner's goes on waiting (R239). What it waited
for it waits for again after that. Every resident warp of a context settles so; a clasp's wait is withdrawn from its round first; the words
that are replayed count again, and so do the cycles of their threads (R276; log 43). -/
def Sys2Proof.Machine.settledSays : Prop :=
  ∀ (s : State) (c : Nat) (a : Agent),
    let b := a.settled
    let again (f : Inflight) : Bool := f.captured && f.pwNo == 0
    let cut (f : Inflight) : Prop := again f = true
    let held : Hold := match a.hold with
      | .acq k o n => .acq k o n
      | _ => a.wait
    let caps := (a.inflight.filter (fun f => again f && !f.hnd)).map (fun f => (f.slot, f.aux))
    let counted := (a.clocks.filter (fun e => !caps.any (fun c => c.1 == e.1))).length
    let taken := (caps.filter (fun c => !a.clocks.any (fun e => e.1 == c.1))).length
    b = { a with inflight := b.inflight, hold := b.hold, wait := b.wait, caught := b.caught, clocks := b.clocks, lclk := b.lclk } ∧
    (a.handler = true → b.clocks = a.clocks ∧ b.lclk = a.lclk) ∧
    (a.handler = false → b.clocks = caps ∧ b.lclk = a.lclk + counted - taken) ∧
    b.inflight = a.inflight.map (fun f =>
      if again f then { f with alone := true, ecause := 0, fmask := 0, eaddr := 0 }
      else if f.captured then { f with ecause := 0, fmask := 0, eaddr := 0 } else f) ∧
    (let l := a.inflight.filter again
     let cycles (f : Inflight) : Nat := match memOp f.instr with
       | some m => if m.unif then 0 else (threadsOf (f.e &&& ~~~(a.cbmOf f.slot))).length
       | none => (threadsOf (f.e &&& ~~~(a.cbmOf f.slot))).length
     s.countReplays a = (s.count a.ctx 0 l.length).count a.ctx 1 ((l.map cycles).foldl (· + ·) 0)) ∧
    (b.caught = true ↔ a.caught = true ∨ ∃ f ∈ a.inflight, cut f ∧ f.slot < 8) ∧
    ((∃ f ∈ a.inflight, cut f ∧ f.slot < 8) ∨ (∃ m, a.hold = .replay m ∧ m ≠ 0) → b.wait = held ∧
      ∃ m, b.hold = .replay m ∧ ∀ i < 8, m.getLsbD i = true ↔
        (∃ f ∈ a.inflight, cut f ∧ f.slot = i) ∨ ∃ n, a.hold = .replay n ∧ n.getLsbD i = true) ∧
    ((∀ f ∈ a.inflight, ¬cut f) → (∀ m, a.hold ≠ .replay m) →
      b.wait = .none ∧ b.hold = if a.hold = .notice then .notice else held) ∧
    s.settleCtx c = (s.agents.filter (fun a => a.kind == .warp && a.ctx == c && (a.status == .live || a.status == .exiting))).foldl
      (fun t a =>
        let t := t.wholeStores a.id
        let u := match a.hold with
          | .clasp .. => t.unhold1 a.id
          | _ => t
        match u.agentOf a.id with
        | none => u
        | some b => (u.countReplays b).upd a.id Agent.settled) s

/-- The power cap of a die (R24, R25, R272): that of its active context, at most the die's share of 270 W; with no active context the cap in
force stays. A raise of the cap in force makes the arrays ramp again. -/
def Sys2Proof.Machine.capSays : Prop :=
  ∀ (s : State) (die c : Nat),
    let d := s.die die
    (s.ctxIn die .active = none → s.recap die = s.setDie die d) ∧
    (s.ctxIn die .active = some c →
      let w := min (s.ctx c).desc.cap 270
      (∀ was, d.cap = some was → was < w → s.recap die = s.setDie die { d with cap := some w, ramp := [] }) ∧
      ((∀ was, d.cap = some was → w ≤ was) → s.recap die = s.setDie die { d with cap := some w }))

/-- The layout of an image (R280, R287; log 10): a header of 192 bytes with the offset and length of each of nine sections, which follow it in
order, each a multiple of 64 bytes long; the first holds 32 core images of 1,933,824 bytes, the second a park image for each warp. -/
def Sys2Proof.Machine.imageLayoutSays : Prop :=
  ∀ (i : Image) (k : Nat),
    let len (k : Nat) : Nat := (i.sections.getD k { len := 0, runs := [] }).len
    let start (k : Nat) : Nat := 192 + ((List.range k).map len).sum
    i.sections.length = 9 ∧ len 0 = 32 * 1933824 ∧ i.bytes.length = i.len ∧ i.len = start 9 ∧
    (k < 9 → len k % 64 = 0 ∧ leNat ((i.bytes.drop (16 * k)).take 8) = start k % 2 ^ 64 ∧
      leNat ((i.bytes.drop (16 * k + 8)).take 8) = len k % 2 ^ 64) ∧
    len 1 = (i.parks.map (fun p => ((p.map (fun e => e.1 + e.2.length)).foldl max 0 + 63) / 64 * 64)).sum

/-- An image made resident again (R162, R271, R272, R280, R283): its context takes the die's free place with the descriptor last written, by
which the image is found too; its agents, copies, requests and buffers are there, as its bytes give them, and its launches go on in it. Its
regions are registered under their handles, or under free ones; where one finds none, or no budget, the resume waits (log 57). -/
def Sys2Proof.Machine.resumedSays : Prop :=
  ∀ (s : State) (c : Nat) (i : Image) (bs : List Byte) (l : List (Nat × Region)) (h : Nat) (g : Region),
    let x := s.ctx c
    let new := i.read bs
    let desc := match x.written with
      | some (d, _) => d
      | none => x.desc
    let bad := match x.written with
      | some (_, b) => b
      | none => x.badDesc
    (s.canReside c = true ↔ x.residency = .saved ∧ (s.ctxIn x.die .active = none ∨ s.ctxIn x.die .locket = none) ∧ bad = false) ∧
    (let t := s.setCtx c { x with desc := desc, badDesc := bad, written := none }
     s.imageIn c = some (i, bs) → i ∈ s.images ∧ t.readRun c x.die desc.save i.len = .ok bs ∧ i.names bs = true) ∧
    (let d := s.die x.die
     s.registerAll c [] = some s ∧
     (s.reregister c g = none → s.registerAll c ((h, g) :: l) = none) ∧
     ∀ r, s.reregister c g = some r →
       (s.budgetOk x.die r = false → s.registerAll c ((h, g) :: l) = none) ∧
       (s.budgetOk x.die r = true → aget? d.regions h = none →
         s.registerAll c ((h, g) :: l) = (s.setDie x.die { d with regions := aset d.regions h r }).registerAll c l) ∧
       (aget? d.regions h ≠ none → (∀ j < 64, aget? d.regions j ≠ none) → s.registerAll c ((h, g) :: l) = none)) ∧
    ∀ u, s.restoreCtx c i bs = some u →
    ((u.ctx c).residency = (if s.ctxIn x.die .active = none then .active else .locket) ∧ (u.ctx c).stopped = false ∧
      (u.ctx c).desc = desc ∧ (u.ctx c).die = x.die ∧ (u.ctx c).table = new.ctx.table ∧ (u.ctx c).ranges = new.ctx.ranges ∧
      (u.ctx c).mailboxes = new.ctx.mailboxes) ∧
    (s.ctxIn x.die .active ≠ none → ∀ b ∈ i.agents, b.status ≠ .vacant → (s.launchOf b.launch).isSome = true →
      (∀ a ∈ i.agents, a.kind = .warp → (a.status = .live ∨ a.status = .exiting) → a.id ≠ b.id) →
      { b with ctx := c, die := x.die } ∈ u.agents) ∧
    (∀ y ∈ new.copies, { y with ctx := c, die := x.die } ∈ u.copies) ∧ (∀ j ∈ u.images, j.no ≠ i.no) ∧
    (∀ q ∈ i.queue, q ∈ u.queue)

/-- The exchange, the watchdog, the full save and the end of a PCTL operation (R16, R161, R236, R264-R267, R283). A stop first applies by demand
activation what its context's rows owe, which may take more than one slot (R156, R157), and waits for what its copies wait for; a save waits for
its context's trace records (log 44, log 51). -/
def Obligations.PartitionEvents : Prop :=
  settledSays ∧ capSays ∧ imageLayoutSays ∧ resumedSays ∧ ∀ (s : State) (die c l launch op : Nat),
    let d := s.die die
    let x := s.ctx c
    let dc := s.die x.die
    (d.released = true → exec (.locketExchangeRequest die) s = .next (s.setDie die { d with exchanging := true })) ∧
    (d.released = false → exec (.locketExchangeRequest die) s = .next s) ∧
    (let clear : Prop := d.exchanging = true ∧ (∀ o ∈ s.mops, o.die ≠ die) ∧ (d.power = .run ∨ d.power = .idle)
     let late (e : Nat × Launch) : Bool := s.timerRuns e.1 && s.agents.any (fun a => a.launch == e.1 && a.ctx == c) &&
       decide (e.2.wdStart + 1000 * x.desc.watchdog ≤ s.time + 1920)
     (¬clear → exec (.locketExchange die) s = .next s) ∧
     let leave (t : State) : State := let u := t.settleCtx c
       u.setCtx c { u.ctx c with residency := .locket, suspect := (u.ctx c).suspect || s.launches.any late }
     let come (t : State) : State := let u := t.setCtx l { t.ctx l with residency := .active }
       u.updAll (fun a => if a.ctx = l ∧ a.status ≠ .parked ∧ a.status ≠ .evicted then a.posted else a)
     let ends (t : State) : Prop := exec (.locketExchange die) s = .next
       (((t.setDie die { t.die die with exchanging := false }).retimed s).recap die)
     (s.ctxIn die .active = none → s.ctxIn die .locket = none → exec (.locketExchange die) s = .next s) ∧
     (clear → s.ctxIn die .active = some c → s.ctxIn die .locket = none → ends ((leave s).later 1920)) ∧
     (clear → s.ctxIn die .active = none → s.ctxIn die .locket = some l → ends (come (s.later 1920))) ∧
     (clear → s.ctxIn die .active = some c → s.ctxIn die .locket = some l → ends (come ((leave s).later 1920))) ∧
     (s.reqs = [] → (∀ e ∈ s.dies, (s.die e.1).regions = [] ∧ (s.die e.1).late = []) → ∀ n, s.later n = { s with time := s.time + n })) ∧
    (∀ y, s.launchOf launch = some y →
      let due : Prop := s.timerRuns launch = true ∧ y.wdStart + 1000 * (s.ctx y.ctx).desc.watchdog ≤ s.time
      (y.wdFired = false → due → ∃ t, exec (.watchdogExpiry launch) s = .next t ∧
        t.launchOf launch = some { y with wdFired := true, wdStart := s.time } ∧
        (∀ a ∈ t.agents, a.kind = .warp → a.launch = launch → a.resident = true → (s.ctx a.ctx).residency = .active → a.wdSignal = true) ∧
        t = { s with agent := t.agent, others := t.others, launches := t.launches }) ∧
      (¬(y.wdFired = false ∧ due) → exec (.watchdogExpiry launch) s = .next s) ∧
      ((∀ a ∈ s.agents, a.launch = launch → (s.ctx a.ctx).suspect = false) →
        (y.wdFired = true → y.ended = false → due → exec (.watchdogSecondExpiry launch) s = .next
          ((s.resetCtx y.ctx).notice y.ctx { kind := 3, wid := 0xFFFFFFFF, addr := 0, poster := none })) ∧
        (¬(y.wdFired = true ∧ y.ended = false ∧ due) → exec (.watchdogSecondExpiry launch) s = .next s))) ∧
    (let u := s.resetCtx c
     (∀ q ∈ u.reqs, q.ctx ≠ c) ∧ (∀ e ∈ (u.die x.die).regions, e.2.ctx ≠ c) ∧ (∀ o ∈ u.mops, o.ctx ≠ c) ∧
     (∀ q ∈ u.queue, q.vf ≠ x.desc.vf) ∧ (∀ e ∈ u.launches, e.2.vf ≠ x.desc.vf) ∧ (u.ctx c).ranges = [] ∧ (u.ctx c).suspect = false ∧
     (u.ctx c).stopped = false ∧ (u.ctx c).landed = []) ∧
    let up : Prop := dc.released = true ∧ (dc.power = .run ∨ dc.power = .idle)
    (x.residency ≠ .active ∨ ¬up → exec (.fullSave c) s = .next s) ∧
    (x.residency = .active → up → x.stopped = false → exec (.fullSave c) s = .next (s.setCtx c { x with stopped := true })) ∧
    (x.residency = .active → up → x.stopped = true →
      ((∃ e ∈ s.launches, e.2.vf = x.desc.vf ∧ e.2.pre = false) → exec (.fullSave c) s = .next s) ∧
      ((∀ e ∈ s.launches, e.2.vf = x.desc.vf → e.2.pre = true) →
        (dc.exchanging = false → exec (.fullSave c) s = .next (s.setDie x.die { dc with exchanging := true })) ∧
        (dc.exchanging = true → (∃ o ∈ s.mops, o.die = x.die) ∨ (∃ e ∈ s.traces, e.1 = c) → exec (.fullSave c) s = .next s) ∧
        (dc.exchanging = true → (∀ o ∈ s.mops, o.die ≠ x.die) → (∀ e ∈ s.traces, e.1 ≠ c) → ∃ t, exec (.fullSave c) s = .next t ∧
          (t.ctx c).residency = .saved ∧ (t.die x.die).exchanging = false ∧ (∀ a ∈ t.agents, a.ctx ≠ c) ∧
          let u := s.stopWarps c
          ∃ i ∈ t.images, (t.ctx c).imageNo = some i.no ∧ i.grid = u.gridOf (u.ctx c).desc.vf ∧
            i.parks = (u.agents.filter (fun a => a.ctx == c && a.kind == .warp && (a.status == .live || a.status == .exiting))).map u.parkRuns ∧
            ∀ a ∈ u.agents, a.ctx = c → ∃ b ∈ i.agents, b = { a.laid with late := b.late }))) ∧
    ∀ p a, s.pctls.find? (fun p => p.id == op) = some p → s.agentOf p.ag = some a → s.ctxOn p.vf p.die = some c →
      ((s.die p.die).released = false ∨ ((s.die p.die).power ≠ .run ∧ (s.die p.die).power ≠ .idle) → exec (.pctlComplete op) s = .next s) ∧
      ((s.die p.die).released = true → (s.die p.die).power = .run ∨ (s.die p.die).power = .idle →
      let ends (u : State) (st : Nat) : State :=
        (({ u with pctls := u.pctls.filter (fun q => q.id != op) }).putCompletion p.ctx p.die p.block st).notice
          p.ctx { kind := 6, wid := a.wid, addr := p.block, poster := none }
      (p.kind = .reset → exec (.pctlComplete op) s = .next (ends (s.resetCtx c) 0)) ∧
      (p.kind = .resume → p.image = none → exec (.pctlComplete op) s = .next (ends s 1)) ∧
      (∀ no bs, p.kind = .resume → p.image = some (no, bs) →
        (s.images.find? (fun i => i.no == no) = none → exec (.pctlComplete op) s = .next (ends s 1)) ∧
        ∀ i, s.images.find? (fun i => i.no == no) = some i →
          (s.canReside c = false → exec (.pctlComplete op) s = .next (ends s 1)) ∧
          (s.canReside c = true → s.restoreCtx c i bs = none → exec (.pctlComplete op) s = .next s) ∧
          ∀ t, s.canReside c = true → s.restoreCtx c i bs = some t → exec (.pctlComplete op) s = .next (ends (t.retimed s) 0)) ∧
      (p.kind = .stop →
        (x.residency = .active → ((s.die p.die).exchanging = false ∨ ∃ o ∈ s.mops, o.die = p.die) →
          exec (.pctlComplete op) s = .next s) ∧
        (x.residency ≠ .active → x.residency ≠ .locket → exec (.pctlComplete op) s = .next (ends s 0)) ∧
        ((x.residency = .active ∧ (s.die p.die).exchanging = true ∧ ∀ o ∈ s.mops, o.die ≠ p.die) ∨ x.residency = .locket →
          (s.flushRows c ≠ [] → exec (.pctlComplete op) s = .next (s.joinRows (s.flushRows c))) ∧
          (s.flushRows c = [] → (∃ e ∈ s.traces, e.1 = c) ∨ s.stopCtx c = none → exec (.pctlComplete op) s = .next s) ∧
          ∀ t, s.flushRows c = [] → (∀ e ∈ s.traces, e.1 ≠ c) → s.stopCtx c = some t →
          (t.ctx c).residency = .saved ∧ (∀ b ∈ t.agents, b.ctx ≠ c) ∧ (∀ e ∈ (t.die x.die).regions, e.2.ctx ≠ c) ∧
          (∀ y ∈ t.copies, y.ctx ≠ c) ∧ ∃ i, t.images.find? (fun i => some i.no == (t.ctx c).imageNo) = some i ∧
            ∀ v, t.writeRun p.ctx p.die 0 (p.block + 8) (leBytes 8 i.len) = .ok v →
              exec (.pctlComplete op) s = .next (ends (if x.residency = .active then
                v.setDie p.die { v.die p.die with exchanging := false } else v) 0))))

/-- What the detached words of the glazes, of the decode table and of FORK do when their slots complete (R77, R149, R151, R152, R158,
R214). -/
def Obligations.DetachedCompletions : Prop :=
  ∀ (s : State) (id slot upto : Nat) (a : Agent) (f : Inflight), s.agentOf id = some a → (s.ctx a.ctx).resident = true → a.hold = .none →
    a.inSlot slot = some f → (s.die a.die).released = true → (s.die a.die).power = .run ∨ (s.die a.die).power = .idle →
    let now := s.time * 512
    let d := s.die a.die
    let k := (f.av.getD 0 0).toNat
    let va := f.base.toNat
    let done (t : State) : Prop := exec (.slotCompletion id slot upto) s = .next t
    let held (g : Region) (on : Bool) : Region := if g.heldAt now = on then g else { g with holds := (now, on) :: g.holds }
    let mine : Option Region := (aget? d.regions k).filter (fun g => g.ctx == a.ctx)
    let after : Prop := ∀ g ∈ a.inflight, g.finished = true ∨ f.no ≤ g.no ∨ memOp g.instr = none
    (∀ c v, a.kind = .warp → c ≠ 0x0E →
      let r : Recorded := { cause := c, mask := fullMask, addr := v, fpc := f.pc, rpc := none, no := f.no, hnd := f.hnd }
      let note (x : Agent) : Agent := { x with recorded := x.recorded ++ [r] }
      s.failDetached id slot f.pc c v = if c = 0x07 ∧ s.pageWait a.die a.ctx v = true then s
        else ((s.faulting a.die a.ctx v c).upd id note).slotDone id slot) ∧
    (∀ h o p r, f.instr = .gzdel h o ∨ f.instr = .gzhold h o r ∨ f.instr = .gzpos h o p ∨ f.instr = .gzreg h o p → ¬after → done s) ∧
    (after → ∀ h o g, f.instr = .gzdel h o → mine = some g → done ((s.setDie a.die { d with regions := adel d.regions k }).slotDone id slot)) ∧
    (after → ∀ h o res g, f.instr = .gzhold h o res → mine = some g →
      done ((s.setDie a.die { d with regions := aset d.regions k (held g (!res)) }).slotDone id slot)) ∧
    (after → ∀ h o res, f.instr = .gzdel h o ∨ f.instr = .gzhold h o res → mine = none →
      done (s.failDetached id slot f.pc 0x18 (Config.glazeVa k))) ∧
    (a.posFirst f = false → ∀ h o p, f.instr = .gzpos h o p → done s) ∧
    (after → a.posFirst f = true → ∀ h o p, f.instr = .gzpos h o p →
      (∀ e, s.pageAt a.ctx a.die va .read = .error e → done (s.failDetached id slot f.pc e va)) ∧
      ∀ x, s.pageAt a.ctx a.die va .read = .ok x →
        (x.place ≠ .stack a.die → done (s.failDetached id slot f.pc 0x18 va)) ∧
        (x.place = .stack a.die →
          let b := s.position a.die (x.pa / 2 ^ 26 % 1024)
          done (s.doneK id slot [BitVec.ofNat 32 (b.1 + if (d.sweepAt s.time).hot then 65536 else 0), BitVec.ofNat 32 b.2]))) ∧
    (after → ∀ h o p, f.instr = .gzreg h o p →
      (∀ c v, s.glazeCheck a va (entryNat (f.dv.headD [])) = .error (c, v) → done (s.failDetached id slot f.pc c v)) ∧
      ∀ g, s.glazeCheck a va (entryNat (f.dv.headD [])) = .ok g →
        let ends (t : State) (w : Word) : State := t.doneK id slot [w]
        let none_ : Prop := ∀ h < 64, (aget? d.regions h).isSome = true
        (none_ → done (ends s 0x80000001)) ∧
        (¬none_ → s.budgetOk a.die g = false → done (ends s 0x80000002)) ∧
        (¬none_ → s.budgetOk a.die g = true → (∃ i < g.nrows, (d.regionAt (g.rowAt i)).isSome = true) → done (ends s 0x80000003)) ∧
        ∀ h < 64, aget? d.regions h = none → (∀ j < h, (aget? d.regions j).isSome = true) → s.budgetOk a.die g = true →
          (∀ i < g.nrows, d.regionAt (g.rowAt i) = none) →
          done (ends (s.setDie a.die { d with regions := aset d.regions h g }) (BitVec.ofNat 32 h))) ∧
    (∀ h o, f.instr = .dtld h o →
      let u := s.touch a.ctx a.die va 2176
      (∀ e, u.readRun a.ctx a.die va 2176 = .error e → done (u.failDetached id slot f.pc e va)) ∧
      ∀ bs, u.readRun a.ctx a.die va 2176 = .ok bs →
        (tableOk (halves bs) = true → done ((u.setCtx a.ctx { u.ctx a.ctx with table := some (halves bs) }).slotDone id slot)) ∧
        (tableOk (halves bs) = false → done (u.failDetached id slot f.pc 0x1B va))) ∧
    (∀ h o p n grp z, f.instr = .fork h o p n grp → s.agentOf f.aux = some z → z.status = .waiting →
      (4 ≤ (s.queueOf z.die z.cluster z.ctx).length → done s) ∧
      ((s.queueOf z.die z.cluster z.ctx).length < 4 → ∃ t y, done t ∧ t.agentOf f.aux = some y ∧ y.status = .queued))

/-! ## Words, steps and states -/

/-- The specifiers of operands (R29): every ten-bit code. -/
def Obligations.Specifiers : Prop :=
  (∀ n : Fin 256, opnd n.val = .v n) ∧ (∀ n : Fin 64, opnd (0x100 + n.val) = .k n) ∧ (∀ i : Fin 64, opnd (0x140 + i.val) = .sp i) ∧
    (∀ n : Fin 8, opnd (0x180 + n.val) = .p n) ∧ (∀ n : Fin 4, opnd (0x188 + n.val) = .b n) ∧
    (∀ n, 0x18C ≤ n → n ≤ 0x1FF → opnd n = .rsv (BitVec.ofNat 10 n)) ∧ (∀ n : Fin 32, opnd (0x200 + n.val) = .a n) ∧
    opnd 0x220 = .lane ∧ (∀ n, 0x221 ≤ n → n ≤ 0x2FF → opnd n = .rsv (BitVec.ofNat 10 n)) ∧
    ∀ i : BitVec 8, opnd (0x300 + i.toNat) = .imm i ∧ ∀ s : State, s.uval .int (.imm i) = BitVec.ofInt 32 i.toInt

/-- TIDGET (R130): its word of an entry; a word index above 15, and an index of no entry, raise cause 0x0E; its encoding. -/
def Obligations.TidgetWord : Prop :=
  ∀ (h : Head) (n : Fin 64) (a b : Opnd) (s : State),
    let i := (s.uval .int a).toNat
    let j := (s.uval .int b).toNat
    s.runsX (.tidget h (.k n) a b) h { needX false [plain a, plain b] with dst := some (.k n) }
      (if 255 < i ∨ 15 < j then some (s.agent.flt 0x0E) else none)
      (fun t => t = { s.agent with k := t.k } ∧ ∀ m, t.kreg m = if m = n.val then (s.tid s.agent.ctx i).getD j 0 else s.agent.kreg m) ∧
    (h.wf = true → a.wf = true → b.wf = true →
      decode none (wordOf h 0x344 (0x100 + n.val) a.code b.code 0) = .ok (.tidget h (.k n) a b))

/-- The encoder and the decoder agree on every well-formed instruction (R57, R58, R66, R75). -/
def Obligations.DecodeEncodeAgree : Prop :=
  ∀ i : Instr, i.wf = true → ∃ w, encode i = some w ∧ w < 2 ^ 64 ∧ decode none w = .ok i

/-- Every word that decodes is the encoding of what it decodes to: no bit is dropped, and no two words share a decoding (R57, R58,
R78). -/
def Obligations.EncodeDecodeAgree : Prop :=
  ∀ (w : Nat) (i : Instr), w < 2 ^ 64 → decode none w = .ok i → i.wf = true ∧ encode i = some w

/-- Byte order (R4): a number in memory has its low byte at the lowest address; a word fetched is the eight bytes at an address that
is a multiple of 8; a pair of k registers holds bits [31:0] in the first register and bits [63:32] in the second. -/
def Obligations.LittleEndian : Prop :=
  (∀ (m : List Host.Cell) (a n w i : Nat), i < n → Memory.get (Memory.write m a (leBytes n w)) (a + i) = BitVec.ofNat 8 (w / 256 ^ i)) ∧
  (∀ (m : List Host.Cell) (a n i : Nat), i < n → Memory.readNat m a n / 256 ^ i % 256 = (Memory.get m (a + i)).toNat) ∧
  (∀ (s u : State) (w : Nat), s.fetch = .ok (w, u) → s.agent.pc % 8 = 0 ∧ w < 2 ^ 64 ∧
    ∃ x, s.translate s.agent.ctx s.agent.die s.agent.pc .fetch = .ok x ∧
      (x.place ≠ .remote → aget (u.ctx u.agent.ctx).stale [] (x.pa / 8) = [] →
        ∀ i < 8, w / 256 ^ i % 256 = (Memory.get u.mem (x.pa + i)).toNat)) ∧
  (∀ (ag : Agent) (n : Nat), ag.kpair n % 2 ^ 32 = (ag.kreg n).toNat ∧ ag.kpair n / 2 ^ 32 = (ag.kreg (n + 1)).toNat) ∧
  ∀ (ag : Agent) (n w j : Nat), (ag.setPair n w).kreg j =
    if j = n then BitVec.ofNat 32 w else if j = n + 1 then BitVec.ofNat 32 (w / 2 ^ 32) else ag.kreg j

/-- The cause of a word that does not decode (R78, R91): a class that its operation forbids is cause 0x0D outside a handler where the word is a
special one, and otherwise 0x0C in a program and 0x02 in a warp; all else is 0x01. -/
def Sys2Proof.Machine.decodeCauseSays : Prop :=
  ∀ (a : Agent) (sp : Bool),
    a.decodeCause (.classForbidden sp) = (if sp = true ∧ a.handler = false then 0x0D else if a.kind = .seq then 0x0C else 0x02) ∧
    ∀ e : DecErr, (∀ sp, e ≠ .classForbidden sp) → a.decodeCause e = 0x01

/-- What a step does around the word or event that it performs (R67, R139, R155, R157): one whose access has to wait for the demand activation
of a row comes to nothing, but that the access waits in its order (log 51); the word fetched is memory's, or one that a store has replaced since
the last dispatch of a launch of its context (log 61); a word that reads a field of its trap frame opens the frame's rows; codewords that fail
in the meantime become poisoned (log 59). -/
def Sys2Proof.Machine.aroundSays : Prop :=
  ∀ (s t : State) (x : Xl) (w : Nat),
    (t.blocked = none → s.unlessBlocked (.next t) = .next t) ∧
    (∀ d b r, t.blocked = some (d, b, r) → s.unlessBlocked (.next t) = .next { s.joinRow d b r with blocked := none }) ∧
    (let was := aget (s.ctx s.agent.ctx).stale [] (x.pa / 8)
     (was = [] → s.codeAt x = leNat (s.bytesAt x 8)) ∧ (s.codeAt x = leNat (s.bytesAt x 8) ∨ ∃ v ∈ was, s.codeAt x = v.toNat)) ∧
    (s.agent.handler = false → s.openFields w = s) ∧
    (s.openFields w = s ∨ s.openFields w = s.touch s.agent.ctx s.agent.die s.agent.tframe.toNat 64) ∧
    (s.traces = [] → ∀ c, (c ∈ s.pass.memPoison ↔ c ∈ s.memPoison ∨ c ∈ s.errors.headD []))

/-- One step: nothing after a halted boot; what the sweeps owe; the oldest input; an agent, which takes the trap that is due, or fetches,
decodes and executes the word at its PC, unless its fetch waits for a row (R157) or the current limiter withholds the word (R21); an event; or
only the passing of time (R4, R63, R69, R76, R78, R250, R284). Which agent or event acts next is a free choice (log 48). -/
def Obligations.StepRunsDecoded : Prop :=
  decodeCauseSays ∧ aroundSays ∧ ∀ s : State,
    (s.boot = .halted → step s = .fault .bootHalted) ∧
    (∀ i, s.boot ≠ .halted → s.sweepDue = some i → step s = exec i { s with fresh := s.fresh + 1 }) ∧
    (s.boot ≠ .halted → s.sweepDue = none →
      (∀ e l, s.events = e :: l → step s = s.pass.unlessBlocked (exec e { s.pass with events := l })) ∧
      (s.events = [] →
        (∀ i, s.act = .event i → step s = s.pass.unlessBlocked (exec i s.pass)) ∧
        (s.act = .idle → step s = .next s.pass) ∧
        ∀ a, s.act = .agent a →
          let v := s.pass.choose a
          let g := v.agent
          let does (r : Host.Outcome State Fault Refusal) : Prop := step s = v.unlessBlocked r
          (g.trapDue = true → does (exec (.trapEntry g.id) v)) ∧
          let tr := v.translate g.ctx g.die g.pc .fetch
          let mir := v.mirrorFlt (fun i => g.inflight.any (fun f => f.slot == i && !f.finished && f.la != 15 && f.left == 0))
          (∀ x, g.trapDue = false → tr = .ok x → v.demandWait x = true → does (.next (v.join x))) ∧
          (g.trapDue = false → (∀ x, tr = .ok x → v.demandWait x = false) →
            (∀ f, mir = some f → does (.next (v.raise f))) ∧
            (mir = none → g.pc % 8 ≠ 0 → does (.next (v.raise (Flt.at 0x09 g.pc)))) ∧
            (mir = none → g.pc % 8 = 0 →
              (∀ e, tr = .error e → does (.next (v.raise (Flt.at e g.pc)))) ∧
              ∀ x, tr = .ok x →
                let u := (((v.me (fun a => { a with hold := .none })).cache g.ctx g.pc x.leaf).demand x).countHops g.ctx g.die x 8
                let w := u.codeAt x
                (∀ i, decode (u.ctx u.agent.ctx).table w = .ok i →
                  (u.limited w = false → does (exec i (u.openFields w))) ∧ (u.limited w = true → does (.next u))) ∧
                ∀ e, decode (u.ctx u.agent.ctx).table w = .error e →
                  does (.next (u.raise (u.agent.flt (u.agent.decodeCause e))))))))

/-- Words written out from the spec's encodings, each with the instruction it stands for (R57, R58, R66, R75). -/
def Obligations.SampleWords : Prop :=
  let h : Head := ⟨.next, .always⟩
  decodeTableWord 64 0x00021C0180281000 = some (.iaddV h (.v 3) (.v 1) (.k 2) false) ∧
  decodeTableWord 64 0x00021C0080281100 = some (.iaddV h (.v 1) (.v 1) (.k 2) true) ∧
  decodeTableWord 64 0x02281C81A0400000 = some (.clzU h (.k 3) (.k 2)) ∧
  decodeTableWord 64 0x00421C01001FFFFB = some (.ldiV h (.v 2) (BitVec.ofInt 21 (-5))) ∧
  decodeTableWord 64 0x002C1C0100281E00 = some (.shrrV h (.v 2) (.v 1) (.k 3) .rdn false .s32 false) ∧
  decodeTableWord 64 0x00801C0180180041 = some (.vsld h (.v 3) (.v 0) (.imm 0) true false 1) ∧
  decodeTableWord 64 0x06241C0022884000 = some (.bind h (.k 20) (.k 8) false false false) ∧
  decodeTableWord 64 0x07001C0060A00000 = some (.trap h (.imm 5)) ∧
  decodeTableWord 64 0x06441C0022800000 = some (.sleepat h (.k 20)) ∧
  decodeTableWord 64 0x0820020502006020 = some (.pairedWord .next ⟨.iadd, .always, .v 1, .v 10⟩ ⟨.iadd, .always, .v 3, .v 4⟩) ∧
  decodeTableWord 64 0x00021C0180281001 = none

/-- Memory keeps its canonical form at every step: addresses rising, no listed zero. -/
def Obligations.MemoryStaysCanonical : Prop :=
  ∀ s t : State, Memory.wf s.mem = true → step s = .next t → Memory.wf t.mem = true

/-- The module's count of nanoseconds never moves backwards (R277). -/
def Obligations.CountNeverGoesBack : Prop := ∀ s t : State, step s = .next t → s.time ≤ t.time

/-- What reset leaves (R23, R284, R285): the boot is not verified, every die is held in reset with no core enabled, nothing is
resident, queued or in flight, no bezel window is open, debug is closed; and memory has its canonical form. -/
def Obligations.ResetState : Prop :=
  let s := State.reset
  s.boot = .unverified ∧ s.standby = false ∧ s.agents = [] ∧ s.queue = [] ∧ s.launches = [] ∧ s.copies = [] ∧ s.mops = [] ∧ s.reqs = [] ∧
    (∀ d, (s.die d).released = false ∧ (s.die d).cores = 0 ∧ (s.die d).debug = .closed ∧
      ∀ pa w r, (s.die d).bezel.grants pa w r = false) ∧
    (∀ c, (s.ctx c).residency = .absent) ∧ Memory.wf s.mem = true

/-- Privilege (R97): a privileged word outside a handler and the system context, WRS to %lsd, %msd, %phwm and %prio among them, raises
cause 0x0D before any check of its operands; TRET does so outside a handler, in the system context too (R256, R397). -/
def Obligations.Privilege : Prop :=
  ∀ (s : State) (h : Head) (l : LHead) (d a b : Opnd) (all : Bool) (tag : BitVec 8),
    let no (i : Instr) : Prop := exec i s = .next (s.raise (s.agent.flt 0x0D))
    s.agent.handler = false →
      no (.tret h) ∧
      ((s.ctx s.agent.ctx).system = false →
        no (.tlbi h a b all) ∧ no (.gend h a) ∧ no (.park h a) ∧ no (.dirty h d a) ∧ no (.pctlStop h a b) ∧ no (.pctlResume h a b) ∧
          no (.pctlReset h a b) ∧ no (.larm h a b tag) ∧ (s.agent.slotBusy l.slot.val = false → no (.dtld l a)) ∧
          ∀ i : Fin 64, i.val = 0x1B ∨ i.val = 0x1C ∨ i.val = 0x1D ∨ i.val = 0x20 → no (.wrs h (.sp i) a))
end

