-- ==== Sys2Proof/Laws/Encoding.lean ====
section
/-! SUPPORT. Fields and words, and operands and codes, determine each other; the shared step of decoding an encoded full word. -/

namespace Sys2Proof

/-- Fields that fit their widths (R37). -/
structure Fields.InRange (f : Fields) : Prop where
  nas : f.nas < 16
  op : f.op < 1024
  la : f.la < 16
  pred : f.pred < 8
  pn : f.pn < 2
  d : f.d < 1024
  a : f.a < 1024
  b : f.b < 1024
  x : f.x < 2048

theorem Fields.ofWord_toWord (f : Fields) (h : f.InRange) : Fields.ofWord f.toWord = f := by
  obtain ⟨h1,h2,h3,h4,h5,h6,h7,h8,h9⟩ := h
  cases f
  simp only [Fields.ofWord, Fields.toWord, fld, Fields.mk.injEq] at *
  refine ⟨?_,?_,?_,?_,?_,?_,?_,?_,?_⟩ <;> omega

theorem Fields.full_toWord (f : Fields) (h : f.InRange) : fld f.toWord 59 1 = 0 := by
  obtain ⟨h1,h2,h3,h4,h5,h6,h7,h8,h9⟩ := h
  simp only [Fields.toWord, fld]; omega

theorem opnd_code (o : Opnd) (h : o.wf) : opnd o.code = o := by
  cases o with
  | rsv r => simpa [Opnd.wf, Opnd.code] using h
  | v n => have := n.isLt; simp [opnd, Opnd.code, this]
  | k n => 
    have := n.isLt
    show opnd (0x100 + n.val) = _
    unfold opnd
    rw [if_neg (by omega), if_pos (by omega)]
    simp [Fin.ext_iff, Fin.ofNat]; omega
  | sp n => 
    have := n.isLt
    show opnd (0x140 + n.val) = _
    unfold opnd
    repeat rw [if_neg (by omega)]
    rw [if_pos (by omega)]
    simp [Fin.ext_iff, Fin.ofNat]; omega
  | p n => 
    have := n.isLt
    show opnd (0x180 + n.val) = _
    unfold opnd
    repeat rw [if_neg (by omega)]
    rw [if_pos (by omega)]
    simp [Fin.ext_iff, Fin.ofNat]; omega
  | b n => 
    have := n.isLt
    show opnd (0x188 + n.val) = _
    unfold opnd
    repeat rw [if_neg (by omega)]
    rw [if_pos (by omega)]
    simp [Fin.ext_iff, Fin.ofNat]; omega
  | a n =>
    have := n.isLt
    show opnd (0x200 + n.val) = _
    unfold opnd
    repeat rw [if_neg (by omega)]
    rw [if_pos (by omega)]
    simp [Fin.ext_iff, Fin.ofNat]; omega
  | lane => rfl
  | imm i => 
    have := i.isLt
    show opnd (0x300 + i.toNat) = _
    unfold opnd
    repeat rw [if_neg (by omega)]
    congr 1; apply BitVec.eq_of_toNat_eq; simp; omega

theorem Opnd.code_lt (o : Opnd) : o.code < 1024 := by
  cases o <;> simp [Opnd.code] <;> omega
@[simp] theorem Nas.ofCode_code (n : Nas) : Nas.ofCode n.code = n := by cases n <;> rfl
theorem Nas.code_lt (n : Nas) : n.code < 16 := by cases n <;> decide
theorem Guard.pred_lt (g : Guard) : g.pred < 8 := by cases g <;> simp [Guard.pred]; omega
theorem Guard.pn_lt (g : Guard) : g.pn < 2 := by
  cases g with
  | always => decide
  | on n b => cases b <;> simp [Guard.pn]

theorem guardV_of (f : Fields) (g : Guard) (h1 : f.pred = g.pred) (h2 : f.pn = g.pn) : f.guardV = .ok g := by
  cases g with
  | always => simp_all [Fields.guardV, Fields.guard, Guard.pred, Guard.pn]
  | on n b =>
    have := n.isLt
    cases b <;> simp_all [Fields.guardV, Fields.guard, Guard.pred, Guard.pn] <;> omega

theorem wordOf_inRange (h : Head) {op d a b x : Nat} (h1 : op < 1024) (h2 : d < 1024) (h3 : a < 1024) (h4 : b < 1024) (h5 : x < 2048) :
  Fields.InRange { nas := h.nas.code, op := op, la := 0, pred := h.g.pred, pn := h.g.pn, d := d, a := a, b := b, x := x } :=
  ⟨Nas.code_lt _, h1, by simp, Guard.pred_lt _, Guard.pn_lt _, h2, h3, h4, h5⟩

theorem decode_wordOf (h : Head) {op d a b x : Nat} (h1 : op < 1024) (h2 : d < 1024) (h3 : a < 1024) (h4 : b < 1024) (h5 : x < 2048) :
  decode none (wordOf h op d a b x) = decodeFull none { nas := h.nas.code, op := op, la := 0, pred := h.g.pred, pn := h.g.pn, d := d, a := a, b := b, x := x } := by
  have r := wordOf_inRange h h1 h2 h3 h4 h5
  unfold decode wordOf
  rw [Fields.full_toWord _ r, Fields.ofWord_toWord _ r]; rfl

theorem headV_of (h : Head) (op d a b x : Nat) :
    Fields.headV { nas := h.nas.code, op := op, la := 0, pred := h.g.pred, pn := h.g.pn, d := d, a := a, b := b, x := x } = .ok h := by
  have e := guardV_of { nas := h.nas.code, op := op, la := 0, pred := h.g.pred, pn := h.g.pn, d := d, a := a, b := b, x := x } h.g rfl rfl
  cases h
  simp [Fields.headV, Fields.head, e, need0, check, bind, Except.bind, Nas.ofCode_code]

end Sys2Proof
end

