-- ==== Sys2Proof/Laws/State.lean ====
section
/-! SUPPORT. What the updates of the state and of an agent leave in each field, so that no proof unfolds a record update. -/

namespace Sys2Proof.Machine

/-! ### `me` -/

@[simp] theorem State.me_agent (s : State) (f : Agent → Agent) : (s.me f).agent = f s.agent := rfl
@[simp] theorem State.me_others (s : State) (f : Agent → Agent) : (s.me f).others = s.others := rfl
@[simp] theorem State.me_events (s : State) (f : Agent → Agent) : (s.me f).events = s.events := rfl
@[simp] theorem State.me_mem (s : State) (f : Agent → Agent) : (s.me f).mem = s.mem := rfl
@[simp] theorem State.me_memPoison (s : State) (f : Agent → Agent) : (s.me f).memPoison = s.memPoison := rfl
@[simp] theorem State.me_ctxs (s : State) (f : Agent → Agent) : (s.me f).ctxs = s.ctxs := rfl
@[simp] theorem State.me_dies (s : State) (f : Agent → Agent) : (s.me f).dies = s.dies := rfl
@[simp] theorem State.me_launches (s : State) (f : Agent → Agent) : (s.me f).launches = s.launches := rfl
@[simp] theorem State.me_queue (s : State) (f : Agent → Agent) : (s.me f).queue = s.queue := rfl
@[simp] theorem State.me_scratches (s : State) (f : Agent → Agent) : (s.me f).scratches = s.scratches := rfl
@[simp] theorem State.me_bufs (s : State) (f : Agent → Agent) : (s.me f).bufs = s.bufs := rfl
@[simp] theorem State.me_reqs (s : State) (f : Agent → Agent) : (s.me f).reqs = s.reqs := rfl
@[simp] theorem State.me_copies (s : State) (f : Agent → Agent) : (s.me f).copies = s.copies := rfl
@[simp] theorem State.me_mops (s : State) (f : Agent → Agent) : (s.me f).mops = s.mops := rfl
@[simp] theorem State.me_mirrors (s : State) (f : Agent → Agent) : (s.me f).mirrors = s.mirrors := rfl
@[simp] theorem State.me_rounds (s : State) (f : Agent → Agent) : (s.me f).rounds = s.rounds := rfl
@[simp] theorem State.me_waiters (s : State) (f : Agent → Agent) : (s.me f).waiters = s.waiters := rfl
@[simp] theorem State.me_pctls (s : State) (f : Agent → Agent) : (s.me f).pctls = s.pctls := rfl
@[simp] theorem State.me_images (s : State) (f : Agent → Agent) : (s.me f).images = s.images := rfl
@[simp] theorem State.me_remoteWrites (s : State) (f : Agent → Agent) : (s.me f).remoteWrites = s.remoteWrites := rfl
@[simp] theorem State.me_time (s : State) (f : Agent → Agent) : (s.me f).time = s.time := rfl
@[simp] theorem State.me_boot (s : State) (f : Agent → Agent) : (s.me f).boot = s.boot := rfl
@[simp] theorem State.me_standby (s : State) (f : Agent → Agent) : (s.me f).standby = s.standby := rfl
@[simp] theorem State.me_alerts (s : State) (f : Agent → Agent) : (s.me f).alerts = s.alerts := rfl
@[simp] theorem State.me_blocked (s : State) (f : Agent → Agent) : (s.me f).blocked = s.blocked := rfl
@[simp] theorem State.me_traces (s : State) (f : Agent → Agent) : (s.me f).traces = s.traces := rfl
@[simp] theorem State.me_errors (s : State) (f : Agent → Agent) : (s.me f).errors = s.errors := rfl
@[simp] theorem State.me_turns (s : State) (f : Agent → Agent) : (s.me f).turns = s.turns := rfl
@[simp] theorem State.me_fresh (s : State) (f : Agent → Agent) : (s.me f).fresh = s.fresh := rfl
@[simp] theorem State.me_handles (s : State) (f : Agent → Agent) : (s.me f).handles = s.handles := rfl

/-! ### `fresh1` -/

@[simp] theorem State.fresh1_agent (s : State) : (s.fresh1).agent = s.agent := rfl
@[simp] theorem State.fresh1_others (s : State) : (s.fresh1).others = s.others := rfl
@[simp] theorem State.fresh1_events (s : State) : (s.fresh1).events = s.events := rfl
@[simp] theorem State.fresh1_mem (s : State) : (s.fresh1).mem = s.mem := rfl
@[simp] theorem State.fresh1_memPoison (s : State) : (s.fresh1).memPoison = s.memPoison := rfl
@[simp] theorem State.fresh1_ctxs (s : State) : (s.fresh1).ctxs = s.ctxs := rfl
@[simp] theorem State.fresh1_dies (s : State) : (s.fresh1).dies = s.dies := rfl
@[simp] theorem State.fresh1_launches (s : State) : (s.fresh1).launches = s.launches := rfl
@[simp] theorem State.fresh1_queue (s : State) : (s.fresh1).queue = s.queue := rfl
@[simp] theorem State.fresh1_scratches (s : State) : (s.fresh1).scratches = s.scratches := rfl
@[simp] theorem State.fresh1_bufs (s : State) : (s.fresh1).bufs = s.bufs := rfl
@[simp] theorem State.fresh1_reqs (s : State) : (s.fresh1).reqs = s.reqs := rfl
@[simp] theorem State.fresh1_copies (s : State) : (s.fresh1).copies = s.copies := rfl
@[simp] theorem State.fresh1_mops (s : State) : (s.fresh1).mops = s.mops := rfl
@[simp] theorem State.fresh1_mirrors (s : State) : (s.fresh1).mirrors = s.mirrors := rfl
@[simp] theorem State.fresh1_rounds (s : State) : (s.fresh1).rounds = s.rounds := rfl
@[simp] theorem State.fresh1_waiters (s : State) : (s.fresh1).waiters = s.waiters := rfl
@[simp] theorem State.fresh1_pctls (s : State) : (s.fresh1).pctls = s.pctls := rfl
@[simp] theorem State.fresh1_images (s : State) : (s.fresh1).images = s.images := rfl
@[simp] theorem State.fresh1_remoteWrites (s : State) : (s.fresh1).remoteWrites = s.remoteWrites := rfl
@[simp] theorem State.fresh1_time (s : State) : (s.fresh1).time = s.time := rfl
@[simp] theorem State.fresh1_boot (s : State) : (s.fresh1).boot = s.boot := rfl
@[simp] theorem State.fresh1_standby (s : State) : (s.fresh1).standby = s.standby := rfl
@[simp] theorem State.fresh1_alerts (s : State) : (s.fresh1).alerts = s.alerts := rfl
@[simp] theorem State.fresh1_blocked (s : State) : (s.fresh1).blocked = s.blocked := rfl
@[simp] theorem State.fresh1_traces (s : State) : (s.fresh1).traces = s.traces := rfl
@[simp] theorem State.fresh1_errors (s : State) : (s.fresh1).errors = s.errors := rfl
@[simp] theorem State.fresh1_turns (s : State) : (s.fresh1).turns = s.turns := rfl
@[simp] theorem State.fresh1_fresh (s : State) : (s.fresh1).fresh = s.fresh := rfl
@[simp] theorem State.fresh1_handles (s : State) : (s.fresh1).handles = s.handles + 1 := rfl

/-! ### `setCtx` -/

@[simp] theorem State.setCtx_agent (s : State) (c : Nat) (x : Ctx) : (s.setCtx c x).agent = s.agent := rfl
@[simp] theorem State.setCtx_others (s : State) (c : Nat) (x : Ctx) : (s.setCtx c x).others = s.others := rfl
@[simp] theorem State.setCtx_events (s : State) (c : Nat) (x : Ctx) : (s.setCtx c x).events = s.events := rfl
@[simp] theorem State.setCtx_mem (s : State) (c : Nat) (x : Ctx) : (s.setCtx c x).mem = s.mem := rfl
@[simp] theorem State.setCtx_memPoison (s : State) (c : Nat) (x : Ctx) : (s.setCtx c x).memPoison = s.memPoison := rfl
@[simp] theorem State.setCtx_ctxs (s : State) (c : Nat) (x : Ctx) : (s.setCtx c x).ctxs = aset s.ctxs c x := rfl
@[simp] theorem State.setCtx_dies (s : State) (c : Nat) (x : Ctx) : (s.setCtx c x).dies = s.dies := rfl
@[simp] theorem State.setCtx_launches (s : State) (c : Nat) (x : Ctx) : (s.setCtx c x).launches = s.launches := rfl
@[simp] theorem State.setCtx_queue (s : State) (c : Nat) (x : Ctx) : (s.setCtx c x).queue = s.queue := rfl
@[simp] theorem State.setCtx_scratches (s : State) (c : Nat) (x : Ctx) : (s.setCtx c x).scratches = s.scratches := rfl
@[simp] theorem State.setCtx_bufs (s : State) (c : Nat) (x : Ctx) : (s.setCtx c x).bufs = s.bufs := rfl
@[simp] theorem State.setCtx_reqs (s : State) (c : Nat) (x : Ctx) : (s.setCtx c x).reqs = s.reqs := rfl
@[simp] theorem State.setCtx_copies (s : State) (c : Nat) (x : Ctx) : (s.setCtx c x).copies = s.copies := rfl
@[simp] theorem State.setCtx_mops (s : State) (c : Nat) (x : Ctx) : (s.setCtx c x).mops = s.mops := rfl
@[simp] theorem State.setCtx_mirrors (s : State) (c : Nat) (x : Ctx) : (s.setCtx c x).mirrors = s.mirrors := rfl
@[simp] theorem State.setCtx_rounds (s : State) (c : Nat) (x : Ctx) : (s.setCtx c x).rounds = s.rounds := rfl
@[simp] theorem State.setCtx_waiters (s : State) (c : Nat) (x : Ctx) : (s.setCtx c x).waiters = s.waiters := rfl
@[simp] theorem State.setCtx_pctls (s : State) (c : Nat) (x : Ctx) : (s.setCtx c x).pctls = s.pctls := rfl
@[simp] theorem State.setCtx_images (s : State) (c : Nat) (x : Ctx) : (s.setCtx c x).images = s.images := rfl
@[simp] theorem State.setCtx_remoteWrites (s : State) (c : Nat) (x : Ctx) : (s.setCtx c x).remoteWrites = s.remoteWrites := rfl
@[simp] theorem State.setCtx_time (s : State) (c : Nat) (x : Ctx) : (s.setCtx c x).time = s.time := rfl
@[simp] theorem State.setCtx_boot (s : State) (c : Nat) (x : Ctx) : (s.setCtx c x).boot = s.boot := rfl
@[simp] theorem State.setCtx_standby (s : State) (c : Nat) (x : Ctx) : (s.setCtx c x).standby = s.standby := rfl
@[simp] theorem State.setCtx_alerts (s : State) (c : Nat) (x : Ctx) : (s.setCtx c x).alerts = s.alerts := rfl
@[simp] theorem State.setCtx_blocked (s : State) (c : Nat) (x : Ctx) : (s.setCtx c x).blocked = s.blocked := rfl
@[simp] theorem State.setCtx_traces (s : State) (c : Nat) (x : Ctx) : (s.setCtx c x).traces = s.traces := rfl
@[simp] theorem State.setCtx_errors (s : State) (c : Nat) (x : Ctx) : (s.setCtx c x).errors = s.errors := rfl
@[simp] theorem State.setCtx_turns (s : State) (c : Nat) (x : Ctx) : (s.setCtx c x).turns = s.turns := rfl
@[simp] theorem State.setCtx_fresh (s : State) (c : Nat) (x : Ctx) : (s.setCtx c x).fresh = s.fresh := rfl
@[simp] theorem State.setCtx_handles (s : State) (c : Nat) (x : Ctx) : (s.setCtx c x).handles = s.handles := rfl

/-! ### `setDie` -/

@[simp] theorem State.setDie_agent (s : State) (d : Nat) (x : Die) : (s.setDie d x).agent = s.agent := rfl
@[simp] theorem State.setDie_others (s : State) (d : Nat) (x : Die) : (s.setDie d x).others = s.others := rfl
@[simp] theorem State.setDie_events (s : State) (d : Nat) (x : Die) : (s.setDie d x).events = s.events := rfl
@[simp] theorem State.setDie_mem (s : State) (d : Nat) (x : Die) : (s.setDie d x).mem = s.mem := rfl
@[simp] theorem State.setDie_memPoison (s : State) (d : Nat) (x : Die) : (s.setDie d x).memPoison = s.memPoison := rfl
@[simp] theorem State.setDie_ctxs (s : State) (d : Nat) (x : Die) : (s.setDie d x).ctxs = s.ctxs := rfl
@[simp] theorem State.setDie_dies (s : State) (d : Nat) (x : Die) : (s.setDie d x).dies = aset s.dies d x := rfl
@[simp] theorem State.setDie_launches (s : State) (d : Nat) (x : Die) : (s.setDie d x).launches = s.launches := rfl
@[simp] theorem State.setDie_queue (s : State) (d : Nat) (x : Die) : (s.setDie d x).queue = s.queue := rfl
@[simp] theorem State.setDie_scratches (s : State) (d : Nat) (x : Die) : (s.setDie d x).scratches = s.scratches := rfl
@[simp] theorem State.setDie_bufs (s : State) (d : Nat) (x : Die) : (s.setDie d x).bufs = s.bufs := rfl
@[simp] theorem State.setDie_reqs (s : State) (d : Nat) (x : Die) : (s.setDie d x).reqs = s.reqs := rfl
@[simp] theorem State.setDie_copies (s : State) (d : Nat) (x : Die) : (s.setDie d x).copies = s.copies := rfl
@[simp] theorem State.setDie_mops (s : State) (d : Nat) (x : Die) : (s.setDie d x).mops = s.mops := rfl
@[simp] theorem State.setDie_mirrors (s : State) (d : Nat) (x : Die) : (s.setDie d x).mirrors = s.mirrors := rfl
@[simp] theorem State.setDie_rounds (s : State) (d : Nat) (x : Die) : (s.setDie d x).rounds = s.rounds := rfl
@[simp] theorem State.setDie_waiters (s : State) (d : Nat) (x : Die) : (s.setDie d x).waiters = s.waiters := rfl
@[simp] theorem State.setDie_pctls (s : State) (d : Nat) (x : Die) : (s.setDie d x).pctls = s.pctls := rfl
@[simp] theorem State.setDie_images (s : State) (d : Nat) (x : Die) : (s.setDie d x).images = s.images := rfl
@[simp] theorem State.setDie_remoteWrites (s : State) (d : Nat) (x : Die) : (s.setDie d x).remoteWrites = s.remoteWrites := rfl
@[simp] theorem State.setDie_time (s : State) (d : Nat) (x : Die) : (s.setDie d x).time = s.time := rfl
@[simp] theorem State.setDie_boot (s : State) (d : Nat) (x : Die) : (s.setDie d x).boot = s.boot := rfl
@[simp] theorem State.setDie_standby (s : State) (d : Nat) (x : Die) : (s.setDie d x).standby = s.standby := rfl
@[simp] theorem State.setDie_alerts (s : State) (d : Nat) (x : Die) : (s.setDie d x).alerts = s.alerts := rfl
@[simp] theorem State.setDie_blocked (s : State) (d : Nat) (x : Die) : (s.setDie d x).blocked = s.blocked := rfl
@[simp] theorem State.setDie_traces (s : State) (d : Nat) (x : Die) : (s.setDie d x).traces = s.traces := rfl
@[simp] theorem State.setDie_errors (s : State) (d : Nat) (x : Die) : (s.setDie d x).errors = s.errors := rfl
@[simp] theorem State.setDie_turns (s : State) (d : Nat) (x : Die) : (s.setDie d x).turns = s.turns := rfl
@[simp] theorem State.setDie_fresh (s : State) (d : Nat) (x : Die) : (s.setDie d x).fresh = s.fresh := rfl
@[simp] theorem State.setDie_handles (s : State) (d : Nat) (x : Die) : (s.setDie d x).handles = s.handles := rfl

/-! ### `setScratch` -/

@[simp] theorem State.setScratch_agent (s : State) (i : Nat) (x : Scratch) : (s.setScratch i x).agent = s.agent := rfl
@[simp] theorem State.setScratch_others (s : State) (i : Nat) (x : Scratch) : (s.setScratch i x).others = s.others := rfl
@[simp] theorem State.setScratch_events (s : State) (i : Nat) (x : Scratch) : (s.setScratch i x).events = s.events := rfl
@[simp] theorem State.setScratch_mem (s : State) (i : Nat) (x : Scratch) : (s.setScratch i x).mem = s.mem := rfl
@[simp] theorem State.setScratch_memPoison (s : State) (i : Nat) (x : Scratch) : (s.setScratch i x).memPoison = s.memPoison := rfl
@[simp] theorem State.setScratch_ctxs (s : State) (i : Nat) (x : Scratch) : (s.setScratch i x).ctxs = s.ctxs := rfl
@[simp] theorem State.setScratch_dies (s : State) (i : Nat) (x : Scratch) : (s.setScratch i x).dies = s.dies := rfl
@[simp] theorem State.setScratch_launches (s : State) (i : Nat) (x : Scratch) : (s.setScratch i x).launches = s.launches := rfl
@[simp] theorem State.setScratch_queue (s : State) (i : Nat) (x : Scratch) : (s.setScratch i x).queue = s.queue := rfl
@[simp] theorem State.setScratch_scratches (s : State) (i : Nat) (x : Scratch) : (s.setScratch i x).scratches = aset s.scratches i x := rfl
@[simp] theorem State.setScratch_bufs (s : State) (i : Nat) (x : Scratch) : (s.setScratch i x).bufs = s.bufs := rfl
@[simp] theorem State.setScratch_reqs (s : State) (i : Nat) (x : Scratch) : (s.setScratch i x).reqs = s.reqs := rfl
@[simp] theorem State.setScratch_copies (s : State) (i : Nat) (x : Scratch) : (s.setScratch i x).copies = s.copies := rfl
@[simp] theorem State.setScratch_mops (s : State) (i : Nat) (x : Scratch) : (s.setScratch i x).mops = s.mops := rfl
@[simp] theorem State.setScratch_mirrors (s : State) (i : Nat) (x : Scratch) : (s.setScratch i x).mirrors = s.mirrors := rfl
@[simp] theorem State.setScratch_rounds (s : State) (i : Nat) (x : Scratch) : (s.setScratch i x).rounds = s.rounds := rfl
@[simp] theorem State.setScratch_waiters (s : State) (i : Nat) (x : Scratch) : (s.setScratch i x).waiters = s.waiters := rfl
@[simp] theorem State.setScratch_pctls (s : State) (i : Nat) (x : Scratch) : (s.setScratch i x).pctls = s.pctls := rfl
@[simp] theorem State.setScratch_images (s : State) (i : Nat) (x : Scratch) : (s.setScratch i x).images = s.images := rfl
@[simp] theorem State.setScratch_remoteWrites (s : State) (i : Nat) (x : Scratch) : (s.setScratch i x).remoteWrites = s.remoteWrites := rfl
@[simp] theorem State.setScratch_time (s : State) (i : Nat) (x : Scratch) : (s.setScratch i x).time = s.time := rfl
@[simp] theorem State.setScratch_boot (s : State) (i : Nat) (x : Scratch) : (s.setScratch i x).boot = s.boot := rfl
@[simp] theorem State.setScratch_standby (s : State) (i : Nat) (x : Scratch) : (s.setScratch i x).standby = s.standby := rfl
@[simp] theorem State.setScratch_alerts (s : State) (i : Nat) (x : Scratch) : (s.setScratch i x).alerts = s.alerts := rfl
@[simp] theorem State.setScratch_blocked (s : State) (i : Nat) (x : Scratch) : (s.setScratch i x).blocked = s.blocked := rfl
@[simp] theorem State.setScratch_traces (s : State) (i : Nat) (x : Scratch) : (s.setScratch i x).traces = s.traces := rfl
@[simp] theorem State.setScratch_errors (s : State) (i : Nat) (x : Scratch) : (s.setScratch i x).errors = s.errors := rfl
@[simp] theorem State.setScratch_turns (s : State) (i : Nat) (x : Scratch) : (s.setScratch i x).turns = s.turns := rfl
@[simp] theorem State.setScratch_fresh (s : State) (i : Nat) (x : Scratch) : (s.setScratch i x).fresh = s.fresh := rfl
@[simp] theorem State.setScratch_handles (s : State) (i : Nat) (x : Scratch) : (s.setScratch i x).handles = s.handles := rfl

/-! ### `setRound` -/

@[simp] theorem State.setRound_agent (s : State) (r : Round) : (s.setRound r).agent = s.agent := rfl
@[simp] theorem State.setRound_others (s : State) (r : Round) : (s.setRound r).others = s.others := rfl
@[simp] theorem State.setRound_events (s : State) (r : Round) : (s.setRound r).events = s.events := rfl
@[simp] theorem State.setRound_mem (s : State) (r : Round) : (s.setRound r).mem = s.mem := rfl
@[simp] theorem State.setRound_memPoison (s : State) (r : Round) : (s.setRound r).memPoison = s.memPoison := rfl
@[simp] theorem State.setRound_ctxs (s : State) (r : Round) : (s.setRound r).ctxs = s.ctxs := rfl
@[simp] theorem State.setRound_dies (s : State) (r : Round) : (s.setRound r).dies = s.dies := rfl
@[simp] theorem State.setRound_launches (s : State) (r : Round) : (s.setRound r).launches = s.launches := rfl
@[simp] theorem State.setRound_queue (s : State) (r : Round) : (s.setRound r).queue = s.queue := rfl
@[simp] theorem State.setRound_scratches (s : State) (r : Round) : (s.setRound r).scratches = s.scratches := rfl
@[simp] theorem State.setRound_bufs (s : State) (r : Round) : (s.setRound r).bufs = s.bufs := rfl
@[simp] theorem State.setRound_reqs (s : State) (r : Round) : (s.setRound r).reqs = s.reqs := rfl
@[simp] theorem State.setRound_copies (s : State) (r : Round) : (s.setRound r).copies = s.copies := rfl
@[simp] theorem State.setRound_mops (s : State) (r : Round) : (s.setRound r).mops = s.mops := rfl
@[simp] theorem State.setRound_mirrors (s : State) (r : Round) : (s.setRound r).mirrors = s.mirrors := rfl
@[simp] theorem State.setRound_rounds (s : State) (r : Round) : (s.setRound r).rounds = r :: s.rounds.filter (fun x => !(x.launch == r.launch && x.g == r.g)) := rfl
@[simp] theorem State.setRound_waiters (s : State) (r : Round) : (s.setRound r).waiters = s.waiters := rfl
@[simp] theorem State.setRound_pctls (s : State) (r : Round) : (s.setRound r).pctls = s.pctls := rfl
@[simp] theorem State.setRound_images (s : State) (r : Round) : (s.setRound r).images = s.images := rfl
@[simp] theorem State.setRound_remoteWrites (s : State) (r : Round) : (s.setRound r).remoteWrites = s.remoteWrites := rfl
@[simp] theorem State.setRound_time (s : State) (r : Round) : (s.setRound r).time = s.time := rfl
@[simp] theorem State.setRound_boot (s : State) (r : Round) : (s.setRound r).boot = s.boot := rfl
@[simp] theorem State.setRound_standby (s : State) (r : Round) : (s.setRound r).standby = s.standby := rfl
@[simp] theorem State.setRound_alerts (s : State) (r : Round) : (s.setRound r).alerts = s.alerts := rfl
@[simp] theorem State.setRound_blocked (s : State) (r : Round) : (s.setRound r).blocked = s.blocked := rfl
@[simp] theorem State.setRound_traces (s : State) (r : Round) : (s.setRound r).traces = s.traces := rfl
@[simp] theorem State.setRound_errors (s : State) (r : Round) : (s.setRound r).errors = s.errors := rfl
@[simp] theorem State.setRound_turns (s : State) (r : Round) : (s.setRound r).turns = s.turns := rfl
@[simp] theorem State.setRound_fresh (s : State) (r : Round) : (s.setRound r).fresh = s.fresh := rfl
@[simp] theorem State.setRound_handles (s : State) (r : Round) : (s.setRound r).handles = s.handles := rfl

/-! ### `setK` -/

@[simp] theorem Agent.setK_id (ag : Agent) (n : Nat) (w : Word) : (ag.setK n w).id = ag.id := rfl
@[simp] theorem Agent.setK_kind (ag : Agent) (n : Nat) (w : Word) : (ag.setK n w).kind = ag.kind := rfl
@[simp] theorem Agent.setK_status (ag : Agent) (n : Nat) (w : Word) : (ag.setK n w).status = ag.status := rfl
@[simp] theorem Agent.setK_die (ag : Agent) (n : Nat) (w : Word) : (ag.setK n w).die = ag.die := rfl
@[simp] theorem Agent.setK_core (ag : Agent) (n : Nat) (w : Word) : (ag.setK n w).core = ag.core := rfl
@[simp] theorem Agent.setK_ridx (ag : Agent) (n : Nat) (w : Word) : (ag.setK n w).ridx = ag.ridx := rfl
@[simp] theorem Agent.setK_ctx (ag : Agent) (n : Nat) (w : Word) : (ag.setK n w).ctx = ag.ctx := rfl
@[simp] theorem Agent.setK_launch (ag : Agent) (n : Nat) (w : Word) : (ag.setK n w).launch = ag.launch := rfl
@[simp] theorem Agent.setK_wid (ag : Agent) (n : Nat) (w : Word) : (ag.setK n w).wid = ag.wid := rfl
@[simp] theorem Agent.setK_nw (ag : Agent) (n : Nat) (w : Word) : (ag.setK n w).nw = ag.nw := rfl
@[simp] theorem Agent.setK_wx (ag : Agent) (n : Nat) (w : Word) : (ag.setK n w).wx = ag.wx := rfl
@[simp] theorem Agent.setK_wy (ag : Agent) (n : Nat) (w : Word) : (ag.setK n w).wy = ag.wy := rfl
@[simp] theorem Agent.setK_wz (ag : Agent) (n : Nat) (w : Word) : (ag.setK n w).wz = ag.wz := rfl
@[simp] theorem Agent.setK_gm (ag : Agent) (n : Nat) (w : Word) : (ag.setK n w).gm = ag.gm := rfl
@[simp] theorem Agent.setK_pc (ag : Agent) (n : Nat) (w : Word) : (ag.setK n w).pc = ag.pc := rfl
@[simp] theorem Agent.setK_vn (ag : Agent) (n : Nat) (w : Word) : (ag.setK n w).vn = ag.vn := rfl
@[simp] theorem Agent.setK_v (ag : Agent) (n : Nat) (w : Word) : (ag.setK n w).v = ag.v := rfl
@[simp] theorem Agent.setK_k (ag : Agent) (n : Nat) (w : Word) : (ag.setK n w).k = aset ag.k n w := rfl
@[simp] theorem Agent.setK_a (ag : Agent) (n : Nat) (w : Word) : (ag.setK n w).a = ag.a := rfl
@[simp] theorem Agent.setK_p (ag : Agent) (n : Nat) (w : Word) : (ag.setK n w).p = ag.p := rfl
@[simp] theorem Agent.setK_b (ag : Agent) (n : Nat) (w : Word) : (ag.setK n w).b = ag.b := rfl
@[simp] theorem Agent.setK_exm (ag : Agent) (n : Nat) (w : Word) : (ag.setK n w).exm = ag.exm := rfl
@[simp] theorem Agent.setK_live (ag : Agent) (n : Nat) (w : Word) : (ag.setK n w).live = ag.live := rfl
@[simp] theorem Agent.setK_wst (ag : Agent) (n : Nat) (w : Word) : (ag.setK n w).wst = ag.wst := rfl
@[simp] theorem Agent.setK_lclk (ag : Agent) (n : Nat) (w : Word) : (ag.setK n w).lclk = ag.lclk := rfl
@[simp] theorem Agent.setK_cbm (ag : Agent) (n : Nat) (w : Word) : (ag.setK n w).cbm = ag.cbm := rfl
@[simp] theorem Agent.setK_lc (ag : Agent) (n : Nat) (w : Word) : (ag.setK n w).lc = ag.lc := rfl
@[simp] theorem Agent.setK_loops (ag : Agent) (n : Nat) (w : Word) : (ag.setK n w).loops = ag.loops := rfl
@[simp] theorem Agent.setK_link (ag : Agent) (n : Nat) (w : Word) : (ag.setK n w).link = ag.link := rfl
@[simp] theorem Agent.setK_msk (ag : Agent) (n : Nat) (w : Word) : (ag.setK n w).msk = ag.msk := rfl
@[simp] theorem Agent.setK_j0 (ag : Agent) (n : Nat) (w : Word) : (ag.setK n w).j0 = ag.j0 := rfl
@[simp] theorem Agent.setK_j1 (ag : Agent) (n : Nat) (w : Word) : (ag.setK n w).j1 = ag.j1 := rfl
@[simp] theorem Agent.setK_phwm (ag : Agent) (n : Nat) (w : Word) : (ag.setK n w).phwm = ag.phwm := rfl
@[simp] theorem Agent.setK_prio (ag : Agent) (n : Nat) (w : Word) : (ag.setK n w).prio = ag.prio := rfl
@[simp] theorem Agent.setK_argp (ag : Agent) (n : Nat) (w : Word) : (ag.setK n w).argp = ag.argp := rfl
@[simp] theorem Agent.setK_handler (ag : Agent) (n : Nat) (w : Word) : (ag.setK n w).handler = ag.handler := rfl
@[simp] theorem Agent.setK_tframe (ag : Agent) (n : Nat) (w : Word) : (ag.setK n w).tframe = ag.tframe := rfl
@[simp] theorem Agent.setK_binds (ag : Agent) (n : Nat) (w : Word) : (ag.setK n w).binds = ag.binds := rfl
@[simp] theorem Agent.setK_past (ag : Agent) (n : Nat) (w : Word) : (ag.setK n w).past = ag.past := rfl
@[simp] theorem Agent.setK_held (ag : Agent) (n : Nat) (w : Word) : (ag.setK n w).held = ag.held := rfl
@[simp] theorem Agent.setK_inflight (ag : Agent) (n : Nat) (w : Word) : (ag.setK n w).inflight = ag.inflight := rfl
@[simp] theorem Agent.setK_hold (ag : Agent) (n : Nat) (w : Word) : (ag.setK n w).hold = ag.hold := rfl
@[simp] theorem Agent.setK_wait (ag : Agent) (n : Nat) (w : Word) : (ag.setK n w).wait = ag.wait := rfl
@[simp] theorem Agent.setK_recorded (ag : Agent) (n : Nat) (w : Word) : (ag.setK n w).recorded = ag.recorded := rfl
@[simp] theorem Agent.setK_late (ag : Agent) (n : Nat) (w : Word) : (ag.setK n w).late = ag.late := rfl
@[simp] theorem Agent.setK_report (ag : Agent) (n : Nat) (w : Word) : (ag.setK n w).report = ag.report := rfl
@[simp] theorem Agent.setK_delivered (ag : Agent) (n : Nat) (w : Word) : (ag.setK n w).delivered = ag.delivered := rfl
@[simp] theorem Agent.setK_wdSignal (ag : Agent) (n : Nat) (w : Word) : (ag.setK n w).wdSignal = ag.wdSignal := rfl
@[simp] theorem Agent.setK_fdSignal (ag : Agent) (n : Nat) (w : Word) : (ag.setK n w).fdSignal = ag.fdSignal := rfl
@[simp] theorem Agent.setK_arrived (ag : Agent) (n : Nat) (w : Word) : (ag.setK n w).arrived = ag.arrived := rfl
@[simp] theorem Agent.setK_arriving (ag : Agent) (n : Nat) (w : Word) : (ag.setK n w).arriving = ag.arriving := rfl
@[simp] theorem Agent.setK_arrPending (ag : Agent) (n : Nat) (w : Word) : (ag.setK n w).arrPending = ag.arrPending := rfl
@[simp] theorem Agent.setK_caught (ag : Agent) (n : Nat) (w : Word) : (ag.setK n w).caught = ag.caught := rfl
@[simp] theorem Agent.setK_clocks (ag : Agent) (n : Nat) (w : Word) : (ag.setK n w).clocks = ag.clocks := rfl
@[simp] theorem Agent.setK_returning (ag : Agent) (n : Nat) (w : Word) : (ag.setK n w).returning = ag.returning := rfl
@[simp] theorem Agent.setK_pwCount (ag : Agent) (n : Nat) (w : Word) : (ag.setK n w).pwCount = ag.pwCount := rfl
@[simp] theorem Agent.setK_trig (ag : Agent) (n : Nat) (w : Word) : (ag.setK n w).trig = ag.trig := rfl
@[simp] theorem Agent.setK_detBuf (ag : Agent) (n : Nat) (w : Word) : (ag.setK n w).detBuf = ag.detBuf := rfl
@[simp] theorem Agent.setK_scratch (ag : Agent) (n : Nat) (w : Word) : (ag.setK n w).scratch = ag.scratch := rfl
@[simp] theorem Agent.setK_privBase (ag : Agent) (n : Nat) (w : Word) : (ag.setK n w).privBase = ag.privBase := rfl
@[simp] theorem Agent.setK_pw (ag : Agent) (n : Nat) (w : Word) : (ag.setK n w).pw = ag.pw := rfl
@[simp] theorem Agent.setK_readySince (ag : Agent) (n : Nat) (w : Word) : (ag.setK n w).readySince = ag.readySince := rfl
@[simp] theorem Agent.setK_wasReady (ag : Agent) (n : Nat) (w : Word) : (ag.setK n w).wasReady = ag.wasReady := rfl
@[simp] theorem Agent.setK_prompt (ag : Agent) (n : Nat) (w : Word) : (ag.setK n w).prompt = ag.prompt := rfl
@[simp] theorem Agent.setK_passed (ag : Agent) (n : Nat) (w : Word) : (ag.setK n w).passed = ag.passed := rfl
@[simp] theorem Agent.setK_forker (ag : Agent) (n : Nat) (w : Word) : (ag.setK n w).forker = ag.forker := rfl
@[simp] theorem Agent.setK_parties (ag : Agent) (n : Nat) (w : Word) : (ag.setK n w).parties = ag.parties := rfl
@[simp] theorem Agent.setK_pairGroup (ag : Agent) (n : Nat) (w : Word) : (ag.setK n w).pairGroup = ag.pairGroup := rfl
@[simp] theorem Agent.setK_rdvs (ag : Agent) (n : Nat) (w : Word) : (ag.setK n w).rdvs = ag.rdvs := rfl
@[simp] theorem Agent.setK_rdvCount (ag : Agent) (n : Nat) (w : Word) : (ag.setK n w).rdvCount = ag.rdvCount := rfl
@[simp] theorem Agent.setK_seqFault (ag : Agent) (n : Nat) (w : Word) : (ag.setK n w).seqFault = ag.seqFault := rfl
@[simp] theorem Agent.setK_image (ag : Agent) (n : Nat) (w : Word) : (ag.setK n w).image = ag.image := rfl
@[simp] theorem Agent.setK_refused (ag : Agent) (n : Nat) (w : Word) : (ag.setK n w).refused = ag.refused := rfl

/-! ### `setA` -/

@[simp] theorem Agent.setA_id (ag : Agent) (n : Nat) (r : AReg) : (ag.setA n r).id = ag.id := rfl
@[simp] theorem Agent.setA_kind (ag : Agent) (n : Nat) (r : AReg) : (ag.setA n r).kind = ag.kind := rfl
@[simp] theorem Agent.setA_status (ag : Agent) (n : Nat) (r : AReg) : (ag.setA n r).status = ag.status := rfl
@[simp] theorem Agent.setA_die (ag : Agent) (n : Nat) (r : AReg) : (ag.setA n r).die = ag.die := rfl
@[simp] theorem Agent.setA_core (ag : Agent) (n : Nat) (r : AReg) : (ag.setA n r).core = ag.core := rfl
@[simp] theorem Agent.setA_ridx (ag : Agent) (n : Nat) (r : AReg) : (ag.setA n r).ridx = ag.ridx := rfl
@[simp] theorem Agent.setA_ctx (ag : Agent) (n : Nat) (r : AReg) : (ag.setA n r).ctx = ag.ctx := rfl
@[simp] theorem Agent.setA_launch (ag : Agent) (n : Nat) (r : AReg) : (ag.setA n r).launch = ag.launch := rfl
@[simp] theorem Agent.setA_wid (ag : Agent) (n : Nat) (r : AReg) : (ag.setA n r).wid = ag.wid := rfl
@[simp] theorem Agent.setA_nw (ag : Agent) (n : Nat) (r : AReg) : (ag.setA n r).nw = ag.nw := rfl
@[simp] theorem Agent.setA_wx (ag : Agent) (n : Nat) (r : AReg) : (ag.setA n r).wx = ag.wx := rfl
@[simp] theorem Agent.setA_wy (ag : Agent) (n : Nat) (r : AReg) : (ag.setA n r).wy = ag.wy := rfl
@[simp] theorem Agent.setA_wz (ag : Agent) (n : Nat) (r : AReg) : (ag.setA n r).wz = ag.wz := rfl
@[simp] theorem Agent.setA_gm (ag : Agent) (n : Nat) (r : AReg) : (ag.setA n r).gm = ag.gm := rfl
@[simp] theorem Agent.setA_pc (ag : Agent) (n : Nat) (r : AReg) : (ag.setA n r).pc = ag.pc := rfl
@[simp] theorem Agent.setA_vn (ag : Agent) (n : Nat) (r : AReg) : (ag.setA n r).vn = ag.vn := rfl
@[simp] theorem Agent.setA_v (ag : Agent) (n : Nat) (r : AReg) : (ag.setA n r).v = ag.v := rfl
@[simp] theorem Agent.setA_k (ag : Agent) (n : Nat) (r : AReg) : (ag.setA n r).k = ag.k := rfl
@[simp] theorem Agent.setA_a (ag : Agent) (n : Nat) (r : AReg) : (ag.setA n r).a = aset ag.a n r := rfl
@[simp] theorem Agent.setA_p (ag : Agent) (n : Nat) (r : AReg) : (ag.setA n r).p = ag.p := rfl
@[simp] theorem Agent.setA_b (ag : Agent) (n : Nat) (r : AReg) : (ag.setA n r).b = ag.b := rfl
@[simp] theorem Agent.setA_exm (ag : Agent) (n : Nat) (r : AReg) : (ag.setA n r).exm = ag.exm := rfl
@[simp] theorem Agent.setA_live (ag : Agent) (n : Nat) (r : AReg) : (ag.setA n r).live = ag.live := rfl
@[simp] theorem Agent.setA_wst (ag : Agent) (n : Nat) (r : AReg) : (ag.setA n r).wst = ag.wst := rfl
@[simp] theorem Agent.setA_lclk (ag : Agent) (n : Nat) (r : AReg) : (ag.setA n r).lclk = ag.lclk := rfl
@[simp] theorem Agent.setA_cbm (ag : Agent) (n : Nat) (r : AReg) : (ag.setA n r).cbm = ag.cbm := rfl
@[simp] theorem Agent.setA_lc (ag : Agent) (n : Nat) (r : AReg) : (ag.setA n r).lc = ag.lc := rfl
@[simp] theorem Agent.setA_loops (ag : Agent) (n : Nat) (r : AReg) : (ag.setA n r).loops = ag.loops := rfl
@[simp] theorem Agent.setA_link (ag : Agent) (n : Nat) (r : AReg) : (ag.setA n r).link = ag.link := rfl
@[simp] theorem Agent.setA_msk (ag : Agent) (n : Nat) (r : AReg) : (ag.setA n r).msk = ag.msk := rfl
@[simp] theorem Agent.setA_j0 (ag : Agent) (n : Nat) (r : AReg) : (ag.setA n r).j0 = ag.j0 := rfl
@[simp] theorem Agent.setA_j1 (ag : Agent) (n : Nat) (r : AReg) : (ag.setA n r).j1 = ag.j1 := rfl
@[simp] theorem Agent.setA_phwm (ag : Agent) (n : Nat) (r : AReg) : (ag.setA n r).phwm = ag.phwm := rfl
@[simp] theorem Agent.setA_prio (ag : Agent) (n : Nat) (r : AReg) : (ag.setA n r).prio = ag.prio := rfl
@[simp] theorem Agent.setA_argp (ag : Agent) (n : Nat) (r : AReg) : (ag.setA n r).argp = ag.argp := rfl
@[simp] theorem Agent.setA_handler (ag : Agent) (n : Nat) (r : AReg) : (ag.setA n r).handler = ag.handler := rfl
@[simp] theorem Agent.setA_tframe (ag : Agent) (n : Nat) (r : AReg) : (ag.setA n r).tframe = ag.tframe := rfl
@[simp] theorem Agent.setA_binds (ag : Agent) (n : Nat) (r : AReg) : (ag.setA n r).binds = ag.binds := rfl
@[simp] theorem Agent.setA_past (ag : Agent) (n : Nat) (r : AReg) : (ag.setA n r).past = ag.past := rfl
@[simp] theorem Agent.setA_held (ag : Agent) (n : Nat) (r : AReg) : (ag.setA n r).held = ag.held := rfl
@[simp] theorem Agent.setA_inflight (ag : Agent) (n : Nat) (r : AReg) : (ag.setA n r).inflight = ag.inflight := rfl
@[simp] theorem Agent.setA_hold (ag : Agent) (n : Nat) (r : AReg) : (ag.setA n r).hold = ag.hold := rfl
@[simp] theorem Agent.setA_wait (ag : Agent) (n : Nat) (r : AReg) : (ag.setA n r).wait = ag.wait := rfl
@[simp] theorem Agent.setA_recorded (ag : Agent) (n : Nat) (r : AReg) : (ag.setA n r).recorded = ag.recorded := rfl
@[simp] theorem Agent.setA_late (ag : Agent) (n : Nat) (r : AReg) : (ag.setA n r).late = ag.late := rfl
@[simp] theorem Agent.setA_report (ag : Agent) (n : Nat) (r : AReg) : (ag.setA n r).report = ag.report := rfl
@[simp] theorem Agent.setA_delivered (ag : Agent) (n : Nat) (r : AReg) : (ag.setA n r).delivered = ag.delivered := rfl
@[simp] theorem Agent.setA_wdSignal (ag : Agent) (n : Nat) (r : AReg) : (ag.setA n r).wdSignal = ag.wdSignal := rfl
@[simp] theorem Agent.setA_fdSignal (ag : Agent) (n : Nat) (r : AReg) : (ag.setA n r).fdSignal = ag.fdSignal := rfl
@[simp] theorem Agent.setA_arrived (ag : Agent) (n : Nat) (r : AReg) : (ag.setA n r).arrived = ag.arrived := rfl
@[simp] theorem Agent.setA_arriving (ag : Agent) (n : Nat) (r : AReg) : (ag.setA n r).arriving = ag.arriving := rfl
@[simp] theorem Agent.setA_arrPending (ag : Agent) (n : Nat) (r : AReg) : (ag.setA n r).arrPending = ag.arrPending := rfl
@[simp] theorem Agent.setA_caught (ag : Agent) (n : Nat) (r : AReg) : (ag.setA n r).caught = ag.caught := rfl
@[simp] theorem Agent.setA_clocks (ag : Agent) (n : Nat) (r : AReg) : (ag.setA n r).clocks = ag.clocks := rfl
@[simp] theorem Agent.setA_returning (ag : Agent) (n : Nat) (r : AReg) : (ag.setA n r).returning = ag.returning := rfl
@[simp] theorem Agent.setA_pwCount (ag : Agent) (n : Nat) (r : AReg) : (ag.setA n r).pwCount = ag.pwCount := rfl
@[simp] theorem Agent.setA_trig (ag : Agent) (n : Nat) (r : AReg) : (ag.setA n r).trig = ag.trig := rfl
@[simp] theorem Agent.setA_detBuf (ag : Agent) (n : Nat) (r : AReg) : (ag.setA n r).detBuf = ag.detBuf := rfl
@[simp] theorem Agent.setA_scratch (ag : Agent) (n : Nat) (r : AReg) : (ag.setA n r).scratch = ag.scratch := rfl
@[simp] theorem Agent.setA_privBase (ag : Agent) (n : Nat) (r : AReg) : (ag.setA n r).privBase = ag.privBase := rfl
@[simp] theorem Agent.setA_pw (ag : Agent) (n : Nat) (r : AReg) : (ag.setA n r).pw = ag.pw := rfl
@[simp] theorem Agent.setA_readySince (ag : Agent) (n : Nat) (r : AReg) : (ag.setA n r).readySince = ag.readySince := rfl
@[simp] theorem Agent.setA_wasReady (ag : Agent) (n : Nat) (r : AReg) : (ag.setA n r).wasReady = ag.wasReady := rfl
@[simp] theorem Agent.setA_prompt (ag : Agent) (n : Nat) (r : AReg) : (ag.setA n r).prompt = ag.prompt := rfl
@[simp] theorem Agent.setA_passed (ag : Agent) (n : Nat) (r : AReg) : (ag.setA n r).passed = ag.passed := rfl
@[simp] theorem Agent.setA_forker (ag : Agent) (n : Nat) (r : AReg) : (ag.setA n r).forker = ag.forker := rfl
@[simp] theorem Agent.setA_parties (ag : Agent) (n : Nat) (r : AReg) : (ag.setA n r).parties = ag.parties := rfl
@[simp] theorem Agent.setA_pairGroup (ag : Agent) (n : Nat) (r : AReg) : (ag.setA n r).pairGroup = ag.pairGroup := rfl
@[simp] theorem Agent.setA_rdvs (ag : Agent) (n : Nat) (r : AReg) : (ag.setA n r).rdvs = ag.rdvs := rfl
@[simp] theorem Agent.setA_rdvCount (ag : Agent) (n : Nat) (r : AReg) : (ag.setA n r).rdvCount = ag.rdvCount := rfl
@[simp] theorem Agent.setA_seqFault (ag : Agent) (n : Nat) (r : AReg) : (ag.setA n r).seqFault = ag.seqFault := rfl
@[simp] theorem Agent.setA_image (ag : Agent) (n : Nat) (r : AReg) : (ag.setA n r).image = ag.image := rfl
@[simp] theorem Agent.setA_refused (ag : Agent) (n : Nat) (r : AReg) : (ag.setA n r).refused = ag.refused := rfl

/-! ### `setP` -/

@[simp] theorem Agent.setP_id (ag : Agent) (n : Nat) (m : Mask) : (ag.setP n m).id = ag.id := rfl
@[simp] theorem Agent.setP_kind (ag : Agent) (n : Nat) (m : Mask) : (ag.setP n m).kind = ag.kind := rfl
@[simp] theorem Agent.setP_status (ag : Agent) (n : Nat) (m : Mask) : (ag.setP n m).status = ag.status := rfl
@[simp] theorem Agent.setP_die (ag : Agent) (n : Nat) (m : Mask) : (ag.setP n m).die = ag.die := rfl
@[simp] theorem Agent.setP_core (ag : Agent) (n : Nat) (m : Mask) : (ag.setP n m).core = ag.core := rfl
@[simp] theorem Agent.setP_ridx (ag : Agent) (n : Nat) (m : Mask) : (ag.setP n m).ridx = ag.ridx := rfl
@[simp] theorem Agent.setP_ctx (ag : Agent) (n : Nat) (m : Mask) : (ag.setP n m).ctx = ag.ctx := rfl
@[simp] theorem Agent.setP_launch (ag : Agent) (n : Nat) (m : Mask) : (ag.setP n m).launch = ag.launch := rfl
@[simp] theorem Agent.setP_wid (ag : Agent) (n : Nat) (m : Mask) : (ag.setP n m).wid = ag.wid := rfl
@[simp] theorem Agent.setP_nw (ag : Agent) (n : Nat) (m : Mask) : (ag.setP n m).nw = ag.nw := rfl
@[simp] theorem Agent.setP_wx (ag : Agent) (n : Nat) (m : Mask) : (ag.setP n m).wx = ag.wx := rfl
@[simp] theorem Agent.setP_wy (ag : Agent) (n : Nat) (m : Mask) : (ag.setP n m).wy = ag.wy := rfl
@[simp] theorem Agent.setP_wz (ag : Agent) (n : Nat) (m : Mask) : (ag.setP n m).wz = ag.wz := rfl
@[simp] theorem Agent.setP_gm (ag : Agent) (n : Nat) (m : Mask) : (ag.setP n m).gm = ag.gm := rfl
@[simp] theorem Agent.setP_pc (ag : Agent) (n : Nat) (m : Mask) : (ag.setP n m).pc = ag.pc := rfl
@[simp] theorem Agent.setP_vn (ag : Agent) (n : Nat) (m : Mask) : (ag.setP n m).vn = ag.vn := rfl
@[simp] theorem Agent.setP_v (ag : Agent) (n : Nat) (m : Mask) : (ag.setP n m).v = ag.v := rfl
@[simp] theorem Agent.setP_k (ag : Agent) (n : Nat) (m : Mask) : (ag.setP n m).k = ag.k := rfl
@[simp] theorem Agent.setP_a (ag : Agent) (n : Nat) (m : Mask) : (ag.setP n m).a = ag.a := rfl
@[simp] theorem Agent.setP_p (ag : Agent) (n : Nat) (m : Mask) : (ag.setP n m).p = aset ag.p n m := rfl
@[simp] theorem Agent.setP_b (ag : Agent) (n : Nat) (m : Mask) : (ag.setP n m).b = ag.b := rfl
@[simp] theorem Agent.setP_exm (ag : Agent) (n : Nat) (m : Mask) : (ag.setP n m).exm = ag.exm := rfl
@[simp] theorem Agent.setP_live (ag : Agent) (n : Nat) (m : Mask) : (ag.setP n m).live = ag.live := rfl
@[simp] theorem Agent.setP_wst (ag : Agent) (n : Nat) (m : Mask) : (ag.setP n m).wst = ag.wst := rfl
@[simp] theorem Agent.setP_lclk (ag : Agent) (n : Nat) (m : Mask) : (ag.setP n m).lclk = ag.lclk := rfl
@[simp] theorem Agent.setP_cbm (ag : Agent) (n : Nat) (m : Mask) : (ag.setP n m).cbm = ag.cbm := rfl
@[simp] theorem Agent.setP_lc (ag : Agent) (n : Nat) (m : Mask) : (ag.setP n m).lc = ag.lc := rfl
@[simp] theorem Agent.setP_loops (ag : Agent) (n : Nat) (m : Mask) : (ag.setP n m).loops = ag.loops := rfl
@[simp] theorem Agent.setP_link (ag : Agent) (n : Nat) (m : Mask) : (ag.setP n m).link = ag.link := rfl
@[simp] theorem Agent.setP_msk (ag : Agent) (n : Nat) (m : Mask) : (ag.setP n m).msk = ag.msk := rfl
@[simp] theorem Agent.setP_j0 (ag : Agent) (n : Nat) (m : Mask) : (ag.setP n m).j0 = ag.j0 := rfl
@[simp] theorem Agent.setP_j1 (ag : Agent) (n : Nat) (m : Mask) : (ag.setP n m).j1 = ag.j1 := rfl
@[simp] theorem Agent.setP_phwm (ag : Agent) (n : Nat) (m : Mask) : (ag.setP n m).phwm = ag.phwm := rfl
@[simp] theorem Agent.setP_prio (ag : Agent) (n : Nat) (m : Mask) : (ag.setP n m).prio = ag.prio := rfl
@[simp] theorem Agent.setP_argp (ag : Agent) (n : Nat) (m : Mask) : (ag.setP n m).argp = ag.argp := rfl
@[simp] theorem Agent.setP_handler (ag : Agent) (n : Nat) (m : Mask) : (ag.setP n m).handler = ag.handler := rfl
@[simp] theorem Agent.setP_tframe (ag : Agent) (n : Nat) (m : Mask) : (ag.setP n m).tframe = ag.tframe := rfl
@[simp] theorem Agent.setP_binds (ag : Agent) (n : Nat) (m : Mask) : (ag.setP n m).binds = ag.binds := rfl
@[simp] theorem Agent.setP_past (ag : Agent) (n : Nat) (m : Mask) : (ag.setP n m).past = ag.past := rfl
@[simp] theorem Agent.setP_held (ag : Agent) (n : Nat) (m : Mask) : (ag.setP n m).held = ag.held := rfl
@[simp] theorem Agent.setP_inflight (ag : Agent) (n : Nat) (m : Mask) : (ag.setP n m).inflight = ag.inflight := rfl
@[simp] theorem Agent.setP_hold (ag : Agent) (n : Nat) (m : Mask) : (ag.setP n m).hold = ag.hold := rfl
@[simp] theorem Agent.setP_wait (ag : Agent) (n : Nat) (m : Mask) : (ag.setP n m).wait = ag.wait := rfl
@[simp] theorem Agent.setP_recorded (ag : Agent) (n : Nat) (m : Mask) : (ag.setP n m).recorded = ag.recorded := rfl
@[simp] theorem Agent.setP_late (ag : Agent) (n : Nat) (m : Mask) : (ag.setP n m).late = ag.late := rfl
@[simp] theorem Agent.setP_report (ag : Agent) (n : Nat) (m : Mask) : (ag.setP n m).report = ag.report := rfl
@[simp] theorem Agent.setP_delivered (ag : Agent) (n : Nat) (m : Mask) : (ag.setP n m).delivered = ag.delivered := rfl
@[simp] theorem Agent.setP_wdSignal (ag : Agent) (n : Nat) (m : Mask) : (ag.setP n m).wdSignal = ag.wdSignal := rfl
@[simp] theorem Agent.setP_fdSignal (ag : Agent) (n : Nat) (m : Mask) : (ag.setP n m).fdSignal = ag.fdSignal := rfl
@[simp] theorem Agent.setP_arrived (ag : Agent) (n : Nat) (m : Mask) : (ag.setP n m).arrived = ag.arrived := rfl
@[simp] theorem Agent.setP_arriving (ag : Agent) (n : Nat) (m : Mask) : (ag.setP n m).arriving = ag.arriving := rfl
@[simp] theorem Agent.setP_arrPending (ag : Agent) (n : Nat) (m : Mask) : (ag.setP n m).arrPending = ag.arrPending := rfl
@[simp] theorem Agent.setP_caught (ag : Agent) (n : Nat) (m : Mask) : (ag.setP n m).caught = ag.caught := rfl
@[simp] theorem Agent.setP_clocks (ag : Agent) (n : Nat) (m : Mask) : (ag.setP n m).clocks = ag.clocks := rfl
@[simp] theorem Agent.setP_returning (ag : Agent) (n : Nat) (m : Mask) : (ag.setP n m).returning = ag.returning := rfl
@[simp] theorem Agent.setP_pwCount (ag : Agent) (n : Nat) (m : Mask) : (ag.setP n m).pwCount = ag.pwCount := rfl
@[simp] theorem Agent.setP_trig (ag : Agent) (n : Nat) (m : Mask) : (ag.setP n m).trig = ag.trig := rfl
@[simp] theorem Agent.setP_detBuf (ag : Agent) (n : Nat) (m : Mask) : (ag.setP n m).detBuf = ag.detBuf := rfl
@[simp] theorem Agent.setP_scratch (ag : Agent) (n : Nat) (m : Mask) : (ag.setP n m).scratch = ag.scratch := rfl
@[simp] theorem Agent.setP_privBase (ag : Agent) (n : Nat) (m : Mask) : (ag.setP n m).privBase = ag.privBase := rfl
@[simp] theorem Agent.setP_pw (ag : Agent) (n : Nat) (m : Mask) : (ag.setP n m).pw = ag.pw := rfl
@[simp] theorem Agent.setP_readySince (ag : Agent) (n : Nat) (m : Mask) : (ag.setP n m).readySince = ag.readySince := rfl
@[simp] theorem Agent.setP_wasReady (ag : Agent) (n : Nat) (m : Mask) : (ag.setP n m).wasReady = ag.wasReady := rfl
@[simp] theorem Agent.setP_prompt (ag : Agent) (n : Nat) (m : Mask) : (ag.setP n m).prompt = ag.prompt := rfl
@[simp] theorem Agent.setP_passed (ag : Agent) (n : Nat) (m : Mask) : (ag.setP n m).passed = ag.passed := rfl
@[simp] theorem Agent.setP_forker (ag : Agent) (n : Nat) (m : Mask) : (ag.setP n m).forker = ag.forker := rfl
@[simp] theorem Agent.setP_parties (ag : Agent) (n : Nat) (m : Mask) : (ag.setP n m).parties = ag.parties := rfl
@[simp] theorem Agent.setP_pairGroup (ag : Agent) (n : Nat) (m : Mask) : (ag.setP n m).pairGroup = ag.pairGroup := rfl
@[simp] theorem Agent.setP_rdvs (ag : Agent) (n : Nat) (m : Mask) : (ag.setP n m).rdvs = ag.rdvs := rfl
@[simp] theorem Agent.setP_rdvCount (ag : Agent) (n : Nat) (m : Mask) : (ag.setP n m).rdvCount = ag.rdvCount := rfl
@[simp] theorem Agent.setP_seqFault (ag : Agent) (n : Nat) (m : Mask) : (ag.setP n m).seqFault = ag.seqFault := rfl
@[simp] theorem Agent.setP_image (ag : Agent) (n : Nat) (m : Mask) : (ag.setP n m).image = ag.image := rfl
@[simp] theorem Agent.setP_refused (ag : Agent) (n : Nat) (m : Mask) : (ag.setP n m).refused = ag.refused := rfl

/-! ### `setCbm` -/

@[simp] theorem Agent.setCbm_id (ag : Agent) (i : Nat) (m : Mask) : (ag.setCbm i m).id = ag.id := rfl
@[simp] theorem Agent.setCbm_kind (ag : Agent) (i : Nat) (m : Mask) : (ag.setCbm i m).kind = ag.kind := rfl
@[simp] theorem Agent.setCbm_status (ag : Agent) (i : Nat) (m : Mask) : (ag.setCbm i m).status = ag.status := rfl
@[simp] theorem Agent.setCbm_die (ag : Agent) (i : Nat) (m : Mask) : (ag.setCbm i m).die = ag.die := rfl
@[simp] theorem Agent.setCbm_core (ag : Agent) (i : Nat) (m : Mask) : (ag.setCbm i m).core = ag.core := rfl
@[simp] theorem Agent.setCbm_ridx (ag : Agent) (i : Nat) (m : Mask) : (ag.setCbm i m).ridx = ag.ridx := rfl
@[simp] theorem Agent.setCbm_ctx (ag : Agent) (i : Nat) (m : Mask) : (ag.setCbm i m).ctx = ag.ctx := rfl
@[simp] theorem Agent.setCbm_launch (ag : Agent) (i : Nat) (m : Mask) : (ag.setCbm i m).launch = ag.launch := rfl
@[simp] theorem Agent.setCbm_wid (ag : Agent) (i : Nat) (m : Mask) : (ag.setCbm i m).wid = ag.wid := rfl
@[simp] theorem Agent.setCbm_nw (ag : Agent) (i : Nat) (m : Mask) : (ag.setCbm i m).nw = ag.nw := rfl
@[simp] theorem Agent.setCbm_wx (ag : Agent) (i : Nat) (m : Mask) : (ag.setCbm i m).wx = ag.wx := rfl
@[simp] theorem Agent.setCbm_wy (ag : Agent) (i : Nat) (m : Mask) : (ag.setCbm i m).wy = ag.wy := rfl
@[simp] theorem Agent.setCbm_wz (ag : Agent) (i : Nat) (m : Mask) : (ag.setCbm i m).wz = ag.wz := rfl
@[simp] theorem Agent.setCbm_gm (ag : Agent) (i : Nat) (m : Mask) : (ag.setCbm i m).gm = ag.gm := rfl
@[simp] theorem Agent.setCbm_pc (ag : Agent) (i : Nat) (m : Mask) : (ag.setCbm i m).pc = ag.pc := rfl
@[simp] theorem Agent.setCbm_vn (ag : Agent) (i : Nat) (m : Mask) : (ag.setCbm i m).vn = ag.vn := rfl
@[simp] theorem Agent.setCbm_v (ag : Agent) (i : Nat) (m : Mask) : (ag.setCbm i m).v = ag.v := rfl
@[simp] theorem Agent.setCbm_k (ag : Agent) (i : Nat) (m : Mask) : (ag.setCbm i m).k = ag.k := rfl
@[simp] theorem Agent.setCbm_a (ag : Agent) (i : Nat) (m : Mask) : (ag.setCbm i m).a = ag.a := rfl
@[simp] theorem Agent.setCbm_p (ag : Agent) (i : Nat) (m : Mask) : (ag.setCbm i m).p = ag.p := rfl
@[simp] theorem Agent.setCbm_b (ag : Agent) (i : Nat) (m : Mask) : (ag.setCbm i m).b = ag.b := rfl
@[simp] theorem Agent.setCbm_exm (ag : Agent) (i : Nat) (m : Mask) : (ag.setCbm i m).exm = ag.exm := rfl
@[simp] theorem Agent.setCbm_live (ag : Agent) (i : Nat) (m : Mask) : (ag.setCbm i m).live = ag.live := rfl
@[simp] theorem Agent.setCbm_wst (ag : Agent) (i : Nat) (m : Mask) : (ag.setCbm i m).wst = ag.wst := rfl
@[simp] theorem Agent.setCbm_lclk (ag : Agent) (i : Nat) (m : Mask) : (ag.setCbm i m).lclk = ag.lclk := rfl
@[simp] theorem Agent.setCbm_cbm (ag : Agent) (i : Nat) (m : Mask) : (ag.setCbm i m).cbm = aset ag.cbm i m := rfl
@[simp] theorem Agent.setCbm_lc (ag : Agent) (i : Nat) (m : Mask) : (ag.setCbm i m).lc = ag.lc := rfl
@[simp] theorem Agent.setCbm_loops (ag : Agent) (i : Nat) (m : Mask) : (ag.setCbm i m).loops = ag.loops := rfl
@[simp] theorem Agent.setCbm_link (ag : Agent) (i : Nat) (m : Mask) : (ag.setCbm i m).link = ag.link := rfl
@[simp] theorem Agent.setCbm_msk (ag : Agent) (i : Nat) (m : Mask) : (ag.setCbm i m).msk = ag.msk := rfl
@[simp] theorem Agent.setCbm_j0 (ag : Agent) (i : Nat) (m : Mask) : (ag.setCbm i m).j0 = ag.j0 := rfl
@[simp] theorem Agent.setCbm_j1 (ag : Agent) (i : Nat) (m : Mask) : (ag.setCbm i m).j1 = ag.j1 := rfl
@[simp] theorem Agent.setCbm_phwm (ag : Agent) (i : Nat) (m : Mask) : (ag.setCbm i m).phwm = ag.phwm := rfl
@[simp] theorem Agent.setCbm_prio (ag : Agent) (i : Nat) (m : Mask) : (ag.setCbm i m).prio = ag.prio := rfl
@[simp] theorem Agent.setCbm_argp (ag : Agent) (i : Nat) (m : Mask) : (ag.setCbm i m).argp = ag.argp := rfl
@[simp] theorem Agent.setCbm_handler (ag : Agent) (i : Nat) (m : Mask) : (ag.setCbm i m).handler = ag.handler := rfl
@[simp] theorem Agent.setCbm_tframe (ag : Agent) (i : Nat) (m : Mask) : (ag.setCbm i m).tframe = ag.tframe := rfl
@[simp] theorem Agent.setCbm_binds (ag : Agent) (i : Nat) (m : Mask) : (ag.setCbm i m).binds = ag.binds := rfl
@[simp] theorem Agent.setCbm_past (ag : Agent) (i : Nat) (m : Mask) : (ag.setCbm i m).past = ag.past := rfl
@[simp] theorem Agent.setCbm_held (ag : Agent) (i : Nat) (m : Mask) : (ag.setCbm i m).held = ag.held := rfl
@[simp] theorem Agent.setCbm_inflight (ag : Agent) (i : Nat) (m : Mask) : (ag.setCbm i m).inflight = ag.inflight := rfl
@[simp] theorem Agent.setCbm_hold (ag : Agent) (i : Nat) (m : Mask) : (ag.setCbm i m).hold = ag.hold := rfl
@[simp] theorem Agent.setCbm_wait (ag : Agent) (i : Nat) (m : Mask) : (ag.setCbm i m).wait = ag.wait := rfl
@[simp] theorem Agent.setCbm_recorded (ag : Agent) (i : Nat) (m : Mask) : (ag.setCbm i m).recorded = ag.recorded := rfl
@[simp] theorem Agent.setCbm_late (ag : Agent) (i : Nat) (m : Mask) : (ag.setCbm i m).late = ag.late := rfl
@[simp] theorem Agent.setCbm_report (ag : Agent) (i : Nat) (m : Mask) : (ag.setCbm i m).report = ag.report := rfl
@[simp] theorem Agent.setCbm_delivered (ag : Agent) (i : Nat) (m : Mask) : (ag.setCbm i m).delivered = ag.delivered := rfl
@[simp] theorem Agent.setCbm_wdSignal (ag : Agent) (i : Nat) (m : Mask) : (ag.setCbm i m).wdSignal = ag.wdSignal := rfl
@[simp] theorem Agent.setCbm_fdSignal (ag : Agent) (i : Nat) (m : Mask) : (ag.setCbm i m).fdSignal = ag.fdSignal := rfl
@[simp] theorem Agent.setCbm_arrived (ag : Agent) (i : Nat) (m : Mask) : (ag.setCbm i m).arrived = ag.arrived := rfl
@[simp] theorem Agent.setCbm_arriving (ag : Agent) (i : Nat) (m : Mask) : (ag.setCbm i m).arriving = ag.arriving := rfl
@[simp] theorem Agent.setCbm_arrPending (ag : Agent) (i : Nat) (m : Mask) : (ag.setCbm i m).arrPending = ag.arrPending := rfl
@[simp] theorem Agent.setCbm_caught (ag : Agent) (i : Nat) (m : Mask) : (ag.setCbm i m).caught = ag.caught := rfl
@[simp] theorem Agent.setCbm_clocks (ag : Agent) (i : Nat) (m : Mask) : (ag.setCbm i m).clocks = ag.clocks := rfl
@[simp] theorem Agent.setCbm_returning (ag : Agent) (i : Nat) (m : Mask) : (ag.setCbm i m).returning = ag.returning := rfl
@[simp] theorem Agent.setCbm_pwCount (ag : Agent) (i : Nat) (m : Mask) : (ag.setCbm i m).pwCount = ag.pwCount := rfl
@[simp] theorem Agent.setCbm_trig (ag : Agent) (i : Nat) (m : Mask) : (ag.setCbm i m).trig = ag.trig := rfl
@[simp] theorem Agent.setCbm_detBuf (ag : Agent) (i : Nat) (m : Mask) : (ag.setCbm i m).detBuf = ag.detBuf := rfl
@[simp] theorem Agent.setCbm_scratch (ag : Agent) (i : Nat) (m : Mask) : (ag.setCbm i m).scratch = ag.scratch := rfl
@[simp] theorem Agent.setCbm_privBase (ag : Agent) (i : Nat) (m : Mask) : (ag.setCbm i m).privBase = ag.privBase := rfl
@[simp] theorem Agent.setCbm_pw (ag : Agent) (i : Nat) (m : Mask) : (ag.setCbm i m).pw = ag.pw := rfl
@[simp] theorem Agent.setCbm_readySince (ag : Agent) (i : Nat) (m : Mask) : (ag.setCbm i m).readySince = ag.readySince := rfl
@[simp] theorem Agent.setCbm_wasReady (ag : Agent) (i : Nat) (m : Mask) : (ag.setCbm i m).wasReady = ag.wasReady := rfl
@[simp] theorem Agent.setCbm_prompt (ag : Agent) (i : Nat) (m : Mask) : (ag.setCbm i m).prompt = ag.prompt := rfl
@[simp] theorem Agent.setCbm_passed (ag : Agent) (i : Nat) (m : Mask) : (ag.setCbm i m).passed = ag.passed := rfl
@[simp] theorem Agent.setCbm_forker (ag : Agent) (i : Nat) (m : Mask) : (ag.setCbm i m).forker = ag.forker := rfl
@[simp] theorem Agent.setCbm_parties (ag : Agent) (i : Nat) (m : Mask) : (ag.setCbm i m).parties = ag.parties := rfl
@[simp] theorem Agent.setCbm_pairGroup (ag : Agent) (i : Nat) (m : Mask) : (ag.setCbm i m).pairGroup = ag.pairGroup := rfl
@[simp] theorem Agent.setCbm_rdvs (ag : Agent) (i : Nat) (m : Mask) : (ag.setCbm i m).rdvs = ag.rdvs := rfl
@[simp] theorem Agent.setCbm_rdvCount (ag : Agent) (i : Nat) (m : Mask) : (ag.setCbm i m).rdvCount = ag.rdvCount := rfl
@[simp] theorem Agent.setCbm_seqFault (ag : Agent) (i : Nat) (m : Mask) : (ag.setCbm i m).seqFault = ag.seqFault := rfl
@[simp] theorem Agent.setCbm_image (ag : Agent) (i : Nat) (m : Mask) : (ag.setCbm i m).image = ag.image := rfl
@[simp] theorem Agent.setCbm_refused (ag : Agent) (i : Nat) (m : Mask) : (ag.setCbm i m).refused = ag.refused := rfl

/-! ### `setB` -/

@[simp] theorem Agent.setB_id (ag : Agent) (n : Nat) (x : Bool) : (ag.setB n x).id = ag.id := rfl
@[simp] theorem Agent.setB_kind (ag : Agent) (n : Nat) (x : Bool) : (ag.setB n x).kind = ag.kind := rfl
@[simp] theorem Agent.setB_status (ag : Agent) (n : Nat) (x : Bool) : (ag.setB n x).status = ag.status := rfl
@[simp] theorem Agent.setB_die (ag : Agent) (n : Nat) (x : Bool) : (ag.setB n x).die = ag.die := rfl
@[simp] theorem Agent.setB_core (ag : Agent) (n : Nat) (x : Bool) : (ag.setB n x).core = ag.core := rfl
@[simp] theorem Agent.setB_ridx (ag : Agent) (n : Nat) (x : Bool) : (ag.setB n x).ridx = ag.ridx := rfl
@[simp] theorem Agent.setB_ctx (ag : Agent) (n : Nat) (x : Bool) : (ag.setB n x).ctx = ag.ctx := rfl
@[simp] theorem Agent.setB_launch (ag : Agent) (n : Nat) (x : Bool) : (ag.setB n x).launch = ag.launch := rfl
@[simp] theorem Agent.setB_wid (ag : Agent) (n : Nat) (x : Bool) : (ag.setB n x).wid = ag.wid := rfl
@[simp] theorem Agent.setB_nw (ag : Agent) (n : Nat) (x : Bool) : (ag.setB n x).nw = ag.nw := rfl
@[simp] theorem Agent.setB_wx (ag : Agent) (n : Nat) (x : Bool) : (ag.setB n x).wx = ag.wx := rfl
@[simp] theorem Agent.setB_wy (ag : Agent) (n : Nat) (x : Bool) : (ag.setB n x).wy = ag.wy := rfl
@[simp] theorem Agent.setB_wz (ag : Agent) (n : Nat) (x : Bool) : (ag.setB n x).wz = ag.wz := rfl
@[simp] theorem Agent.setB_gm (ag : Agent) (n : Nat) (x : Bool) : (ag.setB n x).gm = ag.gm := rfl
@[simp] theorem Agent.setB_pc (ag : Agent) (n : Nat) (x : Bool) : (ag.setB n x).pc = ag.pc := rfl
@[simp] theorem Agent.setB_vn (ag : Agent) (n : Nat) (x : Bool) : (ag.setB n x).vn = ag.vn := rfl
@[simp] theorem Agent.setB_v (ag : Agent) (n : Nat) (x : Bool) : (ag.setB n x).v = ag.v := rfl
@[simp] theorem Agent.setB_k (ag : Agent) (n : Nat) (x : Bool) : (ag.setB n x).k = ag.k := rfl
@[simp] theorem Agent.setB_a (ag : Agent) (n : Nat) (x : Bool) : (ag.setB n x).a = ag.a := rfl
@[simp] theorem Agent.setB_p (ag : Agent) (n : Nat) (x : Bool) : (ag.setB n x).p = ag.p := rfl
@[simp] theorem Agent.setB_b (ag : Agent) (n : Nat) (x : Bool) : (ag.setB n x).b = BitVec.ofNat 4 ((List.range 4).foldl (fun acc i => if (if i = n then x else ag.flag i) then acc + 2 ^ i else acc) 0) := rfl
@[simp] theorem Agent.setB_exm (ag : Agent) (n : Nat) (x : Bool) : (ag.setB n x).exm = ag.exm := rfl
@[simp] theorem Agent.setB_live (ag : Agent) (n : Nat) (x : Bool) : (ag.setB n x).live = ag.live := rfl
@[simp] theorem Agent.setB_wst (ag : Agent) (n : Nat) (x : Bool) : (ag.setB n x).wst = ag.wst := rfl
@[simp] theorem Agent.setB_lclk (ag : Agent) (n : Nat) (x : Bool) : (ag.setB n x).lclk = ag.lclk := rfl
@[simp] theorem Agent.setB_cbm (ag : Agent) (n : Nat) (x : Bool) : (ag.setB n x).cbm = ag.cbm := rfl
@[simp] theorem Agent.setB_lc (ag : Agent) (n : Nat) (x : Bool) : (ag.setB n x).lc = ag.lc := rfl
@[simp] theorem Agent.setB_loops (ag : Agent) (n : Nat) (x : Bool) : (ag.setB n x).loops = ag.loops := rfl
@[simp] theorem Agent.setB_link (ag : Agent) (n : Nat) (x : Bool) : (ag.setB n x).link = ag.link := rfl
@[simp] theorem Agent.setB_msk (ag : Agent) (n : Nat) (x : Bool) : (ag.setB n x).msk = ag.msk := rfl
@[simp] theorem Agent.setB_j0 (ag : Agent) (n : Nat) (x : Bool) : (ag.setB n x).j0 = ag.j0 := rfl
@[simp] theorem Agent.setB_j1 (ag : Agent) (n : Nat) (x : Bool) : (ag.setB n x).j1 = ag.j1 := rfl
@[simp] theorem Agent.setB_phwm (ag : Agent) (n : Nat) (x : Bool) : (ag.setB n x).phwm = ag.phwm := rfl
@[simp] theorem Agent.setB_prio (ag : Agent) (n : Nat) (x : Bool) : (ag.setB n x).prio = ag.prio := rfl
@[simp] theorem Agent.setB_argp (ag : Agent) (n : Nat) (x : Bool) : (ag.setB n x).argp = ag.argp := rfl
@[simp] theorem Agent.setB_handler (ag : Agent) (n : Nat) (x : Bool) : (ag.setB n x).handler = ag.handler := rfl
@[simp] theorem Agent.setB_tframe (ag : Agent) (n : Nat) (x : Bool) : (ag.setB n x).tframe = ag.tframe := rfl
@[simp] theorem Agent.setB_binds (ag : Agent) (n : Nat) (x : Bool) : (ag.setB n x).binds = ag.binds := rfl
@[simp] theorem Agent.setB_past (ag : Agent) (n : Nat) (x : Bool) : (ag.setB n x).past = ag.past := rfl
@[simp] theorem Agent.setB_held (ag : Agent) (n : Nat) (x : Bool) : (ag.setB n x).held = ag.held := rfl
@[simp] theorem Agent.setB_inflight (ag : Agent) (n : Nat) (x : Bool) : (ag.setB n x).inflight = ag.inflight := rfl
@[simp] theorem Agent.setB_hold (ag : Agent) (n : Nat) (x : Bool) : (ag.setB n x).hold = ag.hold := rfl
@[simp] theorem Agent.setB_wait (ag : Agent) (n : Nat) (x : Bool) : (ag.setB n x).wait = ag.wait := rfl
@[simp] theorem Agent.setB_recorded (ag : Agent) (n : Nat) (x : Bool) : (ag.setB n x).recorded = ag.recorded := rfl
@[simp] theorem Agent.setB_late (ag : Agent) (n : Nat) (x : Bool) : (ag.setB n x).late = ag.late := rfl
@[simp] theorem Agent.setB_report (ag : Agent) (n : Nat) (x : Bool) : (ag.setB n x).report = ag.report := rfl
@[simp] theorem Agent.setB_delivered (ag : Agent) (n : Nat) (x : Bool) : (ag.setB n x).delivered = ag.delivered := rfl
@[simp] theorem Agent.setB_wdSignal (ag : Agent) (n : Nat) (x : Bool) : (ag.setB n x).wdSignal = ag.wdSignal := rfl
@[simp] theorem Agent.setB_fdSignal (ag : Agent) (n : Nat) (x : Bool) : (ag.setB n x).fdSignal = ag.fdSignal := rfl
@[simp] theorem Agent.setB_arrived (ag : Agent) (n : Nat) (x : Bool) : (ag.setB n x).arrived = ag.arrived := rfl
@[simp] theorem Agent.setB_arriving (ag : Agent) (n : Nat) (x : Bool) : (ag.setB n x).arriving = ag.arriving := rfl
@[simp] theorem Agent.setB_arrPending (ag : Agent) (n : Nat) (x : Bool) : (ag.setB n x).arrPending = ag.arrPending := rfl
@[simp] theorem Agent.setB_caught (ag : Agent) (n : Nat) (x : Bool) : (ag.setB n x).caught = ag.caught := rfl
@[simp] theorem Agent.setB_clocks (ag : Agent) (n : Nat) (x : Bool) : (ag.setB n x).clocks = ag.clocks := rfl
@[simp] theorem Agent.setB_returning (ag : Agent) (n : Nat) (x : Bool) : (ag.setB n x).returning = ag.returning := rfl
@[simp] theorem Agent.setB_pwCount (ag : Agent) (n : Nat) (x : Bool) : (ag.setB n x).pwCount = ag.pwCount := rfl
@[simp] theorem Agent.setB_trig (ag : Agent) (n : Nat) (x : Bool) : (ag.setB n x).trig = ag.trig := rfl
@[simp] theorem Agent.setB_detBuf (ag : Agent) (n : Nat) (x : Bool) : (ag.setB n x).detBuf = ag.detBuf := rfl
@[simp] theorem Agent.setB_scratch (ag : Agent) (n : Nat) (x : Bool) : (ag.setB n x).scratch = ag.scratch := rfl
@[simp] theorem Agent.setB_privBase (ag : Agent) (n : Nat) (x : Bool) : (ag.setB n x).privBase = ag.privBase := rfl
@[simp] theorem Agent.setB_pw (ag : Agent) (n : Nat) (x : Bool) : (ag.setB n x).pw = ag.pw := rfl
@[simp] theorem Agent.setB_readySince (ag : Agent) (n : Nat) (x : Bool) : (ag.setB n x).readySince = ag.readySince := rfl
@[simp] theorem Agent.setB_wasReady (ag : Agent) (n : Nat) (x : Bool) : (ag.setB n x).wasReady = ag.wasReady := rfl
@[simp] theorem Agent.setB_prompt (ag : Agent) (n : Nat) (x : Bool) : (ag.setB n x).prompt = ag.prompt := rfl
@[simp] theorem Agent.setB_passed (ag : Agent) (n : Nat) (x : Bool) : (ag.setB n x).passed = ag.passed := rfl
@[simp] theorem Agent.setB_forker (ag : Agent) (n : Nat) (x : Bool) : (ag.setB n x).forker = ag.forker := rfl
@[simp] theorem Agent.setB_parties (ag : Agent) (n : Nat) (x : Bool) : (ag.setB n x).parties = ag.parties := rfl
@[simp] theorem Agent.setB_pairGroup (ag : Agent) (n : Nat) (x : Bool) : (ag.setB n x).pairGroup = ag.pairGroup := rfl
@[simp] theorem Agent.setB_rdvs (ag : Agent) (n : Nat) (x : Bool) : (ag.setB n x).rdvs = ag.rdvs := rfl
@[simp] theorem Agent.setB_rdvCount (ag : Agent) (n : Nat) (x : Bool) : (ag.setB n x).rdvCount = ag.rdvCount := rfl
@[simp] theorem Agent.setB_seqFault (ag : Agent) (n : Nat) (x : Bool) : (ag.setB n x).seqFault = ag.seqFault := rfl
@[simp] theorem Agent.setB_image (ag : Agent) (n : Nat) (x : Bool) : (ag.setB n x).image = ag.image := rfl
@[simp] theorem Agent.setB_refused (ag : Agent) (n : Nat) (x : Bool) : (ag.setB n x).refused = ag.refused := rfl

/-! ### `ticked` -/

@[simp] theorem Agent.ticked_id (ag : Agent) (hnd : Bool) (now : Nat) : (ag.ticked hnd now).id = ag.id := rfl
@[simp] theorem Agent.ticked_kind (ag : Agent) (hnd : Bool) (now : Nat) : (ag.ticked hnd now).kind = ag.kind := rfl
@[simp] theorem Agent.ticked_status (ag : Agent) (hnd : Bool) (now : Nat) : (ag.ticked hnd now).status = ag.status := rfl
@[simp] theorem Agent.ticked_die (ag : Agent) (hnd : Bool) (now : Nat) : (ag.ticked hnd now).die = ag.die := rfl
@[simp] theorem Agent.ticked_core (ag : Agent) (hnd : Bool) (now : Nat) : (ag.ticked hnd now).core = ag.core := rfl
@[simp] theorem Agent.ticked_ridx (ag : Agent) (hnd : Bool) (now : Nat) : (ag.ticked hnd now).ridx = ag.ridx := rfl
@[simp] theorem Agent.ticked_ctx (ag : Agent) (hnd : Bool) (now : Nat) : (ag.ticked hnd now).ctx = ag.ctx := rfl
@[simp] theorem Agent.ticked_launch (ag : Agent) (hnd : Bool) (now : Nat) : (ag.ticked hnd now).launch = ag.launch := rfl
@[simp] theorem Agent.ticked_wid (ag : Agent) (hnd : Bool) (now : Nat) : (ag.ticked hnd now).wid = ag.wid := rfl
@[simp] theorem Agent.ticked_nw (ag : Agent) (hnd : Bool) (now : Nat) : (ag.ticked hnd now).nw = ag.nw := rfl
@[simp] theorem Agent.ticked_wx (ag : Agent) (hnd : Bool) (now : Nat) : (ag.ticked hnd now).wx = ag.wx := rfl
@[simp] theorem Agent.ticked_wy (ag : Agent) (hnd : Bool) (now : Nat) : (ag.ticked hnd now).wy = ag.wy := rfl
@[simp] theorem Agent.ticked_wz (ag : Agent) (hnd : Bool) (now : Nat) : (ag.ticked hnd now).wz = ag.wz := rfl
@[simp] theorem Agent.ticked_gm (ag : Agent) (hnd : Bool) (now : Nat) : (ag.ticked hnd now).gm = ag.gm := rfl
@[simp] theorem Agent.ticked_pc (ag : Agent) (hnd : Bool) (now : Nat) : (ag.ticked hnd now).pc = ag.pc := rfl
@[simp] theorem Agent.ticked_vn (ag : Agent) (hnd : Bool) (now : Nat) : (ag.ticked hnd now).vn = ag.vn := rfl
@[simp] theorem Agent.ticked_v (ag : Agent) (hnd : Bool) (now : Nat) : (ag.ticked hnd now).v = ag.v := rfl
@[simp] theorem Agent.ticked_k (ag : Agent) (hnd : Bool) (now : Nat) : (ag.ticked hnd now).k = ag.k := rfl
@[simp] theorem Agent.ticked_a (ag : Agent) (hnd : Bool) (now : Nat) : (ag.ticked hnd now).a = ag.a := rfl
@[simp] theorem Agent.ticked_p (ag : Agent) (hnd : Bool) (now : Nat) : (ag.ticked hnd now).p = ag.p := rfl
@[simp] theorem Agent.ticked_b (ag : Agent) (hnd : Bool) (now : Nat) : (ag.ticked hnd now).b = ag.b := rfl
@[simp] theorem Agent.ticked_exm (ag : Agent) (hnd : Bool) (now : Nat) : (ag.ticked hnd now).exm = ag.exm := rfl
@[simp] theorem Agent.ticked_live (ag : Agent) (hnd : Bool) (now : Nat) : (ag.ticked hnd now).live = ag.live := rfl
@[simp] theorem Agent.ticked_wst (ag : Agent) (hnd : Bool) (now : Nat) : (ag.ticked hnd now).wst = ag.wst := rfl
@[simp] theorem Agent.ticked_lclk (ag : Agent) (hnd : Bool) (now : Nat) : (ag.ticked hnd now).lclk = if hnd then ag.lclk else ag.lclk + 1 := rfl
@[simp] theorem Agent.ticked_cbm (ag : Agent) (hnd : Bool) (now : Nat) : (ag.ticked hnd now).cbm = ag.cbm := rfl
@[simp] theorem Agent.ticked_lc (ag : Agent) (hnd : Bool) (now : Nat) : (ag.ticked hnd now).lc = ag.lc := rfl
@[simp] theorem Agent.ticked_loops (ag : Agent) (hnd : Bool) (now : Nat) : (ag.ticked hnd now).loops = ag.loops := rfl
@[simp] theorem Agent.ticked_link (ag : Agent) (hnd : Bool) (now : Nat) : (ag.ticked hnd now).link = ag.link := rfl
@[simp] theorem Agent.ticked_msk (ag : Agent) (hnd : Bool) (now : Nat) : (ag.ticked hnd now).msk = ag.msk := rfl
@[simp] theorem Agent.ticked_j0 (ag : Agent) (hnd : Bool) (now : Nat) : (ag.ticked hnd now).j0 = ag.j0 := rfl
@[simp] theorem Agent.ticked_j1 (ag : Agent) (hnd : Bool) (now : Nat) : (ag.ticked hnd now).j1 = ag.j1 := rfl
@[simp] theorem Agent.ticked_phwm (ag : Agent) (hnd : Bool) (now : Nat) : (ag.ticked hnd now).phwm = ag.phwm := rfl
@[simp] theorem Agent.ticked_prio (ag : Agent) (hnd : Bool) (now : Nat) : (ag.ticked hnd now).prio = ag.prio := rfl
@[simp] theorem Agent.ticked_argp (ag : Agent) (hnd : Bool) (now : Nat) : (ag.ticked hnd now).argp = ag.argp := rfl
@[simp] theorem Agent.ticked_handler (ag : Agent) (hnd : Bool) (now : Nat) : (ag.ticked hnd now).handler = ag.handler := rfl
@[simp] theorem Agent.ticked_tframe (ag : Agent) (hnd : Bool) (now : Nat) : (ag.ticked hnd now).tframe = ag.tframe := rfl
@[simp] theorem Agent.ticked_binds (ag : Agent) (hnd : Bool) (now : Nat) : (ag.ticked hnd now).binds = ag.binds := rfl
@[simp] theorem Agent.ticked_past (ag : Agent) (hnd : Bool) (now : Nat) : (ag.ticked hnd now).past = ag.past := rfl
@[simp] theorem Agent.ticked_held (ag : Agent) (hnd : Bool) (now : Nat) : (ag.ticked hnd now).held = ag.held := rfl
@[simp] theorem Agent.ticked_inflight (ag : Agent) (hnd : Bool) (now : Nat) : (ag.ticked hnd now).inflight = ag.inflight.map (fun f => { f with left := f.left - 1 }) := rfl
@[simp] theorem Agent.ticked_hold (ag : Agent) (hnd : Bool) (now : Nat) : (ag.ticked hnd now).hold = .none := rfl
@[simp] theorem Agent.ticked_wait (ag : Agent) (hnd : Bool) (now : Nat) : (ag.ticked hnd now).wait = ag.wait := rfl
@[simp] theorem Agent.ticked_recorded (ag : Agent) (hnd : Bool) (now : Nat) : (ag.ticked hnd now).recorded = ag.recorded := rfl
@[simp] theorem Agent.ticked_late (ag : Agent) (hnd : Bool) (now : Nat) : (ag.ticked hnd now).late = ag.late := rfl
@[simp] theorem Agent.ticked_report (ag : Agent) (hnd : Bool) (now : Nat) : (ag.ticked hnd now).report = ag.report := rfl
@[simp] theorem Agent.ticked_delivered (ag : Agent) (hnd : Bool) (now : Nat) : (ag.ticked hnd now).delivered = ag.delivered := rfl
@[simp] theorem Agent.ticked_wdSignal (ag : Agent) (hnd : Bool) (now : Nat) : (ag.ticked hnd now).wdSignal = ag.wdSignal := rfl
@[simp] theorem Agent.ticked_fdSignal (ag : Agent) (hnd : Bool) (now : Nat) : (ag.ticked hnd now).fdSignal = ag.fdSignal := rfl
@[simp] theorem Agent.ticked_arrived (ag : Agent) (hnd : Bool) (now : Nat) : (ag.ticked hnd now).arrived = ag.arrived := rfl
@[simp] theorem Agent.ticked_arriving (ag : Agent) (hnd : Bool) (now : Nat) : (ag.ticked hnd now).arriving = ag.arriving := rfl
@[simp] theorem Agent.ticked_arrPending (ag : Agent) (hnd : Bool) (now : Nat) : (ag.ticked hnd now).arrPending = ag.arrPending := rfl
@[simp] theorem Agent.ticked_caught (ag : Agent) (hnd : Bool) (now : Nat) : (ag.ticked hnd now).caught = ag.caught := rfl
@[simp] theorem Agent.ticked_clocks (ag : Agent) (hnd : Bool) (now : Nat) : (ag.ticked hnd now).clocks = ag.clocks := rfl
@[simp] theorem Agent.ticked_returning (ag : Agent) (hnd : Bool) (now : Nat) : (ag.ticked hnd now).returning = ag.returning := rfl
@[simp] theorem Agent.ticked_pwCount (ag : Agent) (hnd : Bool) (now : Nat) : (ag.ticked hnd now).pwCount = ag.pwCount := rfl
@[simp] theorem Agent.ticked_trig (ag : Agent) (hnd : Bool) (now : Nat) : (ag.ticked hnd now).trig = ag.trig := rfl
@[simp] theorem Agent.ticked_detBuf (ag : Agent) (hnd : Bool) (now : Nat) : (ag.ticked hnd now).detBuf = ag.detBuf := rfl
@[simp] theorem Agent.ticked_scratch (ag : Agent) (hnd : Bool) (now : Nat) : (ag.ticked hnd now).scratch = ag.scratch := rfl
@[simp] theorem Agent.ticked_privBase (ag : Agent) (hnd : Bool) (now : Nat) : (ag.ticked hnd now).privBase = ag.privBase := rfl
@[simp] theorem Agent.ticked_pw (ag : Agent) (hnd : Bool) (now : Nat) : (ag.ticked hnd now).pw = ag.pw := rfl
@[simp] theorem Agent.ticked_readySince (ag : Agent) (hnd : Bool) (now : Nat) : (ag.ticked hnd now).readySince = now := rfl
@[simp] theorem Agent.ticked_wasReady (ag : Agent) (hnd : Bool) (now : Nat) : (ag.ticked hnd now).wasReady = ag.wasReady := rfl
@[simp] theorem Agent.ticked_prompt (ag : Agent) (hnd : Bool) (now : Nat) : (ag.ticked hnd now).prompt = ag.prompt := rfl
@[simp] theorem Agent.ticked_passed (ag : Agent) (hnd : Bool) (now : Nat) : (ag.ticked hnd now).passed = 0 := rfl
@[simp] theorem Agent.ticked_forker (ag : Agent) (hnd : Bool) (now : Nat) : (ag.ticked hnd now).forker = ag.forker := rfl
@[simp] theorem Agent.ticked_parties (ag : Agent) (hnd : Bool) (now : Nat) : (ag.ticked hnd now).parties = ag.parties := rfl
@[simp] theorem Agent.ticked_pairGroup (ag : Agent) (hnd : Bool) (now : Nat) : (ag.ticked hnd now).pairGroup = ag.pairGroup := rfl
@[simp] theorem Agent.ticked_rdvs (ag : Agent) (hnd : Bool) (now : Nat) : (ag.ticked hnd now).rdvs = ag.rdvs := rfl
@[simp] theorem Agent.ticked_rdvCount (ag : Agent) (hnd : Bool) (now : Nat) : (ag.ticked hnd now).rdvCount = ag.rdvCount := rfl
@[simp] theorem Agent.ticked_seqFault (ag : Agent) (hnd : Bool) (now : Nat) : (ag.ticked hnd now).seqFault = ag.seqFault := rfl
@[simp] theorem Agent.ticked_image (ag : Agent) (hnd : Bool) (now : Nat) : (ag.ticked hnd now).image = ag.image := rfl
@[simp] theorem Agent.ticked_refused (ag : Agent) (hnd : Bool) (now : Nat) : (ag.ticked hnd now).refused = ag.refused := rfl

end Sys2Proof.Machine
end

