-- ==== Sys2Proof/Laws/Store.lean ====
section
/-! SUPPORT. Finite maps, the canonical form of byte stores and what reads give after writes, little-endian numbers, masks. -/

namespace Sys2Proof.Machine

/-! ## Finite maps -/

theorem aget?_aset {α : Type} (m : Assoc α) (k : Nat) (v : α) (j : Nat) :
    aget? (aset m k v) j = if k = j then some v else aget? m j := by
  have out (p : Nat × α → Bool) (h : ∀ e ∈ m, p e = true → ¬ e.1 = j) :
      (m.filter p).find? (fun e => e.1 == j) = none := by
    simpa [List.find?_eq_none] using fun a b hm hp => h (a, b) hm hp
  have keep (p : Nat × α → Bool) (h : ∀ e : Nat × α, e.1 = j → p e = true) :
      (m.filter p).find? (fun e => e.1 == j) = m.find? (fun e => e.1 == j) := by
    rw [List.find?_filter]
    congr 1
    funext e
    by_cases he : e.1 = j
    · simp [he, h e he]
    · simp [he]
  simp only [aget?, aset, List.find?_append, List.find?_cons, List.find?_nil]
  rcases Nat.lt_trichotomy j k with h | h | h
  · rw [keep _ (fun e he => by simp [he, h]), out _ (fun e _ he => by simp at he; omega)]
    have hk : (k == j) = false := by simpa using (by omega : ¬ k = j)
    have hk' : ¬ k = j := by omega
    simp [hk, hk']
  · subst h
    rw [out _ (fun e _ he => by simp at he; omega)]
    simp
  · rw [out _ (fun e _ he => by simp at he; omega), keep _ (fun e he => by simp [he, h])]
    have hk : (k == j) = false := by simpa using (by omega : ¬ k = j)
    have hk' : ¬ k = j := by omega
    simp [hk, hk']

theorem aget_aset {α : Type} (m : Assoc α) (d : α) (k : Nat) (v : α) (j : Nat) :
    aget (aset m k v) d j = if k = j then v else aget m d j := by
  simp only [aget, aget?_aset]; split <;> rfl

@[simp] theorem aget_aset_self {α : Type} (m : Assoc α) (d : α) (k : Nat) (v : α) : aget (aset m k v) d k = v := by
  simp [aget_aset]

theorem aget_aset_ne {α : Type} (m : Assoc α) (d : α) {k j : Nat} (v : α) (h : k ≠ j) :
    aget (aset m k v) d j = aget m d j := by
  simp [aget_aset, h]

/-- Every value of a map after an update has a property that the old values and the new one have. -/
theorem aset_all {α : Type} (p : α → Prop) (m : Assoc α) (k : Nat) (v : α) (h : ∀ e ∈ m, p e.2) (hv : p v) :
    ∀ e ∈ aset m k v, p e.2 := by
  intro e he
  simp only [aset, List.mem_append, List.mem_filter, List.mem_singleton] at he
  rcases he with (he | rfl) | he
  · exact h e he.1
  · exact hv
  · exact h e he.1

/-- A value looked up has a property that all values and the default have. -/
theorem aget_of_all {α : Type} (p : α → Prop) (m : Assoc α) (d : α) (k : Nat) (h : ∀ e ∈ m, p e.2) (hd : p d) :
    p (aget m d k) := by
  cases f : m.find? (fun e => e.1 == k) with
  | none => simpa [aget, aget?, f] using hd
  | some e => simpa [aget, aget?, f] using h e (List.mem_of_find?_eq_some f)

/-! ## The canonical form -/

/-- The canonical form in words: addresses rise strictly, and no listed byte is the 0 of an unlisted address. -/
theorem Memory.wf_iff (m : List Host.Cell) :
    Memory.wf m = true ↔ m.Pairwise (fun c e => c.1 < e.1) ∧ ∀ c ∈ m, c.2 ≠ 0 := by
  induction m with
  | nil => simp [Memory.wf]
  | cons c m ih =>
    cases m with
    | nil => simp [Memory.wf]
    | cons e m =>
      simp only [Memory.wf, Bool.and_eq_true, decide_eq_true_eq, ih, List.pairwise_cons, List.forall_mem_cons]
      constructor
      · rintro ⟨⟨h1, h2⟩, ⟨h3, h4⟩, h5, h6⟩
        exact ⟨⟨⟨h2, fun x hx => Nat.lt_trans h2 (h3 x hx)⟩, h3, h4⟩, by simpa using h1, h5, h6⟩
      · rintro ⟨⟨⟨h2, -⟩, h3, h4⟩, h1, h5, h6⟩
        exact ⟨⟨by simpa using h1, h2⟩, ⟨h3, h4⟩, h5, h6⟩

theorem Memory.cells_mem {a : Nat} {bs : List Byte} {c : Host.Cell} (h : c ∈ Memory.cells a bs) :
    a ≤ c.1 ∧ c.1 < a + bs.length ∧ c.2 ≠ 0 := by
  induction bs generalizing a with
  | nil => simp [Memory.cells] at h
  | cons b bs ih =>
    simp only [Memory.cells] at h
    split at h
    · obtain ⟨h1, h2, h3⟩ := ih h
      exact ⟨by omega, by simp only [List.length_cons]; omega, h3⟩
    · rcases List.mem_cons.1 h with rfl | h
      · simp_all
      · obtain ⟨h1, h2, h3⟩ := ih h
        exact ⟨by omega, by simp only [List.length_cons]; omega, h3⟩

theorem Memory.cells_pairwise (a : Nat) (bs : List Byte) : (Memory.cells a bs).Pairwise (fun c e => c.1 < e.1) := by
  induction bs generalizing a with
  | nil => simp [Memory.cells]
  | cons b bs ih =>
    simp only [Memory.cells]
    split
    · exact ih _
    · exact List.pairwise_cons.2 ⟨fun e he => (Memory.cells_mem he).1, ih _⟩

/-- A run of bytes written keeps the canonical form. -/
theorem Memory.write_wf {m : List Host.Cell} (a : Nat) (bs : List Byte) (h : Memory.wf m = true) :
    Memory.wf (Memory.write m a bs) = true := by
  rw [Memory.wf_iff] at h ⊢
  obtain ⟨hs, hz⟩ := h
  refine ⟨?_, ?_⟩
  · simp only [Memory.write]
    refine List.pairwise_append.2 ⟨hs.filter _, List.pairwise_append.2 ⟨Memory.cells_pairwise _ _, hs.filter _, ?_⟩, ?_⟩
    · intro c hc e he
      have h1 := (Memory.cells_mem hc).2.1
      have h2 := (List.mem_filter.1 he).2
      simp only [decide_eq_true_eq] at h2
      omega
    · intro c hc e he
      have h1 := (List.mem_filter.1 hc).2
      simp only [decide_eq_true_eq] at h1
      rcases List.mem_append.1 he with he | he
      · have := (Memory.cells_mem he).1; omega
      · have h2 := (List.mem_filter.1 he).2
        simp only [decide_eq_true_eq] at h2
        omega
  · intro c hc
    simp only [Memory.write, List.mem_append] at hc
    rcases hc with hc | hc | hc
    · exact hz _ (List.mem_filter.1 hc).1
    · exact (Memory.cells_mem hc).2.2
    · exact hz _ (List.mem_filter.1 hc).1

/-- Cells taken out of a store leave it in canonical form. -/
theorem Memory.filter_wf {m : List Host.Cell} (p : Host.Cell → Bool) (h : Memory.wf m = true) :
    Memory.wf (m.filter p) = true := by
  rw [Memory.wf_iff] at h ⊢
  exact ⟨h.1.filter _, fun c hc => h.2 _ (List.mem_filter.1 hc).1⟩

/-! ## Reads after writes -/

theorem Memory.get_cons (c : Host.Cell) (m : List Host.Cell) (x : Nat) :
    Memory.get (c :: m) x = if c.1 = x then c.2 else Memory.get m x := by
  by_cases h : c.1 = x <;> simp [Memory.get, h]

theorem Memory.get_append (m n : List Host.Cell) (x : Nat) :
    Memory.get (m ++ n) x = if ∃ c ∈ m, c.1 = x then Memory.get m x else Memory.get n x := by
  induction m with
  | nil => simp
  | cons c m ih =>
    simp only [List.cons_append, Memory.get_cons, ih, List.exists_mem_cons_iff]
    split <;> simp_all

theorem Memory.get_filter (m : List Host.Cell) (p : Nat → Bool) (x : Nat) (h : p x = true) :
    Memory.get (m.filter (fun c => p c.1)) x = Memory.get m x := by
  induction m with
  | nil => rfl
  | cons c m ih =>
    by_cases hx : c.1 = x
    · simp [Memory.get_cons, hx, h]
    · simp only [List.filter_cons, Memory.get_cons, hx, if_false]
      split
      · simp [Memory.get_cons, hx, ih]
      · exact ih

theorem Memory.get_none (m : List Host.Cell) (x : Nat) (h : ∀ c ∈ m, c.1 ≠ x) : Memory.get m x = 0 := by
  induction m with
  | nil => rfl
  | cons c m ih =>
    simp only [List.forall_mem_cons] at h
    simp [Memory.get_cons, h.1, ih h.2]

theorem Memory.get_cells (a : Nat) (bs : List Byte) (x : Nat) :
    Memory.get (Memory.cells a bs) x = if a ≤ x then bs.getD (x - a) 0 else 0 := by
  induction bs generalizing a with
  | nil => simp [Memory.cells, Memory.get]
  | cons b bs ih =>
    have key : Memory.get (Memory.cells (a + 1) bs) x = if a + 1 ≤ x then bs.getD (x - (a + 1)) 0 else 0 := ih (a + 1)
    simp only [Memory.cells]
    rcases Nat.lt_trichotomy a x with h | h | h
    · have e : x - a = (x - (a + 1)) + 1 := by omega
      have r : Memory.get (Memory.cells (a + 1) bs) x = (b :: bs).getD (x - a) 0 := by
        rw [key, if_pos (by omega), e]; simp
      rw [if_pos (by omega : a ≤ x)]
      split
      · exact r
      · simp only [Memory.get_cons]; rw [if_neg (by omega)]; exact r
    · subst h
      have r : Memory.get (Memory.cells (a + 1) bs) a = 0 := by rw [key, if_neg (by omega)]
      rw [if_pos (by omega : a ≤ a)]
      split
      · next hb => simp [r, hb]
      · simp [Memory.get]
    · have r : Memory.get (Memory.cells (a + 1) bs) x = 0 := by rw [key, if_neg (by omega)]
      rw [if_neg (by omega : ¬ a ≤ x)]
      split
      · exact r
      · simp only [Memory.get_cons]; rw [if_neg (by omega)]; exact r

/-- A byte read after a run of bytes has been written: of the run, or as before. -/
theorem Memory.get_write (m : List Host.Cell) (a : Nat) (bs : List Byte) (x : Nat) :
    Memory.get (Memory.write m a bs) x = if a ≤ x ∧ x < a + bs.length then bs.getD (x - a) 0 else Memory.get m x := by
  have f1 (h : x < a) : Memory.get (m.filter (fun c => decide (c.1 < a))) x = Memory.get m x :=
    Memory.get_filter m (fun y => decide (y < a)) x (by simpa using h)
  have f2 (h : a + bs.length ≤ x) : Memory.get (m.filter (fun c => decide (a + bs.length ≤ c.1))) x = Memory.get m x :=
    Memory.get_filter m (fun y => decide (a + bs.length ≤ y)) x (by simpa using h)
  have hi : a + bs.length ≤ x ∨ ¬ (a + bs.length ≤ x) := Nat.lt_or_ge x (a + bs.length) |>.symm.imp id (by omega)
  have n1 (h : a ≤ x) : ¬ ∃ c ∈ m.filter (fun c => decide (c.1 < a)), c.1 = x := by
    rintro ⟨c, hc, e⟩
    have h1 := (List.mem_filter.1 hc).2
    simp only [decide_eq_true_eq] at h1
    omega
  have n2 (h : x < a ∨ a + bs.length ≤ x) : ¬ ∃ c ∈ Memory.cells a bs, c.1 = x := by
    rintro ⟨c, hc, e⟩
    have := Memory.cells_mem hc
    omega
  simp only [Memory.write]
  rw [Memory.get_append]
  rcases Nat.lt_or_ge x a with h | h
  · rw [if_neg (by omega : ¬ (a ≤ x ∧ x < a + bs.length))]
    split
    · exact f1 h
    · next hn =>
      rw [Memory.get_append, if_neg (n2 (.inl h))]
      have z : Memory.get m x = 0 := by
        refine Memory.get_none m x (fun c hc e => hn ⟨c, List.mem_filter.2 ⟨hc, by simpa [e] using h⟩, e⟩)
      rw [z]
      refine Memory.get_none _ x (fun c hc e => hn ⟨c, List.mem_filter.2 ⟨(List.mem_filter.1 hc).1, by simpa [e] using h⟩, e⟩)
  · rw [if_neg (n1 h), Memory.get_append]
    rcases hi with h2 | h2
    · rw [if_neg (n2 (.inr h2)), if_neg (by omega : ¬ (a ≤ x ∧ x < a + bs.length)), f2 h2]
    · rw [if_pos (by omega : a ≤ x ∧ x < a + bs.length)]
      have g := Memory.get_cells a bs x
      rw [if_pos h] at g
      split
      · exact g
      · next hn =>
        have z : Memory.get (Memory.cells a bs) x = 0 := Memory.get_none _ x (fun c hc e => hn ⟨c, hc, e⟩)
        rw [← g, z]
        refine Memory.get_none _ x (fun c hc e => ?_)
        have h3 := (List.mem_filter.1 hc).2
        simp only [decide_eq_true_eq] at h3
        omega

/-- The bytes written at an address are the bytes read there. -/
theorem Memory.read_write (m : List Host.Cell) (a : Nat) (bs : List Byte) :
    Memory.read (Memory.write m a bs) a bs.length = bs := by
  refine List.ext_getElem (by simp [Memory.read]) (fun i h1 h2 => ?_)
  simp only [Memory.read, List.getElem_map, List.getElem_range, Memory.get_write]
  rw [if_pos (by omega)]
  simp [h2]

/-! ## Little-endian numbers -/

@[simp] theorem leBytes_length (n w : Nat) : (leBytes n w).length = n := by
  simp [leBytes]

theorem leBytes_succ (n w : Nat) : leBytes (n + 1) w = BitVec.ofNat 8 w :: leBytes n (w / 256) := by
  simp [leBytes, List.range_succ_eq_map, Nat.pow_succ', Nat.div_div_eq_div_mul]

/-- The bytes of a number give the number back, modulo their count. -/
theorem leNat_leBytes (n w : Nat) : leNat (leBytes n w) = w % 256 ^ n := by
  induction n generalizing w with
  | zero => simp [leBytes, leNat, Nat.mod_one]
  | succ n ih =>
    have e : (BitVec.ofNat 8 w : Byte).toNat = w % 256 := BitVec.toNat_ofNat w 8
    have step : leNat (leBytes (n + 1) w) = 256 * leNat (leBytes n (w / 256)) + (BitVec.ofNat 8 w : Byte).toNat := by
      rw [leBytes_succ]; rfl
    rw [step, ih, e, Nat.pow_succ', Nat.mod_mul, Nat.add_comm]

/-! ## Masks -/

theorem foldl_bits (f : Nat → Bool) (n t : Nat) :
    ((List.range n).foldl (fun a t => if f t then a + 2 ^ t else a) 0).testBit t = (decide (t < n) && f t) ∧
      (List.range n).foldl (fun a t => if f t then a + 2 ^ t else a) 0 < 2 ^ n := by
  induction n with
  | zero => simp
  | succ n ih =>
    simp only [List.range_succ, List.foldl_append, List.foldl_cons, List.foldl_nil]
    generalize (List.range n).foldl (fun a t => if f t then a + 2 ^ t else a) 0 = x at ih ⊢
    obtain ⟨h1, h2⟩ := ih
    rcases Nat.lt_trichotomy t n with h | h | h
    · split
      · refine ⟨?_, by rw [Nat.pow_succ]; omega⟩
        rw [Nat.add_comm, Nat.testBit_two_pow_add_gt h, h1]
        simp [h, Nat.lt_succ_of_lt h]
      · exact ⟨by rw [h1]; simp [h, Nat.lt_succ_of_lt h], by rw [Nat.pow_succ]; omega⟩
    · subst h
      have z : x.testBit t = false := Nat.testBit_lt_two_pow h2
      split
      · next hf => exact ⟨by rw [Nat.add_comm, Nat.testBit_two_pow_add_eq, z]; simp [hf], by rw [Nat.pow_succ]; omega⟩
      · next hf => exact ⟨by rw [z]; simp [hf], by rw [Nat.pow_succ]; omega⟩
    · have hb : ∀ y, y < 2 ^ (n + 1) → y.testBit t = false := fun y hy =>
        Nat.testBit_lt_two_pow (Nat.lt_of_lt_of_le hy (Nat.pow_le_pow_right (by decide) h))
      have hl : ¬ t < n + 1 := by omega
      split
      · have hy : x + 2 ^ n < 2 ^ (n + 1) := by rw [Nat.pow_succ]; omega
        exact ⟨by rw [hb _ hy]; simp [hl], hy⟩
      · have hy : x < 2 ^ (n + 1) := by rw [Nat.pow_succ]; omega
        exact ⟨by rw [hb _ hy]; simp [hl], hy⟩

/-- Bit `t` of the mask of a condition. -/
@[simp] theorem mbit_maskOf (f : Nat → Bool) (t : Nat) : mbit (maskOf f) t = (decide (t < 32) && f t) := by
  simp only [mbit, maskOf, BitVec.getLsbD_ofNat, (foldl_bits f 32 t).1]
  cases h : decide (t < 32) <;> simp

@[simp] theorem mbit_and (m n : Mask) (t : Nat) : mbit (m &&& n) t = (mbit m t && mbit n t) := by simp [mbit]
@[simp] theorem mbit_or (m n : Mask) (t : Nat) : mbit (m ||| n) t = (mbit m t || mbit n t) := by simp [mbit]
@[simp] theorem mbit_not (m : Mask) (t : Nat) : mbit (~~~m) t = (decide (t < 32) && !mbit m t) := by simp [mbit]
@[simp] theorem mbit_zero (t : Nat) : mbit 0#32 t = false := by simp [mbit]
@[simp] theorem mbit_full (t : Nat) : mbit fullMask t = decide (t < 32) := by
  simp only [mbit, fullMask, BitVec.getLsbD_allOnes]

theorem mem_threadsOf (m : Mask) (t : Nat) : t ∈ threadsOf m ↔ t < 32 ∧ mbit m t = true := by simp [threadsOf]

/-- A mask is empty when none of its 32 bits is set. -/
theorem mask_eq_zero (m : Mask) : m = 0 ↔ ∀ t < 32, mbit m t = false := by
  constructor
  · rintro rfl t -
    exact mbit_zero t
  · intro h
    refine BitVec.eq_of_getLsbD_eq (fun i hi => ?_)
    simpa [mbit] using h i hi

end Sys2Proof.Machine
end

