-- ==== Sys2Proof/Laws/Issue.lean ====
section
/-! SUPPORT. What the issue of a word can do: it raises a fault, holds, or finishes with its NAS (`State.issueAfter`); and what
finishing leaves (`IssuedTo`). -/

namespace Sys2Proof.Machine

/-! ### Contexts and launches -/

theorem State.ctx_setCtx (s : State) (c : Nat) (x : Ctx) (j : Nat) : (s.setCtx c x).ctx j = if c = j then x else s.ctx j := by
  simp [State.ctx, State.setCtx, aget_aset]

theorem State.ctx_count (s : State) (c n k j : Nat) : (s.count c n k).ctx j =
    if j = c ∧ k ≠ 0 then { s.ctx c with counters := aset (s.ctx c).counters n (aget (s.ctx c).counters 0 n + k) } else s.ctx j := by
  by_cases h : k = 0
  · simp [State.count, h]
  · by_cases hj : j = c
    · simp [State.count, h, State.ctx_setCtx, hj]
    · have : ¬ c = j := fun e => hj e.symm
      simp [State.count, h, State.ctx_setCtx, hj, this]

theorem State.launchOf_updLaunch (s : State) (l : Nat) (f : Launch → Launch) (j : Nat) :
    (s.updLaunch l f).launchOf j = (s.launchOf j).map (fun x => if j = l then f x else x) := by
  unfold State.updLaunch State.launchOf
  cases h : aget? s.launches l with
  | none =>
    by_cases hj : j = l
    · simp [hj, h]
    · simp [hj]
  | some x =>
    by_cases hj : j = l
    · simp [aget?_aset, hj, h]
    · have : ¬ l = j := fun e => hj e.symm
      simp [aget?_aset, hj, this]

theorem State.updLaunch_eq (s : State) (l : Nat) (f : Launch → Launch) :
    s.updLaunch l f = { s with launches := (s.updLaunch l f).launches } := by
  unfold State.updLaunch
  split <;> rfl

theorem State.timerRuns_updLaunch (s : State) (l : Nat) (f : Launch → Launch) (j : Nat) :
    (s.updLaunch l f).timerRuns j = s.timerRuns j := by
  rw [State.updLaunch_eq]; rfl

/-! ### Finishing -/

/-- What finishing leaves when the word's effect changed the agent alone. -/
theorem State.finish_issued (s : State) {nas : Nas} {next : Nat} {ag n : Agent} (h : ag.nasNext nas next = .ok n) :
    IssuedTo s (({ s with agent := n }).finish s.agent) nas next ag := by
  unfold State.finish State.restartTimer
  refine ⟨⟨n, h, ?_⟩, ?_, ?_, ?_, ?_⟩
  · rw [State.updLaunch_eq]; rfl
  · rw [State.updLaunch_eq]; simp [State.count, State.me, State.setCtx]
  · intro c
    rw [State.updLaunch_eq]
    refine (State.ctx_count _ _ _ _ c).trans ?_
    by_cases hc : c = s.agent.ctx
    · subst hc; simp [State.ctx, State.me]
    · simp [State.ctx, State.me, hc]
  · intro l
    rw [State.launchOf_updLaunch]
    congr 1
    funext x
    by_cases hl : l = s.agent.launch
    · simp only [hl, if_true]
      rw [State.timerRuns_updLaunch]
      rfl
    · simp [hl]
  · intro a
    rw [State.updLaunch_eq]; simp [State.count, State.me, State.setCtx]

/-! ### Issue -/

/-- Why a NAS cannot act: the link stack, the loops, the PC and the kind of agent decide. -/
theorem Agent.nasBad_eq (a : Agent) (nas : Nas) (next : Nat) : a.nasBad nas next =
    match nas with
    | .callJ0 | .callJ1 => if 8 ≤ a.link.length then some 0x12 else none
    | .ret => if a.link = [] then some 0x0A else none
    | .lend => match a.loops.getLast? with
      | none => some 0x0A
      | some l => if a.pc = l.stop then none else some 0x0A
    | .ifNoneGoJ1 => if a.kind == .seq then some 0x0A else none
    | _ => none := by
  cases nas <;> simp only [Agent.nasBad, Agent.nasNext]
  case callJ0 | callJ1 => by_cases h : 8 ≤ a.link.length <;> simp [h]
  case ret => cases a.link <;> simp
  case lend =>
    cases a.loops.getLast? with
    | none => rfl
    | some l =>
      by_cases h : a.pc = l.stop
      · by_cases hn : aget a.lc (0#32) (a.loops.length - 1) - 1#32 = 0#32 <;> simp [h, hn]
      · simp [h]
  case exit | ifNoneGoJ1 => by_cases h : a.kind = Kind.seq <;> simp [h]

/-- Whether a NAS can act depends on the stacks, the PC and the kind of agent alone. -/
theorem Agent.nasBad_congr {a b : Agent} (nas : Nas) (next next' : Nat) (h1 : a.link = b.link) (h2 : a.loops = b.loops)
    (h3 : a.pc = b.pc) (h4 : a.kind = b.kind) : a.nasBad nas next = b.nasBad nas next' := by
  simp only [Agent.nasBad_eq, h1, h2, h3, h4]

theorem Agent.nasNext_of_nasBad {a : Agent} {nas : Nas} {next : Nat} (h : a.nasBad nas next = none) :
    ∃ n, a.nasNext nas next = .ok n := by
  unfold Agent.nasBad at h
  split at h
  · cases h
  · exact ⟨_, by assumption⟩

/-- A word whose checks and NAS pass finishes. -/
theorem State.issueAfter_finish {s s' : State} {nas : Nas} {cause : Option Nat} {srcs : List Use} {guard : Bool}
    {body : State → Res} {next : Nat} {n : Agent} (hc : cause = none) (hf : s.frameFault srcs = none)
    (hb : (if guard then body s else .ok s s.npc) = .ok s' next) (hn : s'.agent.nasNext nas next = .ok n) :
    s.issueAfter nas cause srcs guard body = ({ s' with agent := n }).finish s.agent := by
  simp only [State.issueAfter, hc, hf, hb, hn]

/-- A word that meets a check raises its cause. -/
theorem State.issue_stopped {s : State} {nas : Nas} {need : Need} {guard : Bool} {body : State → Res} {c : Nat}
    (h : s.agent.firstFault s.mayPriv need guard = some c) : s.issue nas need guard body = s.raise (s.agent.flt c) := by
  simp [State.issue, State.issueAfter, h]

/-- What finishing leaves when the word's effect made `u` of the module besides the agent. -/
theorem State.finish_issued' {s u : State} {nas : Nas} {next : Nat} {ag n : Agent} (hu : u.agent = s.agent)
    (h : ag.nasNext nas next = .ok n) : IssuedTo u (({ u with agent := n }).finish s.agent) nas next ag := by
  rw [← hu]; exact State.finish_issued u h

/-- A word whose effect changes the agent, and no field of it that NAS checks, and makes `u` of the rest of the module, issues with it. -/
theorem State.issue_issued {s u : State} {nas : Nas} {need : Need} {guard : Bool} {body : State → Res} {ag : Agent} {next : Nat}
    (hu : u.agent = s.agent)
    (hp : s.passes nas need guard) (hb : (if guard then body s else .ok s s.npc) = .ok { u with agent := ag } next)
    (h1 : ag.link = s.agent.link) (h2 : ag.loops = s.agent.loops) (h3 : ag.pc = s.agent.pc) (h4 : ag.kind = s.agent.kind) :
    ∃ t, s.issue nas need guard body = t ∧ IssuedTo u t nas next ag := by
  have hn : ag.nasBad nas next = none := (Agent.nasBad_congr nas next s.npc h1 h2 h3 h4).trans hp.2.2
  obtain ⟨n, hn⟩ := Agent.nasNext_of_nasBad hn
  refine ⟨_, State.issueAfter_finish hp.1 hp.2.1 hb hn, ?_⟩
  exact State.finish_issued' hu hn

/-- The track cycles of a word, as the statements count them. -/
theorem State.track_eq (s : State) (e : Mask) : s.track e = s.tracked e := by
  have h : popcount 32 e.toNat = ((List.range 32).filter (fun t => mbit e t)).length := by
    have gen : ∀ l : List Nat, ∀ a : Nat, l.foldl (fun a i => a + e.toNat / 2 ^ i % 2) a = a + (l.filter (fun t => mbit e t)).length := by
      intro l
      induction l with
      | nil => simp
      | cons t l ih =>
        intro a
        have hb : e.toNat / 2 ^ t % 2 = if mbit e t then 1 else 0 := by
          simp [mbit, BitVec.getLsbD, Nat.testBit_eq_decide_div_mod_eq]
          rcases Nat.mod_two_eq_zero_or_one (e.toNat / 2 ^ t) with h | h <;> simp [h]
        rw [List.foldl_cons, ih, hb]
        cases ht : mbit e t <;> (simp [List.filter, ht]; try omega)
    simpa [popcount] using gen (List.range 32) 0
  unfold State.track State.tracked State.count
  rw [h]

@[simp] theorem State.track_agent (s : State) (e : Mask) : (s.track e).agent = s.agent := by
  unfold State.track State.count; dsimp only; split <;> rfl

end Sys2Proof.Machine
end

