-- ==== Sys2Proof/Laws/Memory.lean ====
section
/-! SUPPORT. Every operation of the machine that stores to memory keeps the canonical form of memory. -/

namespace Sys2Proof.Machine

@[simp] theorem State.count_mem (s : State) (c n k : Nat) : (s.count c n k).mem = s.mem := by
  unfold State.count; split <;> rfl

@[simp] theorem State.mirror_mem (s : State) (x : Xl) (c ag va : Nat) (copy : Option Nat) (bs : List Byte) :
    (s.mirror x c ag va copy bs).mem = s.mem := by
  unfold State.mirror
  split
  · dsimp only; split <;> simp
  · rfl

@[simp] theorem State.countWalk_mem (s : State) (c va : Nat) : (s.countWalk c va).mem = s.mem := by simp [State.countWalk]

@[simp] theorem State.denies_mem (s : State) (c e : Nat) : (s.denies c e).mem = s.mem := by simp [State.denies]

@[simp] theorem State.noteCode_mem (s : State) (x : Xl) (n : Nat) : (s.noteCode x n).mem = s.mem := by
  unfold State.noteCode; split <;> rfl

@[simp] theorem State.cache_mem (s : State) (c va : Nat) (l : Leaf) : (s.cache c va l).mem = s.mem := by
  simp only [State.cache]
  split
  · rfl
  · rw [State.countWalk_mem]; rfl

@[simp] theorem State.countHops_mem (s : State) (c die : Nat) (x : Xl) (n : Nat) : (s.countHops c die x n).mem = s.mem := by
  unfold State.countHops
  split
  · simp
  · simp
  · split <;> simp

@[simp] theorem State.upd_mem (s : State) (id : Nat) (f : Agent → Agent) : (s.upd id f).mem = s.mem := by
  unfold State.upd; split <;> rfl

@[simp] theorem State.updAny_mem (s : State) (id : Nat) (f : Agent → Agent) : (s.updAny id f).mem = s.mem := by
  unfold State.updAny; split <;> simp

@[simp] theorem State.updLaunch_mem (s : State) (l : Nat) (f : Launch → Launch) : (s.updLaunch l f).mem = s.mem := by
  unfold State.updLaunch; split <;> rfl

@[simp] theorem State.doneK_mem (s : State) (id slot : Nat) (ws : List Word) : (s.doneK id slot ws).mem = s.mem := by
  unfold State.doneK
  split
  · simp [State.restartTimer]
  · split
    · rfl
    · simp [State.restartTimer]

theorem State.setD_wf (s : State) (a : Nat) (h : Memory.wf s.mem = true) : Memory.wf (s.setD a).mem = true := by
  simp only [State.setD]
  split
  · exact h
  · split
    · exact h
    · exact Memory.write_wf _ _ h

theorem State.markDirty_wf (s : State) (x : Xl) (h : Memory.wf s.mem = true) : Memory.wf (s.markDirty x).mem = true := by
  unfold State.markDirty
  split
  · simp only []
    split
    · exact State.setD_wf _ _ h
    · exact State.setD_wf _ _ h
  · exact h

theorem State.writePlace_wf (s : State) (x : Xl) (bs : List Byte) (poison : Bool) (h : Memory.wf s.mem = true) :
    Memory.wf (s.writePlace x bs poison).mem = true := by
  unfold State.writePlace
  split
  · exact h
  · exact Memory.write_wf _ _ h

theorem State.writeAt_wf (s : State) (x : Xl) (c ag va : Nat) (copy : Option Nat) (bs : List Byte) (poison : Bool)
    (h : Memory.wf s.mem = true) : Memory.wf (s.writeAt x c ag va copy bs poison).mem = true := by
  unfold State.writeAt
  rw [State.mirror_mem]
  exact State.markDirty_wf _ _ (State.writePlace_wf _ _ _ _ (by simpa using h))

/-! ### The activations that a write of the engines makes -/

/-- What opens a row keeps the form. -/
def Keeps (pre : State → Xl → State) : Prop := ∀ s x, Memory.wf s.mem = true → Memory.wf (pre s x).mem = true

theorem State.writeVaBy_wf {pre : State → Xl → State} (hp : Keeps pre) {s t : State} {c die ag va : Nat} {bs : List Byte}
    (h : Memory.wf s.mem = true) (e : s.writeVaBy pre c die ag va bs = .ok t) : Memory.wf t.mem = true := by
  unfold State.writeVaBy at e
  split at e
  · cases e
  · cases e
    rw [State.cache_mem, State.countHops_mem]
    exact State.writeAt_wf _ _ _ _ _ _ _ _ (hp _ _ h)

@[simp] theorem State.joinRow_mem (s : State) (die bank row : Nat) : (s.joinRow die bank row).mem = s.mem := by
  unfold State.joinRow; simp only []; split <;> rfl

@[simp] theorem State.join_mem (s : State) (x : Xl) : (s.join x).mem = s.mem := by
  unfold State.join
  split
  · split <;> simp
  · rfl

theorem State.putTrace_wf {pre : State → Xl → State} (hp : Keeps pre) (s : State) (c die : Nat) (bs : List Byte)
    (h : Memory.wf s.mem = true) : Memory.wf (s.putTrace pre c die bs).mem = true := by
  unfold State.putTrace
  simp only []
  split
  · simpa using h
  · split
    · simpa using h
    · next s' e => exact State.writeVaBy_wf (t := s') hp h e

theorem State.traceBy_wf {pre : State → Xl → State} (hp : Keeps pre) (s : State) (c : Nat) (t : Trace)
    (h : Memory.wf s.mem = true) : Memory.wf (s.traceBy pre c t).mem = true := by
  unfold State.traceBy
  simp only []
  split
  · exact h
  · split
    · exact h
    · split
      · simpa using h
      · exact State.putTrace_wf hp _ _ _ _ h

theorem State.storeRow_wf (s : State) (c die pa va : Nat) (r : RowResult) (h : Memory.wf s.mem = true) :
    Memory.wf (s.storeRow c die pa va r).mem = true := by
  unfold State.storeRow
  simp only [State.count_mem]
  split
  · split
    · exact State.markDirty_wf _ _ (Memory.write_wf _ _ h)
    · exact Memory.write_wf _ _ h
  · exact Memory.write_wf _ _ h

theorem State.finishReq_wf {pre : State → Xl → State} (hp : Keeps pre) (s : State) (q : Req) (tok : Word)
    (h : Memory.wf s.mem = true) : Memory.wf (s.finishReq pre q tok).mem = true := by
  unfold State.finishReq
  exact State.traceBy_wf hp _ _ _ (by simpa using h)

theorem State.applyReq_wf {pre : State → Xl → State} (hp : Keeps pre) (s : State) (dem : Bool) (q : Req)
    (h : Memory.wf s.mem = true) : Memory.wf (s.applyReq pre dem q).mem = true := by
  unfold State.applyReq
  exact State.finishReq_wf hp _ _ _ (State.storeRow_wf _ _ _ _ _ _ h)

/-- A property of a state that every element of a fold keeps. -/
theorem foldl_keeps {α β : Type} (p : β → Prop) (f : β → α → β) (l : List α) (hf : ∀ b a, p b → p (f b a)) :
    ∀ b, p b → p (l.foldl f b) := by
  induction l with
  | nil => intro b h; exact h
  | cons a l ih => intro b h; exact ih _ (hf _ _ h)

theorem State.activateBy_wf (n : Nat) : ∀ (s : State) (dem : Bool) (die bank row : Nat), Memory.wf s.mem = true →
    Memory.wf (State.activateBy n s dem die bank row).mem = true := by
  induction n with
  | zero => intro s dem die bank row h; exact h
  | succ n ih =>
    intro s dem die bank row h
    unfold State.activateBy
    simp only []
    have k : ∀ u : State, Memory.wf u.mem = true →
        Memory.wf (if (u.die die).waits.contains (bank, row) then
          u.setDie die { u.die die with waits := (u.die die).waits.filter (fun e => !(e == (bank, row))) } else u).mem = true := by
      intro u hu; split <;> exact hu
    refine k _ (foldl_keeps (fun u : State => Memory.wf u.mem = true) _ _ ?_ _ h)
    intro u q hu
    split
    · refine State.applyReq_wf ?_ _ _ _ hu
      intro v x hv
      simp only []
      split
      · split
        · exact ih _ _ _ _ _ hv
        · exact hv
      · exact hv
    · exact hu

theorem State.demandRow_wf (s : State) (die bank row : Nat) (h : Memory.wf s.mem = true) :
    Memory.wf (s.demandRow die bank row).mem = true := by
  unfold State.demandRow
  split
  · exact h
  · split
    · exact h
    · exact State.activateBy_wf _ _ _ _ _ _ h

theorem State.demand_keeps : Keeps State.demand := by
  intro s x h
  unfold State.demand
  split
  · split
    · exact State.demandRow_wf _ _ _ _ h
    · exact h
  · exact h

theorem State.writeVa_wf {s t : State} {c die ag va : Nat} {bs : List Byte} (h : Memory.wf s.mem = true)
    (e : s.writeVa c die ag va bs = .ok t) : Memory.wf t.mem = true := State.writeVaBy_wf State.demand_keeps h e

theorem State.trace_wf (s : State) (c : Nat) (t : Trace) (h : Memory.wf s.mem = true) : Memory.wf (s.trace c t).mem = true :=
  State.traceBy_wf State.demand_keeps s c t h

theorem State.flushTrace_wf (s : State) (h : Memory.wf s.mem = true) : Memory.wf s.flushTrace.mem = true := by
  unfold State.flushTrace
  split
  · exact h
  · split
    · simpa using h
    · simp only []
      split
      · exact h
      · exact State.putTrace_wf State.demand_keeps _ _ _ _ h

theorem State.writeBlocks_wf {c die ag : Nat} (l : List (Nat × Nat)) : ∀ {s t : State} {bs : List Byte},
    Memory.wf s.mem = true → s.writeBlocks c die ag l bs = .ok t → Memory.wf t.mem = true := by
  induction l with
  | nil => intro s t bs h e; cases e; exact h
  | cons x l ih =>
    intro s t bs h e
    unfold State.writeBlocks at e
    split at e
    · cases e
    · next e' => exact ih (State.writeVa_wf h e') e

theorem State.writeRun_wf {s t : State} {c die ag va : Nat} {bs : List Byte} (h : Memory.wf s.mem = true)
    (e : s.writeRun c die ag va bs = .ok t) : Memory.wf t.mem = true := State.writeBlocks_wf _ h e

theorem State.writeRuns_wf {c die ag va : Nat} (l : List (Nat × List Byte)) : ∀ {s t : State},
    Memory.wf s.mem = true → s.writeRuns c die ag va l = .ok t → Memory.wf t.mem = true := by
  induction l with
  | nil => intro s t h e; cases e; exact h
  | cons x l ih =>
    intro s t h e
    unfold State.writeRuns at e
    split at e
    · cases e
    · next e' => exact ih (State.writeRun_wf h e') e

end Sys2Proof.Machine
end

