-- ==== Sys2Proof/Laws/Typed.lean ====
section
/-! SUPPORT. What a short typed word writes, thread by thread and register by register (`State.effV`, `effU`, `effA`). -/

namespace Sys2Proof.Machine

/-! ### Masks -/

theorem mask_ext {m n : Mask} (h : ∀ t < 32, mbit m t = mbit n t) : m = n :=
  BitVec.eq_of_getLsbD_eq (fun t ht => h t ht)

@[simp] theorem maskOf_mbit (m : Mask) : maskOf (fun t => mbit m t) = m := mask_ext (fun t ht => by simp [ht])

theorem maskOf_congr {f g : Nat → Bool} (h : ∀ t < 32, f t = g t) : maskOf f = maskOf g :=
  mask_ext (fun t ht => by simp [ht, h t ht])

theorem any_threadsOf (m : Mask) (q : Nat → Bool) : (threadsOf m).any q = true ↔ ∃ t < 32, mbit m t = true ∧ q t = true := by
  simp [List.any_eq_true, mem_threadsOf, and_assoc]

/-- The poison of some operands, thread by thread. -/
theorem State.mbit_poisons (s : State) (os : List Opnd) (t : Nat) :
    mbit (s.poisons os) t = os.any (fun o => mbit (s.agent.poisonOf o) t) := by
  unfold State.poisons
  suffices h : ∀ m : Mask, mbit (os.foldl (fun m o => m ||| s.agent.poisonOf o) m) t =
      (mbit m t || os.any (fun o => mbit (s.agent.poisonOf o) t)) by simpa using h 0
  induction os with
  | nil => simp
  | cons o os ih => intro m; simp [ih, Bool.or_assoc]

/-! ### Registers -/

theorem Agent.lane_writeV (ag : Agent) (n : Nat) (e : Mask) (f : Nat → Word) (pois : Mask) (j t : Nat) (ht : t < 32) :
    ((ag.writeV n e f pois).vreg j).lane t = if n = j ∧ mbit e t then f t else (ag.vreg j).lane t := by
  unfold Agent.writeV
  split
  · next h => subst h; simp
  · by_cases hj : n = j
    · subst hj; simp [Agent.vreg, VReg.lane, ht]
    · simp [Agent.vreg, aget_aset, hj]

theorem Agent.poison_writeV (ag : Agent) (n : Nat) (e : Mask) (f : Nat → Word) (pois : Mask) (j t : Nat) (ht : t < 32) :
    mbit ((ag.writeV n e f pois).vreg j).poison t = if n = j ∧ mbit e t then mbit pois t else mbit (ag.vreg j).poison t := by
  unfold Agent.writeV
  split
  · next h => subst h; simp
  · by_cases hj : n = j
    · subst hj; cases h : mbit e t <;> simp [Agent.vreg, ht, h]
    · simp [Agent.vreg, aget_aset, hj]

theorem Agent.tag_writeV (ag : Agent) (n : Nat) (e : Mask) (f : Nat → Word) (pois : Mask) (j : Nat) :
    ((ag.writeV n e f pois).vreg j).tag = if n = j ∧ e ≠ 0 then .g else (ag.vreg j).tag := by
  unfold Agent.writeV
  split
  · next h => simp [h]
  · next h =>
    by_cases hj : n = j
    · subst hj; rw [if_pos ⟨rfl, h⟩]; simp [Agent.vreg]
    · simp [Agent.vreg, aget_aset, hj]

theorem Agent.writeV_eq (ag : Agent) (n : Nat) (e : Mask) (f : Nat → Word) (pois : Mask) :
    ag.writeV n e f pois = { ag with v := (ag.writeV n e f pois).v } := by
  unfold Agent.writeV
  split <;> rfl

/-! A register file is read alike in agents that hold the same one. -/

theorem Agent.vreg_of {a b : Agent} (h : a.v = b.v) (n : Nat) : a.vreg n = b.vreg n := by simp only [Agent.vreg, h]
theorem Agent.preg_of {a b : Agent} (h : a.p = b.p) (n : Nat) : a.preg n = b.preg n := by simp only [Agent.preg, h]
theorem Agent.kreg_of {a b : Agent} (h : a.k = b.k) (n : Nat) : a.kreg n = b.kreg n := by simp only [Agent.kreg, h]
theorem Agent.areg_of {a b : Agent} (h : a.a = b.a) (n : Nat) : a.areg n = b.areg n := by simp only [Agent.areg, h]
theorem Agent.flag_of {a b : Agent} (h : a.b = b.b) (n : Nat) : a.flag n = b.flag n := by simp only [Agent.flag, h]

@[simp] theorem Agent.writeV_p (ag : Agent) (n : Nat) (e : Mask) (f : Nat → Word) (m : Mask) : (ag.writeV n e f m).p = ag.p := by
  unfold Agent.writeV; split <;> rfl
@[simp] theorem Agent.writeV_wst (ag : Agent) (n : Nat) (e : Mask) (f : Nat → Word) (m : Mask) :
    (ag.writeV n e f m).wst = ag.wst := by
  unfold Agent.writeV; split <;> rfl
@[simp] theorem Agent.writeV_report (ag : Agent) (n : Nat) (e : Mask) (f : Nat → Word) (m : Mask) :
    (ag.writeV n e f m).report = ag.report := by
  unfold Agent.writeV; split <;> rfl
@[simp] theorem Agent.reportPoison_v (ag : Agent) (m : Mask) (a pc : Nat) (h : Bool) (no : Nat) : (ag.reportPoison m a pc h no).v = ag.v := by
  unfold Agent.reportPoison; (repeat' split) <;> rfl
@[simp] theorem Agent.reportPoison_p (ag : Agent) (m : Mask) (a pc : Nat) (h : Bool) (no : Nat) : (ag.reportPoison m a pc h no).p = ag.p := by
  unfold Agent.reportPoison; (repeat' split) <;> rfl
@[simp] theorem Agent.reportPoison_wst (ag : Agent) (m : Mask) (a pc : Nat) (h : Bool) (no : Nat) :
    (ag.reportPoison m a pc h no).wst = ag.wst := by
  unfold Agent.reportPoison; (repeat' split) <;> rfl

theorem Agent.mbit_writeP (ag : Agent) (n : Nat) (e : Mask) (f : Nat → Bool) (j t : Nat) (ht : t < 32) :
    mbit ((ag.writeP n e f).preg j) t = if n = j ∧ mbit e t then f t else mbit (ag.preg j) t := by
  by_cases hj : n = j
  · subst hj; cases h : mbit e t <;> simp [Agent.writeP, Agent.setP, Agent.preg, ht, h]
  · simp [Agent.writeP, Agent.setP, Agent.preg, aget_aset, hj]

theorem Agent.reportPoison_eq (ag : Agent) (m : Mask) (a pc : Nat) (h : Bool) (no : Nat) :
    ag.reportPoison m a pc h no = { ag with report := (ag.reportPoison m a pc h no).report } := by
  unfold Agent.reportPoison
  split
  · rfl
  · split <;> rfl

theorem Agent.reportPoison_congr {a b : Agent} (h : a.report = b.report) (hi : a.inflight = b.inflight) (m : Mask) (x pc : Nat) (y : Bool) :
    (a.reportPoison m x pc y).report = (b.reportPoison m x pc y).report := by
  have hn : a.lastNo = b.lastNo := by simp only [Agent.lastNo, h, hi]
  unfold Agent.reportPoison
  rw [h, hn]
  split
  · exact h
  · split <;> rfl

theorem Agent.kreg_setK (ag : Agent) (n : Nat) (w : Word) (j : Nat) : (ag.setK n w).kreg j = if n = j then w else ag.kreg j := by
  simp [Agent.kreg, Agent.setK, aget_aset]

theorem Agent.areg_setA (ag : Agent) (n : Nat) (r : AReg) (j : Nat) : (ag.setA n r).areg j = if n = j then r else ag.areg j := by
  simp [Agent.areg, Agent.setA, aget_aset]

theorem Agent.flag_setB (ag : Agent) (n : Nat) (x : Bool) (j : Nat) (hj : j < 4) :
    (ag.setB n x).flag j = if n = j then x else ag.flag j := by
  have h : ∀ b : BitVec 4, ∀ x : Bool, ∀ n j : Fin 4, (BitVec.ofNat 4 ((List.range 4).foldl (fun acc i =>
      if (if i = n.val then x else b.getLsbD i) then acc + 2 ^ i else acc) 0)).getLsbD j.val =
      if n.val = j.val then x else b.getLsbD j.val := by decide
  have h' : ∀ b : BitVec 4, ∀ j : Fin 4, (BitVec.ofNat 4 ((List.range 4).foldl (fun acc i =>
      if b.getLsbD i then acc + 2 ^ i else acc) 0)).getLsbD j.val = b.getLsbD j.val := by decide
  by_cases hn : n < 4
  · exact h ag.b x ⟨n, hn⟩ ⟨j, hj⟩
  · have h1 : ∀ i ∈ List.range 4, (if i = n then x else ag.flag i) = ag.flag i := by
      intro i hi; have : i ≠ n := by simp at hi; omega
      simp [this]
    have : ¬ n = j := by omega
    simp only [this, if_false]
    refine Eq.trans ?_ (h' ag.b ⟨j, hj⟩)
    have h2 : ∀ (l : List Nat) (z : Nat), (∀ i ∈ l, i ≠ n) → l.foldl (fun acc i =>
        if (if i = n then x else ag.flag i) = true then acc + 2 ^ i else acc) z = l.foldl (fun acc i =>
        if ag.b.getLsbD i = true then acc + 2 ^ i else acc) z := by
      intro l
      induction l with
      | nil => intro z _; rfl
      | cons i l ih =>
        intro z hl
        simp only [List.forall_mem_cons] at hl
        simp only [List.foldl_cons, if_neg hl.1]
        exact ih _ hl.2
    show (BitVec.ofNat 4 _).getLsbD j = _
    rw [h2 _ _ (by intro i hi; simp at hi; omega)]

/-! ### Effects -/

/-- A result of a class-V word, as the statements say it. -/
theorem State.effV_wrote (s : State) (was : Agent) (e : Mask) (d : Opnd) (m : Mask) (f : Nat → Val)
    (hh : was.handler = s.agent.handler) :
    WroteV was (s.effV e d m f was) e d (fun t => mbit m t) (fun t => ((f t).r, (f t).q)) s.agent.pc := by
  have hq : ∀ ag : Agent, ag.orQsat ((threadsOf e).any (fun t => (f t).q)) =
      { ag with wst := if ∃ t < 32, mbit e t ∧ (f t).q then ag.wst ||| 1 else ag.wst } := by
    intro ag
    unfold Agent.orQsat
    by_cases h : ((threadsOf e).any (fun t => (f t).q)) = true
    · rw [if_pos h, if_pos ((any_threadsOf e _).1 h)]
    · rw [if_neg h, if_neg (fun hx => h ((any_threadsOf e _).2 hx))]
  unfold State.effV
  simp only [hq]
  cases d with
  | v n =>
    obtain ⟨w, hw⟩ : ∃ w, w = was.writeV n e (fun t => (f t).r) m := ⟨_, rfl⟩
    simp only [← hw]
    obtain ⟨ag, ha⟩ : ∃ ag, ag = { w with wst := if ∃ t < 32, mbit e t ∧ (f t).q then w.wst ||| 1 else w.wst } := ⟨_, rfl⟩
    rw [← ha]
    have hv : ag.v = w.v := by rw [ha]
    have hp : ag.p = was.p := by rw [ha, hw]; simp
    refine ⟨by rw [ha, hw, Agent.writeV_eq], ?_, ?_, ?_, ?_, by rw [ha, hw]; simp, by rw [ha, hw]; simp⟩
    · intro j t ht; rw [Agent.vreg_of hv, hw, Agent.lane_writeV was _ e _ m j t ht]; simp
    · intro j t ht; rw [Agent.vreg_of hv, hw, Agent.poison_writeV was _ e _ m j t ht]; simp
    · intro j; rw [Agent.vreg_of hv, hw, Agent.tag_writeV was _ e _ m j]; simp
    · intro j t ht; rw [Agent.preg_of hp]; simp
  | p n =>
    obtain ⟨w, hw⟩ : ∃ w, w = was.writeP n e (fun t => (f t).r.getLsbD 0) := ⟨_, rfl⟩
    obtain ⟨x, hx⟩ : ∃ x, x = w.reportPoison (m &&& e) 0 s.agent.pc s.agent.handler := ⟨_, rfl⟩
    dsimp only
    rw [← hw, ← hx]
    obtain ⟨ag, ha⟩ : ∃ ag, ag = { x with wst := if ∃ t < 32, mbit e t ∧ (f t).q then x.wst ||| 1 else x.wst } := ⟨_, rfl⟩
    rw [← ha]
    have hv : ag.v = was.v := by rw [ha, hx, hw]; simp [Agent.writeP, Agent.setP]
    have hp : ag.p = w.p := by rw [ha, hx]; simp
    refine ⟨by rw [ha, hx, hw, Agent.reportPoison_eq]; rfl, ?_, ?_, ?_, ?_, by rw [ha, hx, hw]; simp [Agent.writeP, Agent.setP], ?_⟩
    · intro j t ht; rw [Agent.vreg_of hv]; simp
    · intro j t ht; rw [Agent.vreg_of hv]; simp
    · intro j; rw [Agent.vreg_of hv]; simp
    · intro j t ht; rw [Agent.preg_of hp, hw, Agent.mbit_writeP was _ e _ j t ht]; simp
    · have hr : ag.report = x.report := by rw [ha]
      rw [if_pos ⟨n, rfl⟩, hr, hx, hh, maskOf_mbit]
      exact Agent.reportPoison_congr (by rw [hw]; rfl) (by rw [hw]; rfl) _ _ _ _
  | _ =>
    obtain ⟨ag, ha⟩ : ∃ ag, ag = { was with wst := if ∃ t < 32, mbit e t ∧ (f t).q then was.wst ||| 1 else was.wst } := ⟨_, rfl⟩
    rw [← ha]
    have hv : ag.v = was.v := by rw [ha]
    have hp : ag.p = was.p := by rw [ha]
    refine ⟨by rw [ha], ?_, ?_, ?_, ?_, by rw [ha], by rw [ha]; simp⟩
    · intro j t ht; rw [Agent.vreg_of hv]; simp
    · intro j t ht; rw [Agent.vreg_of hv]; simp
    · intro j; rw [Agent.vreg_of hv]; simp
    · intro j t ht; rw [Agent.preg_of hp]; simp

/-- A result of a class-U word, as the statements say it. -/
theorem effU_wrote (was : Agent) (d : Opnd) (v : Val) : WroteU was (effU d v was) d (v.r, v.q) := by
  have hq : ∀ ag : Agent, ag.orQsat v.q = { ag with wst := if v.q then ag.wst ||| 1 else ag.wst } := by
    intro ag; unfold Agent.orQsat; split <;> rfl
  unfold effU
  simp only [hq]
  cases d with
  | k n =>
    obtain ⟨ag, ha⟩ : ∃ ag, ag = { was.setK n v.r with wst := if v.q then (was.setK n v.r).wst ||| 1 else (was.setK n v.r).wst } :=
      ⟨_, rfl⟩
    rw [← ha]
    have hk : ag.k = (was.setK n v.r).k := by rw [ha]
    have hb : ag.b = was.b := by rw [ha]; simp
    refine ⟨by rw [ha]; rfl, ?_, ?_, by rw [ha]; rfl⟩
    · intro j; rw [Agent.kreg_of hk, Agent.kreg_setK]; simp
    · intro j hj; rw [Agent.flag_of hb]; simp
  | b n =>
    obtain ⟨w, hw⟩ : ∃ w, w = was.setB n (v.r.getLsbD 0) := ⟨_, rfl⟩
    simp only [← hw]
    obtain ⟨ag, ha⟩ : ∃ ag, ag = { w with wst := if v.q then w.wst ||| 1 else w.wst } := ⟨_, rfl⟩
    rw [← ha]
    have hk : ag.k = was.k := by rw [ha, hw]; rfl
    have hb : ag.b = w.b := by rw [ha]
    refine ⟨by rw [ha, hw]; rfl, ?_, ?_, by rw [ha, hw]; rfl⟩
    · intro j; rw [Agent.kreg_of hk]; simp
    · intro j hj; rw [Agent.flag_of hb, hw, Agent.flag_setB was n _ j hj]; simp
  | _ =>
    obtain ⟨ag, ha⟩ : ∃ ag, ag = { was with wst := if v.q then was.wst ||| 1 else was.wst } := ⟨_, rfl⟩
    rw [← ha]
    have hk : ag.k = was.k := by rw [ha]
    have hb : ag.b = was.b := by rw [ha]
    refine ⟨by rw [ha], ?_, ?_, by rw [ha]⟩
    · intro j; rw [Agent.kreg_of hk]; simp
    · intro j hj; rw [Agent.flag_of hb]; simp

/-- A result of a class-A word, as the statements say it. -/
theorem effA_wrote (was : Agent) (d : Opnd) (r : AReg) : WroteA was (effA d r was) d r := by
  unfold effA
  cases d with
  | a n =>
    refine ⟨rfl, ?_⟩
    intro j; simpa using Agent.areg_setA was n r j
  | _ => constructor <;> simp

/-! ### Typed words -/

/-- A class-V word whose effect is a result per thread issues with it. -/
theorem State.typed_issuedV {s : State} {h : Head} {t : Typed} {d : Opnd} {m : Mask} {f : Nat → Val} (hc : t.need.cls = .v)
    (ht : t.takes s (s.agent.execSet h.g) = s.agent.execSet h.g)
    (he : t.eff s (s.agent.execSet h.g) = .ok (s.effV (s.agent.execSet h.g) d m f))
    (hp : s.passes h.nas (t.need.guarded h.g) true) :
    ∃ u ag, s.typed h t = u ∧ Issued (s.tracked (s.agent.execSet h.g)) u h.nas ag ∧
      WroteV s.agent ag (s.agent.execSet h.g) d (fun t => mbit m t) (fun t => ((f t).r, (f t).q)) s.agent.pc := by
  have hw := s.effV_wrote s.agent (s.agent.execSet h.g) d m f rfl
  have hf := hw.frame
  have key := State.issue_issued (s := s) (u := s.track (s.agent.execSet h.g)) (nas := h.nas) (need := t.need.guarded h.g) (guard := t.need.cls == .v || s.agent.guardU h.g)
    (body := fun s => match t.eff s (if t.need.cls == .v then s.agent.execSet h.g else fullMask) with
      | .error f => .bad f
      | .ok f => .ok ((if t.need.cls == .v then s.track (t.takes s (s.agent.execSet h.g)) else s).me f) s.npc) (ag := s.effV (s.agent.execSet h.g) d m f s.agent) (next := s.npc)
    (by simp) (by simpa [hc] using hp) (by simp [hc, he, ht, State.me]) (by rw [hf]) (by rw [hf]) (by rw [hf]) (by rw [hf])
  obtain ⟨u, hu, hi⟩ := key
  rw [State.track_eq] at hi
  have hn : (s.tracked (s.agent.execSet h.g)).npc = s.npc := by simp only [State.npc, ← State.track_eq, State.track_agent]
  exact ⟨u, _, hu, by rw [Issued, hn]; exact hi, hw⟩

/-- A class-U word whose effect is one result issues with it, and with none where its guard is false. -/
theorem State.typed_issuedU {s : State} {h : Head} {t : Typed} {d : Opnd} {v : Val} (hc : t.need.cls = .u)
    (he : t.eff s fullMask = .ok (effU d v)) (hp : s.passes h.nas (t.need.guarded h.g) (s.agent.guardU h.g)) :
    ∃ u ag, s.typed h t = u ∧ Issued s u h.nas ag ∧
      if s.agent.guardU h.g then WroteU s.agent ag d (v.r, v.q) else ag = s.agent := by
  have hw := effU_wrote s.agent d v
  have hf := hw.frame
  have hp' : s.passes h.nas (t.need.guarded h.g) (t.need.cls == .v || s.agent.guardU h.g) := by rw [hc]; exact hp
  cases hg : s.agent.guardU h.g with
  | true =>
    obtain ⟨u, hu, hi⟩ := State.issue_issued (body := fun s => match t.eff s (if t.need.cls == .v then s.agent.execSet h.g else fullMask) with
      | .error f => .bad f
      | .ok f => .ok ((if t.need.cls == .v then s.track (t.takes s (s.agent.execSet h.g)) else s).me f) s.npc) (u := s) (ag := effU d v s.agent) (next := s.npc) rfl hp' (by simp [hc, he, hg, State.me])
      (by rw [hf]) (by rw [hf]) (by rw [hf]) (by rw [hf])
    exact ⟨u, _, hu, hi, by simpa using hw⟩
  | false =>
    obtain ⟨u, hu, hi⟩ := State.issue_issued (body := fun s => match t.eff s (if t.need.cls == .v then s.agent.execSet h.g else fullMask) with
      | .error f => .bad f
      | .ok f => .ok ((if t.need.cls == .v then s.track (t.takes s (s.agent.execSet h.g)) else s).me f) s.npc) (u := s) (ag := s.agent) (next := s.npc) rfl hp' (by simp [hc, hg]) rfl rfl rfl rfl
    exact ⟨u, _, hu, hi, by simp⟩

/-- A class-A word whose effect is one result issues with it, and with none where its guard is false. -/
theorem State.typed_issuedA {s : State} {h : Head} {t : Typed} {d : Opnd} {r : AReg} (hc : t.need.cls = .a)
    (he : t.eff s fullMask = .ok (effA d r)) (hp : s.passes h.nas (t.need.guarded h.g) (s.agent.guardU h.g)) :
    ∃ u ag, s.typed h t = u ∧ Issued s u h.nas ag ∧
      if s.agent.guardU h.g then WroteA s.agent ag d r else ag = s.agent := by
  have hw := effA_wrote s.agent d r
  have hf := hw.frame
  have hp' : s.passes h.nas (t.need.guarded h.g) (t.need.cls == .v || s.agent.guardU h.g) := by rw [hc]; exact hp
  cases hg : s.agent.guardU h.g with
  | true =>
    obtain ⟨u, hu, hi⟩ := State.issue_issued (body := fun s => match t.eff s (if t.need.cls == .v then s.agent.execSet h.g else fullMask) with
      | .error f => .bad f
      | .ok f => .ok ((if t.need.cls == .v then s.track (t.takes s (s.agent.execSet h.g)) else s).me f) s.npc) (u := s) (ag := effA d r s.agent) (next := s.npc) rfl hp' (by simp [hc, he, hg, State.me])
      (by rw [hf]) (by rw [hf]) (by rw [hf]) (by rw [hf])
    exact ⟨u, _, hu, hi, by simpa using hw⟩
  | false =>
    obtain ⟨u, hu, hi⟩ := State.issue_issued (body := fun s => match t.eff s (if t.need.cls == .v then s.agent.execSet h.g else fullMask) with
      | .error f => .bad f
      | .ok f => .ok ((if t.need.cls == .v then s.track (t.takes s (s.agent.execSet h.g)) else s).me f) s.npc) (u := s) (ag := s.agent) (next := s.npc) rfl hp' (by simp [hc, hg]) rfl rfl rfl rfl
    exact ⟨u, _, hu, hi, by simp⟩

/-- A typed word that meets a check raises its cause. -/
theorem State.typed_stopped {s : State} {h : Head} {t : Typed} {c : Nat}
    (hf : s.agent.firstFault s.mayPriv (t.need.guarded h.g) (t.need.cls == .v || s.agent.guardU h.g) = some c) :
    s.typed h t = s.raise (s.agent.flt c) := State.issue_stopped hf

theorem State.mbit_poisons' (s : State) (os : List Opnd) : (fun t => mbit (s.poisons os) t) = s.anyPoison os :=
  funext (fun t => s.mbit_poisons os t)

/-- How a typed word of class V runs, from its effect. -/
theorem State.runsV_of {s : State} {i : Instr} {h : Head} {d : Opnd} {t : Typed} {m : Mask} {f : Nat → Val}
    (he : exec i s = .next (s.typed h t)) (hc : t.need.cls = .v) (ht : t.takes s (s.agent.execSet h.g) = s.agent.execSet h.g)
    (hf : t.eff s (s.agent.execSet h.g) = .ok (s.effV (s.agent.execSet h.g) d m f)) :
    s.runsV i h t.need d (fun t => mbit m t) (fun t => ((f t).r, (f t).q)) := by
  refine ⟨fun c h' => ?_, fun hp => ?_⟩
  · rw [he, State.typed_stopped (c := c) (by rw [hc]; exact h')]
  · obtain ⟨u, ag, h1, h2, h3⟩ := State.typed_issuedV hc ht hf hp
    exact ⟨u, ag, by rw [he, h1], h2, h3⟩

/-- How a typed word of class U runs, from its effect. -/
theorem State.runsU_of {s : State} {i : Instr} {h : Head} {d : Opnd} {t : Typed} {v : Val}
    (he : exec i s = .next (s.typed h t)) (hc : t.need.cls = .u) (hf : t.eff s fullMask = .ok (effU d v)) :
    s.runsU i h t.need d (v.r, v.q) := by
  refine ⟨fun c h' => ?_, fun hp => ?_⟩
  · rw [he, State.typed_stopped (c := c) (by rw [hc]; exact h')]
  · obtain ⟨u, ag, h1, h2, h3⟩ := State.typed_issuedU hc hf hp
    exact ⟨u, ag, by rw [he, h1], h2, h3⟩

/-- How a typed word of class A runs, from its effect. -/
theorem State.runsA_of {s : State} {i : Instr} {h : Head} {d : Opnd} {t : Typed} {r : AReg}
    (he : exec i s = .next (s.typed h t)) (hc : t.need.cls = .a) (hf : t.eff s fullMask = .ok (effA d r)) :
    s.runsA i h t.need d r := by
  refine ⟨fun c h' => ?_, fun hp => ?_⟩
  · rw [he, State.typed_stopped (c := c) (by rw [hc]; exact h')]
  · obtain ⟨u, ag, h1, h2, h3⟩ := State.typed_issuedA hc hf hp
    exact ⟨u, ag, by rw [he, h1], h2, h3⟩

/-- How the class-V word of a row runs, from the values of its effect. -/
theorem Row.holdsV_of {r : Row} {h : Head} {d : Opnd} {s : State} {t : Typed} {f : Nat → Val}
    (he : exec r.v s = .next (s.typed h t)) (hn : t.need = needV d (r.srcs.map plain) r.noBit)
    (ht : t.takes s (s.agent.execSet h.g) = s.agent.execSet h.g)
    (hf : t.eff s (s.agent.execSet h.g) = .ok (s.effV (s.agent.execSet h.g) d (s.poisons r.srcs) f))
    (hv : ∀ t, ((f t).r, (f t).q) = r.f ⟨true, t, s.agent.pc⟩ (fun o => s.lane r.imm o t)) : r.holdsV h d s := by
  have h1 := State.runsV_of he (by rw [hn]; rfl) ht hf
  rw [hn, State.mbit_poisons', funext hv] at h1
  exact h1

/-- How the class-U word of a row runs, from the value of its effect. -/
theorem Row.holdsU_of {r : Row} {h : Head} {d : Opnd} {s : State} {t : Typed} {v : Val}
    (he : exec r.u s = .next (s.typed h t)) (hn : t.need = needU d (r.srcs.map plain) r.noBit)
    (hf : t.eff s fullMask = .ok (effU d v))
    (hv : (v.r, v.q) = r.f ⟨false, 0, s.agent.pc⟩ (fun o => s.uval r.imm o)) : r.holdsU h d s := by
  have h1 := State.runsU_of he (by rw [hn]; rfl) hf
  rw [hn, hv] at h1
  exact h1

/-- Results that agree in the executed threads are written alike. -/
theorem WroteV.congr {was ag : Agent} {e : Mask} {d : Opnd} {p p' : Nat → Bool} {f f' : Nat → Word × Bool} {pc : Nat}
    (h : WroteV was ag e d p f pc) (hp : ∀ t < 32, mbit e t = true → p t = p' t) (hf : ∀ t < 32, mbit e t = true → f t = f' t) :
    WroteV was ag e d p' f' pc := by
  refine ⟨h.frame, ?_, ?_, h.tags, ?_, ?_, ?_⟩
  · intro n t ht; rw [h.lanes n t ht]
    split
    · next c => rw [hf t ht c.2]
    · rfl
  · intro n t ht; rw [h.poison n t ht]
    split
    · next c => rw [hp t ht c.2]
    · rfl
  · intro n t ht; rw [h.preds n t ht]
    split
    · next c => rw [hf t ht c.2]
    · rfl
  · rw [h.qsat]
    have : (∃ t < 32, mbit e t = true ∧ (f t).2 = true) ↔ ∃ t < 32, mbit e t = true ∧ (f' t).2 = true :=
      ⟨fun ⟨t, ht, he, hq⟩ => ⟨t, ht, he, by rw [← hf t ht he]; exact hq⟩,
        fun ⟨t, ht, he, hq⟩ => ⟨t, ht, he, by rw [hf t ht he]; exact hq⟩⟩
    simp only [this]
  · rw [h.report]
    have : maskOf p &&& e = maskOf p' &&& e := mask_ext (fun t ht => by
      by_cases he : mbit e t = true
      · simp [ht, hp t ht he]
      · simp [he])
    rw [this]

/-- Results that agree in the executed threads run alike. -/
theorem State.runsV_congr {s : State} {i : Instr} {h : Head} {n : Need} {d : Opnd} {p p' : Nat → Bool} {f f' : Nat → Word × Bool}
    (r : s.runsV i h n d p f) (hp : ∀ t < 32, mbit (s.agent.execSet h.g) t = true → p t = p' t)
    (hf : ∀ t < 32, mbit (s.agent.execSet h.g) t = true → f t = f' t) : s.runsV i h n d p' f' := by
  refine ⟨r.1, fun hs => ?_⟩
  obtain ⟨t, ag, h1, h2, h3⟩ := r.2 hs
  exact ⟨t, ag, h1, h2, h3.congr hp hf⟩

/-- A typed word whose effect leaves the stacks, the PC and the kind of its agent alone issues with it, where its guard is true. -/
theorem State.typed_issued {s : State} {h : Head} {t : Typed} {g : Bool} {f : Agent → Agent}
    (hg : (t.need.cls == .v || s.agent.guardU h.g) = g)
    (he : g = true → t.eff s (if t.need.cls == .v then s.agent.execSet h.g else fullMask) = .ok f)
    (hp : s.passes h.nas (t.need.guarded h.g) g) (h1 : (f s.agent).link = s.agent.link) (h2 : (f s.agent).loops = s.agent.loops)
    (h3 : (f s.agent).pc = s.agent.pc) (h4 : (f s.agent).kind = s.agent.kind) :
    ∃ u, s.typed h t = u ∧
      IssuedTo (if t.need.cls == .v then s.track (t.takes s (s.agent.execSet h.g)) else s) u h.nas s.npc (if g then f s.agent else s.agent) := by
  subst hg
  have hp' : s.passes h.nas (t.need.guarded h.g) (t.need.cls == .v || s.agent.guardU h.g) := hp
  cases hg : (t.need.cls == .v || s.agent.guardU h.g) with
  | true =>
    rw [hg] at hp'
    have := State.issue_issued (body := fun s => match t.eff s (if t.need.cls == .v then s.agent.execSet h.g else fullMask) with
      | .error f => .bad f
      | .ok f => .ok ((if t.need.cls == .v then s.track (t.takes s (s.agent.execSet h.g)) else s).me f) s.npc) (u := if t.need.cls == .v then s.track (t.takes s (s.agent.execSet h.g)) else s) (ag := f s.agent) (next := s.npc)
      (by split <;> simp) hp' (by simp only [if_true, he hg]; split <;> simp [State.me]) h1 h2 h3 h4
    simp only [if_true]
    unfold State.typed
    rw [hg]
    exact this
  | false =>
    rw [hg] at hp'
    have := State.issue_issued (body := fun s => match t.eff s (if t.need.cls == .v then s.agent.execSet h.g else fullMask) with
      | .error f => .bad f
      | .ok f => .ok ((if t.need.cls == .v then s.track (t.takes s (s.agent.execSet h.g)) else s).me f) s.npc) (u := s) (ag := s.agent) (next := s.npc) rfl hp' (by simp) rfl rfl rfl rfl
    have hv : (t.need.cls == .v) = false := (Bool.or_eq_false_iff.1 hg).1
    simp only [hv, Bool.false_eq_true, if_false] at this ⊢
    unfold State.typed
    simp only [hv, Bool.false_eq_true, if_false]
    rw [hv] at hg
    rw [hg]
    exact this

/-- A typed word whose effect faults raises the fault. -/
theorem State.typed_bad {s : State} {h : Head} {t : Typed} {f : Flt} (hg : (t.need.cls == .v || s.agent.guardU h.g) = true)
    (he : t.eff s (if t.need.cls == .v then s.agent.execSet h.g else fullMask) = .error f)
    (hp : s.passes h.nas (t.need.guarded h.g) true) : s.typed h t = s.raise f := by
  unfold State.typed State.issue State.issueAfter
  rw [hg]
  have h1 := hp.1
  have h2 := hp.2.1
  simp only [Need.guarded] at h1 h2
  simp only [h1, h2, if_true, he]

end Sys2Proof.Machine
end

