-- ==== Sys2Proof/Tests/Slice0.lean ====
section
/-! SUPPORT. Tests of the model against words and worked examples of the spec, ill-formed terms that well-formedness refuses, and
for every statement of Obligations.lean that has hypotheses a state and operands that meet them. -/

open Sys2Proof Sys2Proof.Machine

namespace Sys2Proof.Tests

set_option Elab.async false

/-! ## Helpers -/

def H : Head := ⟨.next, .always⟩
def L (slot la : Nat) : LHead := ⟨.next, .always, Fin.ofNat 16 la, Fin.ofNat 8 slot⟩
def M (slot cm : Nat) : MHead := ⟨.next, .always, 0, Fin.ofNat 8 slot, 0, BitVec.ofNat 4 cm⟩

/-- A running module with one warp at 0x10000, its agent changed. -/
def at_ (f : Agent → Agent) : State := (State.reset.withFetchWord 64 0).me f

/-- That warp with some registers. -/
def regs (ag : Agent) : Agent :=
  { ag with v := [(1, ⟨List.replicate 32 5, 1, .g⟩), (2, ⟨List.replicate 32 7, 0, .g⟩)]
            k := [(2, 3), (4, 0x20000), (8, 0x20000), (20, 64)]
            a := [(1, ⟨4, 1, false⟩), (2, ⟨0x7FFFFFFF, 1, true⟩)], p := [(0, 0xF)], b := 1 }

/-- A word with the guard true passes its checks at a state. -/
abbrev good (s : State) (n : Need) : Prop := s.passes .next n true

/-- A word meets cause `c` first. -/
abbrev stops (s : State) (n : Need) (c : Nat) : Prop := s.agent.firstFault s.mayPriv n true = some c

/-- A check gives a value. -/
def gives {ε α : Type} [DecidableEq α] (r : Except ε α) (x : α) : Bool :=
  match r with
  | .ok y => decide (y = x)
  | .error _ => false

/-- A check gives a cause. -/
def fails {ε α : Type} [DecidableEq ε] (r : Except ε α) (c : ε) : Bool :=
  match r with
  | .ok _ => false
  | .error d => decide (d = c)

theorem gives_iff {ε α : Type} [DecidableEq α] (r : Except ε α) (x : α) : gives r x = true ↔ r = .ok x := by
  cases r <;> simp [gives]

theorem fails_iff {ε α : Type} [DecidableEq ε] (r : Except ε α) (c : ε) : fails r c = true ↔ r = .error c := by
  cases r <;> simp [fails]

/-- Every word decodes to the instruction beside it. -/
def reads (l : List (Nat × Instr)) : Bool := l.all (fun e => decide (decodeTableWord 64 e.1 = some e.2))

/-- The warp after a word. -/
def after (i : Instr) (s : State) : Agent :=
  match exec i s with
  | .next t => t.agent
  | _ => Agent.vacant

/-- Lane 3 of v4 and QSAT after a word whose sources v1 and v2 hold these values in every lane. -/
def ofV (i : Instr) (x y : Nat) : Nat × Bool :=
  let ag := after i (at_ (fun ag => { ag with
    v := [(1, ⟨List.replicate 32 (BitVec.ofNat 32 x), 0, .g⟩), (2, ⟨List.replicate 32 (BitVec.ofNat 32 y), 0, .g⟩)] }))
  (((ag.vreg 4).lanes.getD 3 0).toNat, ag.wst.getLsbD 0)

/-- k4 and QSAT after a word whose sources k1 and k2 hold these values. -/
def ofU (i : Instr) (x y : Nat) : Nat × Bool :=
  let ag := after i (at_ (fun ag => { ag with k := [(1, BitVec.ofNat 32 x), (2, BitVec.ofNat 32 y)] }))
  ((ag.kreg 4).toNat, ag.wst.getLsbD 0)

/-! ## Words of the spec's encodings -/

/-- Integer, packed and move words: words of the spec's examples, and words put together from its opcodes and fields (R57, R298-R412). -/
theorem test_words_int_1 : reads [
    (0x00021C0281281900, .iaddV H (.v 5) (.v 9) (.k 3) true),
    (0x02021C82A1383900, .iaddU H (.k 5) (.k 9) (.imm 7) true),
    (0x00041C0281281900, .isubV H (.v 5) (.v 9) (.k 3) true),
    (0x02041C82A1383900, .isubU H (.k 5) (.k 9) (.imm 7) true),
    (0x00061C0281281900, .imulV H (.v 5) (.v 9) (.k 3) true),
    (0x02061C82A1383900, .imulU H (.k 5) (.k 9) (.imm 7) true),
    (0x000C1C0281281900, .ishlV H (.v 5) (.v 9) (.k 3) true),
    (0x020C1C82A1383900, .ishlU H (.k 5) (.k 9) (.imm 7) true),
    (0x000E1C0281281800, .ishrV H (.v 5) (.v 9) (.k 3)),
    (0x020E1C82A1383800, .ishrU H (.k 5) (.k 9) (.imm 7)),
    (0x00101C0281281800, .israV H (.v 5) (.v 9) (.k 3)),
    (0x02101C82A1383800, .israU H (.k 5) (.k 9) (.imm 7)),
    (0x00121C0281281800, .iandV H (.v 5) (.v 9) (.k 3)),
    (0x02121C82A1383800, .iandU H (.k 5) (.k 9) (.imm 7)),
    (0x00141C0281281800, .iorV H (.v 5) (.v 9) (.k 3)),
    (0x02141C82A1383800, .iorU H (.k 5) (.k 9) (.imm 7)),
    (0x00161C0281281800, .ixorV H (.v 5) (.v 9) (.k 3)),
    (0x02161C82A1383800, .ixorU H (.k 5) (.k 9) (.imm 7)),
    (0x00181C0281281801, .iminV H (.v 5) (.v 9) (.k 3) true),
    (0x02181C82A1383801, .iminU H (.k 5) (.k 9) (.imm 7) true)] = true := by decide

/-- Integer, packed and move words: words of the spec's examples, and words put together from its opcodes and fields (R57, R298-R412). -/
theorem test_words_int_2 : reads [
    (0x001A1C0281281801, .imaxV H (.v 5) (.v 9) (.k 3) true),
    (0x021A1C82A1383801, .imaxU H (.k 5) (.k 9) (.imm 7) true),
    (0x02081C8220281001, .imadU H (.k 4) (.k 1) (.k 2) true false),
    (0x000A1C0200201000, .imulhV H (.v 4) (.v 1) (.v 2) false),
    (0x001C1C0200200100, .iabsV H (.v 4) (.v 1) true),
    (0x021C1C8220200000, .iabsU H (.k 4) (.k 1) false),
    (0x02201C822028100B, .iselU H (.k 4) (.k 1) (.k 2) true 3),
    (0x02221C8220281000, .bfxU H (.k 4) (.k 1) (.k 2) false),
    (0x00241C0200281000, .bfiV H (.v 4) (.v 1) (.k 2)),
    (0x02241C8220281000, .bfiU H (.k 4) (.k 1) (.k 2)),
    (0x00261C0200200000, .popcV H (.v 4) (.v 1)),
    (0x00281C0200200000, .clzV H (.v 4) (.v 1)),
    (0x002A1C020020100E, .iadcV H (.v 4) (.v 1) (.v 2) true 6),
    (0x022A1C8220281003, .iadcU H (.k 4) (.k 1) (.k 2) false 3),
    (0x022C1C8220381D81, .shrrU H (.k 4) (.k 1) (.imm 3) .rup true .s8 true),
    (0x022E1C82202000C0, .isatU H (.k 4) (.k 1) .u16),
    (0x02321C8220281101, .padd2U H (.k 4) (.k 1) (.k 2) true true),
    (0x00341C0200201100, .psub2V H (.v 4) (.v 1) (.v 2) false true),
    (0x02341C8220281000, .psub2U H (.k 4) (.k 1) (.k 2) false false),
    (0x02381C8220281001, .packU H (.k 4) (.k 1) (.k 2) false true)] = true := by decide

/-- Integer, packed and move words: words of the spec's examples, and words put together from its opcodes and fields (R57, R298-R412). -/
theorem test_words_int_3 : reads [
    (0x00441C020000ABCD, .ldihV H (.v 4) 0xABCD),
    (0x00221C0100282001, .bfxV H (.v 2) (.v 1) (.k 4) true),
    (0x02281C81A0400000, .clzU H (.k 3) (.k 2)),
    (0x003A1C0080481900, .dot4 H (.v 1) (.v 2) (.k 3) false false true),
    (0x00021C0180281000, .iaddV H (.v 3) (.v 1) (.k 2) false),
    (0x00021C0080281100, .iaddV H (.v 1) (.v 1) (.k 2) true),
    (0x021E1CC428180000, .icmpU H (.b 0) (.sp 0) (.imm 0) false .eq),
    (0x001E1CC10020100A, .icmpV H (.p 2) (.v 1) (.v 2) true .lt),
    (0x00081C0200201100, .imadV H (.v 4) (.v 1) (.v 2) false true),
    (0x020A1C82A0281001, .imulhU H (.k 5) (.k 1) (.k 2) true),
    (0x002E1C0100200040, .isatV H (.v 2) (.v 1) .s16),
    (0x00201C018020100A, .iselV H (.v 3) (.v 1) (.v 2) true 2),
    (0x00421C01001FFFFB, .ldiV H (.v 2) 2097147),
    (0x02421C8280020002, .ldiU H (.k 5) 131074),
    (0x02441C9400000100, .ldihU H (.k 40) 256),
    (0x00401C0080400000, .movV H (.v 1) (.v 2)),
    (0x02401C812BC00000, .movU H (.k 2) (.sp 30)),
    (0x00381C0300C02000, .packV H (.v 6) (.v 6) (.v 4) false false),
    (0x00381C0180201100, .packV H (.v 3) (.v 1) (.v 2) true false),
    (0x00321C0080201100, .padd2V H (.v 1) (.v 1) (.v 2) false true)] = true := by decide

/-- Integer, packed and move words: words of the spec's examples, and words put together from its opcodes and fields (R57, R298-R412). -/
theorem test_words_int_4 : reads [
    (0x00361C0180201101, .pmul2 H (.v 3) (.v 1) (.v 2) true true),
    (0x00301C0080684000, .pmac2 H (.v 1) (.v 3) (.k 8) false false),
    (0x02261C8229A00000, .popcU H (.k 4) (.sp 13)),
    (0x002C1C0080387940, .shrrV H (.v 1) (.v 1) (.imm 15) .rne true .s16 false),
    (0x002C1C0100281E00, .shrrV H (.v 2) (.v 1) (.k 3) .rdn false .s32 false)] = true := by decide

/-- Floating-point words: words of the spec's examples, and words put together from its opcodes and fields (R57, R298-R412). -/
theorem test_words_float_1 : reads [
    (0x02521C8220200306, .cvtU H (.k 4) (.k 1) (.v 0) .rz true .i32 .f32),
    (0x00601C0200201400, .faddV H (.v 4) (.v 1) (.v 2) .rup),
    (0x00621C0200201400, .fsubV H (.v 4) (.v 1) (.v 2) .rup),
    (0x02621C8220281200, .fsubU H (.k 4) (.k 1) (.k 2) .rz),
    (0x00641C0200201400, .fmulV H (.v 4) (.v 1) (.v 2) .rup),
    (0x02641C8220281200, .fmulU H (.k 4) (.k 1) (.k 2) .rz),
    (0x02661C8220281601, .ffmaU H (.k 4) (.k 1) (.k 2) .rdn true),
    (0x00681C0200201000, .fminV H (.v 4) (.v 1) (.v 2)),
    (0x02681C8220281000, .fminU H (.k 4) (.k 1) (.k 2)),
    (0x006A1C0200201000, .fmaxV H (.v 4) (.v 1) (.v 2)),
    (0x026A1C8220281000, .fmaxU H (.k 4) (.k 1) (.k 2)),
    (0x026C1CC4A0281005, .fcmpU H (.b 1) (.k 1) (.k 2) .ge),
    (0x026E1C8220200200, .frndU H (.k 4) (.k 1) .rz),
    (0x00701C0200201000, .fsclV H (.v 4) (.v 1) (.v 2) .rne),
    (0x02701C8220281400, .fsclU H (.k 4) (.k 1) (.k 2) .rup),
    (0x00721C0200200000, .fgetxV H (.v 4) (.v 1)),
    (0x02721C8220200000, .fgetxU H (.k 4) (.k 1)),
    (0x00741C0200200000, .fgetmV H (.v 4) (.v 1)),
    (0x02741C8220200000, .fgetmU H (.k 4) (.k 1)),
    (0x00761C0200200000, .fclassV H (.v 4) (.v 1))] = true := by decide

/-- Floating-point words: words of the spec's examples, and words put together from its opcodes and fields (R57, R298-R412). -/
theorem test_words_float_2 : reads [
    (0x02761C8220200000, .fclassU H (.k 4) (.k 1)),
    (0x02781C8220281000, .hfma2U H (.k 4) (.k 1) (.k 2) .rne false),
    (0x027A1C8220281000, .hadd2U H (.k 4) (.k 1) (.k 2) .rne false),
    (0x007C1C0200201080, .hmul2V H (.v 4) (.v 1) (.v 2) .rne true),
    (0x027C1C8220281000, .hmul2U H (.k 4) (.k 1) (.k 2) .rne false),
    (0x02881C8220281000, .rbitsU H (.k 4) (.k 1) (.k 2)),
    (0x00521C0080000068, .cvtV H (.v 1) (.v 0) (.v 0) .rne false .f32 .bf16),
    (0x00521C01002018B6, .cvtV H (.v 2) (.v 1) (.v 3) .rne false .bf16sr .f32),
    (0x02601C8220980800, .faddU H (.k 4) (.k 4) (.imm 1) .rne),
    (0x006C1CC000201002, .fcmpV H (.p 0) (.v 1) (.v 2) .lt),
    (0x00661C0200201000, .ffmaV H (.v 4) (.v 1) (.v 2) .rne false),
    (0x006E1C0180200600, .frndV H (.v 3) (.v 1) .rdn),
    (0x00781C0200201000, .hfma2V H (.v 4) (.v 1) (.v 2) .rne false),
    (0x007A1C0280A03080, .hadd2V H (.v 5) (.v 5) (.v 6) .rne true),
    (0x00881C0144082000, .rbitsV H (.v 2) .lane (.k 4))] = true := by decide

/-- Class-A words: words of the spec's examples, and words put together from its opcodes and fields (R57, R298-R412). -/
theorem test_words_affine : reads [
    (0x04021D0240281000, .iaddA H (.a 4) (.a 1) (.k 2)),
    (0x04041D0240281000, .isubA H (.a 4) (.a 1) (.k 2)),
    (0x04061D0240281000, .imulA H (.a 4) (.a 1) (.k 2)),
    (0x040C1D0240281000, .ishlA H (.a 4) (.a 1) (.k 2)),
    (0x04401D0240200000, .movA H (.a 4) (.a 1)),
    (0x04421D02001FFFFC, .ldiA H (.a 4) (BitVec.ofInt 21 (-4))),
    (0x04461D0220200000, .promA H (.a 4) (.k 1)),
    (0x02541C81C0200001, .aget H (.k 3) (.a 1) .stride),
    (0x04561D0020481800, .aset H (.a 0) (.k 2) (.k 3)),
    (0x00461C03C4000000, .promV H (.v 7) .lane false),
    (0x00461C03C0200001, .promV H (.v 7) (.a 1) true)] = true := by decide

/-- Cross-thread words: words of the spec's examples, and words put together from its opcodes and fields (R57, R298-R412). -/
theorem test_words_thread : reads [
    (0x02481C828078F800, .rdth H (.k 5) (.v 3) (.imm 31)),
    (0x024E1CC4B0000001, .vote H (.b 1) (.p 0) .any false),
    (0x024E1C82B0200002, .vote H (.k 5) (.p 1) .ballot false),
    (0x00841C010038F808, .vperm (L 1 0) (.v 2) (.v 1) (.imm 31)),
    (0x024C1C8380780400, .vred H (.k 7) (.v 3) (.imm 0) .fadd),
    (0x00821C008008B600, .vscan H (.v 1) (.v 0) (.k 22) .fmax false),
    (0x00821C0100180000, .vscan H (.v 2) (.v 0) (.imm 0) .add false),
    (0x00801C0180180041, .vsld H (.v 3) (.v 0) (.imm 0) true false 1),
    (0x00801C0200980021, .vsld H (.v 4) (.v 4) (.imm 0) false true 1),
    (0x004A1C0220583800, .wrth H (.v 4) (.k 2) (.imm 7))] = true := by decide

/-- Memory words: words of the spec's examples, and words put together from its opcodes and fields (R57, R298-R412). -/
theorem test_words_mem : reads [
    (0x02A07C8261083148, .ldU (L 1 3) (.k 4) (.imm 8) (.k 6) .g .b64 false false false),
    (0x00A41C0300A83200, .atomV (L 0 0) (.v 6) (.v 5) (.k 6) false .exch false false),
    (0x02A41C8261000410, .atomU (L 2 0) (.k 4) (.imm 8) (.v 0) true .add false false),
    (0x02A61C8261000414, .redU (L 2 0) (.k 4) (.imm 8) (.v 0) true .add true false),
    (0x02A81C0061083110, .pftU (L 2 0) (.imm 8) (.k 6) .g .b32 false false),
    (0x00AA1C0140200508, .bld (L 1 0) (.v 2) (.a 1) .c .b32),
    (0x00AC1C0040200528, .bst (L 5 0) (.v 0) (.a 1) .c .b32),
    (0x00A05C0240283100, .ldV (L 0 2) (.v 4) (.a 1) (.k 6) .g .b32 false false false),
    (0x00A01C01C00002C8, .ldV (L 1 0) (.v 3) (.a 0) (.v 0) .s .s16 false false false),
    (0x00A81C0040283110, .pftV (L 2 0) (.a 1) (.k 6) .g .b32 false false),
    (0x00A61C0240283018, .redV (L 3 0) (.v 4) (.a 1) (.k 6) false .add false false),
    (0x00A61C0140283288, .redV (L 1 0) (.v 2) (.a 1) (.k 6) false .fadd false false),
    (0x00A21C00C0286128, .stV (L 5 0) (.v 1) (.a 1) (.k 12) .g .b32 false false),
    (0x02A21C8460086140, .stU (L 0 0) (.k 8) (.imm 0) (.k 12) .g .b64 false false)] = true := by decide

/-- Control words: words of the spec's examples, and words put together from its opcodes and fields (R57, R298-R412). -/
theorem test_words_control : reads [
    (0x06041C0000000000, .mskelse H),
    (0x06061C0000000000, .mskend H),
    (0x060A1C00001FFFFD, .ldj H false (BitVec.ofInt 21 (-3))),
    (0x060C1C0061000004, .loop H (.imm 8) 4),
    (0x060C1C0020E00002, .loop H (.k 7) 2),
    (0x06441C0022800000, .sleepat H (.k 20)),
    (0x06461C0022984800, .trace H (.k 20) (.imm 9)),
    (0x06021C0030000000, .mskif H (.p 0) false),
    (0x06021C0030200001, .mskif H (.p 1) true),
    (0xE6081C0030200000, .mskbrk ⟨.ifNoneGoJ1, .always⟩ (.p 1) false 0),
    (0x06081C0030400003, .mskbrk H (.p 2) true 1),
    (0x76001C0000000000, .nop ⟨.exit, .always⟩),
    (0x16001C0000000000, .nop ⟨.goJ0, .always⟩),
    (0x06421C9000000000, .time H (.k 32)),
    (0x060E1C0000000007, .waitop H 7),
    (0x060E1C0000000020, .waitop H 32),
    (0x07041CA760000000, .wrs H (.sp 14) (.imm 0)),
    (0x07041CA6A1200000, .wrs H (.sp 13) (.k 9))] = true := by decide

/-- Synchronisation words: words of the spec's examples, and words put together from its opcodes and fields (R57, R298-R412). -/
theorem test_words_sync : reads [
    (0x06301C0029000000, .clasp H (.sp 8)),
    (0x06341C0060600000, .claspw H (.imm 3)),
    (0x06281C0023C00000, .acq H (.k 30) false false),
    (0x06241C0022884000, .bind H (.k 20) (.k 8) false false false),
    (0x06321C0029200000, .claspa H (.sp 9)),
    (0x06201C000000000B, .fence H .rel .die),
    (0x06481C8460400000, .mbxr (L 0 0) (.k 8) (.imm 2)),
    (0x064A1C006048A000, .mbxw H (.imm 2) (.k 20)),
    (0x062A1C0023C00000, .rel H (.k 30) false),
    (0x062A1C0020A00002, .rel H (.k 5) true),
    (0x06261C0022800000, .unbind H (.k 20) false false),
    (0x06261C0000000008, .unbind H (.v 0) false true),
    (0x06221C0000000088, .xfence H .v .c .clu),
    (0x06221C0000000001, .xfence H .c .v .warp),
    (0x06221C0000000101, .xfence H .c .v .mod)] = true := by decide

/-- Task and program words: words of the spec's examples, and words put together from its opcodes and fields (R57, R298-R412). -/
theorem test_words_task : reads [
    (0x063A1C0000000000, .trig H),
    (0x06361C0020C88000, .fork (L 0 0) (.k 6) (.k 16) 0 false),
    (0x07141C0060E8402A, .larm H (.imm 7) (.k 8) 42),
    (0x06381C0060000008, .rdv (L 1 0) (.imm 0)),
    (0x76381C0060200000, .rdv ⟨.exit, .always, 0, 0⟩ (.imm 1)),
    (0x063E1C8A60A00010, .rget (L 2 0) (.k 20) (.imm 5)),
    (0x063C1C0060A84000, .rinit H (.imm 5) (.k 8)),
    (0x06401C0021000000, .tspawn H (.k 8))] = true := by decide

/-- Copies, tensors and glazes: words of the spec's examples, and words put together from its opcodes and fields (R57, R298-R412). -/
theorem test_words_copy : reads [
    (0x0681FC0021000028, .cpy (L 5 15) (.k 8) .g .g),
    (0x06801C0021800210, .cpy (L 2 0) (.k 12) .s .g),
    (0x06621C0060A00010, .gzdel (L 2 0) (.imm 5)),
    (0x06661C0021200019, .gzhold (L 3 0) (.k 9) true),
    (0x06681C8821000008, .gzpos (L 1 0) (.k 16) (.k 8)),
    (0x06601C8621000000, .gzreg (L 0 0) (.k 12) (.k 8)),
    (0x06641C8A21085100, .gzreq (L 0 0) (.k 20) (.k 8) (.k 10) .addc .i32 false false),
    (0x0665FC8C20800502, .gzreq (L 0 15) (.k 24) (.k 4) (.v 0) .zero .i32 false true),
    (0x06881C81E0B81000, .tidget H (.k 3) (.imm 5) (.imm 2)),
    (0x06861C0060288000, .tidset H (.imm 1) (.k 16)),
    (0x06861C0060A88000, .tidset H (.imm 5) (.k 16)),
    (0x06821C00209804D0, .tload (L 2 0) (.k 4) (.imm 0) true false 3 0),
    (0x06841C002040005C, .tstor (L 3 0) (.k 2) 1 2)] = true := by decide

/-- Matrix words: words of the spec's examples, and words put together from its opcodes and fields (R57, R298-R412). -/
theorem test_words_matrix : reads [
    (0x06C01C4020080F8B, .mmac (M 1 15) (.k 0) (.k 1) false 0 true 3),
    (0x06C41C0220482080, .mmd2 (M 0 1) 1 (.k 2) (.k 4) 0 false),
    (0x06C61C8220800780, .gcmb (M 2 0xf) 1 (.k 4) false),
    (0x06C61C4220800081, .gcmb (M 1 0x1) 1 (.k 4) true),
    (0x06C21C0220081080, .mmap (M 0 0x1) 1 (.k 0) (.k 2) 0 false 0),
    (0x06CA1C8020400788, .mqnt (M 2 0xf) (.k 2) true false 0),
    (0x06CC1C4021000780, .mscl (M 1 0xf) (.k 8)),
    (0x06C81C0000000780, .mzero (M 0 0xf))] = true := by decide

/-- System words: words of the spec's examples, and words put together from its opcodes and fields (R57, R298-R412). -/
theorem test_words_system : reads [
    (0x07021C0000000000, .tret H),
    (0x070A1C0000000000, .bkpt H),
    (0x07121C002108A002, .pctlReset H (.k 8) (.k 20)),
    (0x07001C0060A00000, .trap H (.imm 5)),
    (0x070C1C0029000000, .gend H (.sp 8)),
    (0x070E1C0027800000, .park H (.k 60)),
    (0x07101C9421000000, .dirty H (.k 40) (.k 8)),
    (0x07081C0021000010, .dtld (L 2 0) (.k 8)),
    (0x07121C002108A000, .pctlStop H (.k 8) (.k 20)),
    (0x07121C0023288001, .pctlResume H (.k 25) (.k 16)),
    (0x07061C0021085000, .tlbi H (.k 8) (.k 10) false),
    (0x07061C0000000001, .tlbi H (.v 0) (.v 0) true)] = true := by decide

/-- A paired word: words of the spec's examples, and words put together from its opcodes and fields (R57, R298-R412). -/
theorem test_words_paired : reads [
    (0x0820020502006020, .pairedWord .next ⟨.iadd, .always, .v 1, .v 10⟩ ⟨.iadd, .always, .v 3, .v 4⟩)] = true := by decide

/-! ## Ill-formed terms -/

/-- A reserved operand keeps bits that R29 reserves; 5 is v5. -/
theorem test_illformed_operand :
    ([.iaddV H (.rsv 5) (.v 1) (.v 2) false,
      .iaddV H (.v 5) (.rsv 0x302) (.v 2) false,
      .iaddV H (.v 5) (.v 1) (.rsv 0x100) false] : List Instr).all (fun i => !i.wf) = true := by decide

/-- Classes U, A and X have no guard above b3 (R59). -/
theorem test_illformed_guard :
    ([.iaddU ⟨.next, .on 4 false⟩ (.k 5) (.k 1) (.k 2) false,
      .iaddA ⟨.next, .on 5 true⟩ (.a 5) (.a 1) (.k 2),
      .nop ⟨.next, .on 6 false⟩,
      .cpy ⟨.next, .on 4 false, 0, 0⟩ (.k 8) .g .s,
      .mzero ⟨.next, .on 4 false, 0, 0, 0, 1⟩] : List Instr).all (fun i => !i.wf) = true := by decide

/-- A matrix word names a core (R224). -/
theorem test_illformed_core_mask :
    ([.mzero (M 0 0),
      .mmac (M 0 0) (.a 1) (.a 2) false 0 false 0] : List Instr).all (fun i => !i.wf) = true := by decide

/-- A paired word has short-page operations and two destinations (R58, R75). -/
theorem test_illformed_pair :
    ([.pairedWord .next ⟨.imad, .always, .v 1, .v 2⟩ ⟨.iadd, .always, .v 3, .v 4⟩,
      .pairedWord .next ⟨.iadd, .always, .v 1, .v 2⟩ ⟨.vote, .always, .v 3, .v 4⟩,
      .pairedWord .next ⟨.iadd, .always, .v 1, .v 2⟩ ⟨.isub, .always, .v 1, .v 4⟩] : List Instr).all (fun i => !i.wf) = true := by decide

/-- R341: an unsigned compare for equality. -/
theorem test_illformed_icmp :
    ([.icmpV H (.p 0) (.v 1) (.v 2) true .eq,
      .icmpU H (.b 0) (.k 1) (.k 2) true .ne] : List Instr).all (fun i => !i.wf) = true := by decide

/-- R339, R345: flags 4 to 7 in class U. -/
theorem test_illformed_flag :
    ([.iselU H (.k 4) (.k 1) (.k 2) false 4,
      .iadcU H (.k 4) (.k 1) (.k 2) true 7] : List Instr).all (fun i => !i.wf) = true := by decide

/-- R384, R368, R367: a range or U without SAT, SAT with HI. -/
theorem test_illformed_narrow :
    ([.shrrV H (.v 4) (.v 1) (.v 2) .rne false .s16 false,
      .padd2V H (.v 4) (.v 1) (.v 2) true false,
      .pmul2 H (.v 4) (.v 1) (.v 2) true false,
      .packV H (.v 4) (.v 1) (.v 2) true true] : List Instr).all (fun i => !i.wf) = true := by decide

/-- R311: a stochastic source, equal types, a stochastic rounding field, a stochastic type of another source, a B that is not 0. -/
theorem test_illformed_cvt :
    ([.cvtV H (.v 4) (.v 1) (.v 0) .rne false .f32 .f16sr,
      .cvtV H (.v 4) (.v 1) (.v 0) .rne false .f32 .f32,
      .cvtV H (.v 4) (.v 1) (.v 2) .rz false .f16sr .f32,
      .cvtV H (.v 4) (.v 1) (.v 2) .rne false .bf16sr .i32,
      .cvtV H (.v 4) (.v 1) (.v 2) .rne false .f16 .f32] : List Instr).all (fun i => !i.wf) = true := by decide

/-- R51: distance 0. -/
theorem test_illformed_distance :
    ([.vsld H (.v 4) (.v 1) (.v 2) false false 0] : List Instr).all (fun i => !i.wf) = true := by decide

/-- R39, R119, R120, R348, R386, R372: CHK without an affine source, space P in class U, PW outside class V and space G, a sign-extending store,
a prefetch of space S, a base outside space G. -/
theorem test_illformed_access :
    ([.ldV (L 0 0) (.v 4) (.v 1) (.k 2) .g .b32 false false true,
      .ldU (L 0 0) (.k 4) (.k 1) (.v 0) .p .b32 false false false,
      .ldV (L 0 0) (.v 4) (.v 1) (.v 0) .s .b32 true false false,
      .ldU (L 0 0) (.k 4) (.k 1) (.k 2) .g .b32 true false false,
      .stV (L 0 0) (.v 4) (.v 1) (.k 2) .g .s8 false false,
      .stU (L 0 0) (.k 4) (.k 1) (.v 0) .p .b32 false false,
      .pftV (L 0 0) (.v 1) (.v 0) .s .b32 false false,
      .ldV (L 0 0) (.v 4) (.v 1) (.k 2) .s .b32 false false false,
      .promV H (.v 4) (.v 1) true] : List Instr).all (fun i => !i.wf) = true := by decide

/-- R298, R299, R379: a base in space S, a wide FADD, RED of EXCH and CAS. -/
theorem test_illformed_atom :
    ([.atomV (L 0 0) (.v 4) (.v 1) (.k 2) true .add false false,
      .atomV (L 0 0) (.v 4) (.v 1) (.k 2) false .fadd true false,
      .redV (L 0 0) (.v 4) (.v 1) (.k 2) false .exch false false,
      .redU (L 0 0) (.k 4) (.k 1) (.k 2) false .cas false false] : List Instr).all (fun i => !i.wf) = true := by decide

/-- R126: narrow typed-buffer accesses. -/
theorem test_illformed_buffer :
    ([.bld (L 0 0) (.v 4) (.k 1) .w .u8,
      .bst (L 0 0) (.v 4) (.k 1) .x .s16] : List Instr).all (fun i => !i.wf) = true := by decide

/-- R71, R182: an empty wait; XFENCE to path N, and from a path to itself. -/
theorem test_illformed_order :
    ([.waitop H 0,
      .xfence H .v .n .die,
      .xfence H .m .m .die] : List Instr).all (fun i => !i.wf) = true := by decide

/-- R172, R391: CL with OS, ALL with a context or RS, ALL with an address. -/
theorem test_illformed_bindings :
    ([.bind H (.k 20) (.k 8) false true true,
      .unbind H (.k 20) false true,
      .unbind H (.v 0) true true,
      .tlbi H (.k 2) (.v 0) true,
      .tlbi H (.v 0) (.k 2) true] : List Instr).all (fun i => !i.wf) = true := by decide

/-- R153: AXPBY, SAT of floating elements, ZERO with a B. -/
theorem test_illformed_request :
    ([.gzreq (L 0 0) (.k 4) (.k 1) (.k 2) .axpby .i32 false false,
      .gzreq (L 0 0) (.k 4) (.k 1) (.k 2) .addc .f32 true false,
      .gzreq (L 0 0) (.k 4) (.k 1) (.k 2) .zero .i32 false false] : List Instr).all (fun i => !i.wf) = true := by decide

/-- R224: SRC without RM. -/
theorem test_illformed_source :
    ([.mmac (M 0 1) (.a 1) (.a 2) false 2 false 0] : List Instr).all (fun i => !i.wf) = true := by decide

/-- No word encodes an event. -/
theorem test_illformed_event :
    ([.warpRetire 3,
      .trapEntry 1,
      .moduleStandbyEntry] : List Instr).all (fun i => !i.wf) = true := by decide

/-! ## Worked examples of the spec -/

/-- R340: addition wraps; with .sat it clamps and sets QSAT. -/
theorem test_example_iadd :
    ofV (.iaddV H (.v 4) (.v 1) (.v 2) false) 0x7FFFFFF0 0x20 = (0x80000010, false) ∧
    ofV (.iaddV H (.v 4) (.v 1) (.v 2) true) 0x7FFFFFF0 0x20 = (0x7FFFFFFF, true) := by decide +kernel

/-- R338. -/
theorem test_example_iabs :
    ofV (.iabsV H (.v 4) (.v 1) false) 0x80000000 0 = (0x80000000, false) ∧
    ofU (.iabsU H (.k 4) (.k 1) true) 0x80000000 0 = (0x7FFFFFFF, true) := by decide +kernel

/-- R344. -/
theorem test_example_isat :
    ofV (.isatV H (.v 4) (.v 1) .u8) 0xFFFFFFFF 0 = (0, true) ∧
    ofU (.isatU H (.k 4) (.k 1) .s16) 0x7FFF 0 = (0x7FFF, false) := by decide +kernel

/-- R367. -/
theorem test_example_pack :
    ofV (.packV H (.v 4) (.v 1) (.v 2) false false) 0x00012345 0xFFFF8000 = (0x80002345, false) ∧
    ofV (.packV H (.v 4) (.v 1) (.v 2) true false) 0x00012345 0xFFFF8000 = (0x80007FFF, true) ∧
    ofU (.packU H (.k 4) (.k 1) (.k 2) false true) 0x00012345 0xFFFF8000 = (0xFFFF0001, false) := by decide +kernel

/-- R384: 0xC000 by 15 in the four modes, and a range. -/
theorem test_example_shrr :
    ofV (.shrrV H (.v 4) (.v 1) (.v 2) .rne false .s32 false) 0xC000 15 = (2, false) ∧
    ofV (.shrrV H (.v 4) (.v 1) (.v 2) .rz false .s32 false) 0xC000 15 = (1, false) ∧
    ofV (.shrrV H (.v 4) (.v 1) (.v 2) .rdn false .s32 false) 0xC000 15 = (1, false) ∧
    ofU (.shrrU H (.k 4) (.k 1) (.k 2) .rne true .s16 false) 0x7FFFFFFF 15 = (0x7FFF, true) := by decide +kernel

/-- R337: the low half overflows only when rounded up. -/
theorem test_example_hadd2 :
    ofV (.hadd2V H (.v 4) (.v 1) (.v 2) .rne false) 0x3C007BFF 0x3C003C00 = (0x40007BFF, false) ∧
    ofU (.hadd2U H (.k 4) (.k 1) (.k 2) .rup false) 0x3C007BFF 0x3C003C00 = (0x40007C00, false) := by decide +kernel

/-- R213: the first, second and last grants of a counter of 100 items with m = 4 and d = 8. -/
theorem test_example_rget :
    let r0 : RangeCtr := { next := 0, rem := 100, m := 4, d := 8 }
    (r0.serve.1, r0.serve.2.next, r0.serve.2.serve.1) = (13, 13, 11) ∧ ({ r0 with next := 97, rem := 3 } : RangeCtr).serve.1 = 3 := by
  decide

/-! ## States that meet the hypotheses of the statements -/

/-- A state whose fetch answers a word. -/
theorem witness_LittleEndian : (match (at_ id).fetch with
    | .ok _ => true
    | .error _ => false) = true := by decide +kernel

theorem witness_IntegerAndPacked :
    let s := at_ regs
    let g : Guard := .on 0 false
    (∀ r ∈ integerRows H (.v 3) (.v 1) (.v 2) true true true .lt .s8 .rne .s16 0 0, s.passes .next ((needV (.v 3) (r.srcs.map plain) r.noBit).guarded g) true) ∧
    (∀ r ∈ integerRows H (.k 3) (.k 2) (.imm 5) true true true .lt .s8 .rne .s16 0 0, s.passes .next ((needU (.k 3) (r.srcs.map plain) r.noBit).guarded g) true) ∧
    (∀ r ∈ integerRows H (.b 3) (.v 1) (.v 2) true true true .lt .s8 .rne .s16 0 0,
      s.agent.firstFault s.mayPriv ((needV (.b 3) (r.srcs.map plain) r.noBit).guarded g) true = some 0x02) ∧
    (∀ r ∈ packedRows H (.v 7) (.v 1) (.k 63) false true false, s.passes .next ((needV (.v 7) (r.srcs.map plain) r.noBit).guarded g) true) ∧
    (∀ r ∈ packedRows H (.k 63) (.k 1) (.sp 0) false true false, s.passes .next ((needU (.k 63) (r.srcs.map plain) r.noBit).guarded g) true) ∧
    (∀ r ∈ dotRows H (.v 0) (.v 1) (.p 7) false true false true, s.passes .next ((needV (.v 0) (r.srcs.map plain) r.noBit).guarded g) true) := by
  decide +kernel

theorem witness_Float :
    let s := at_ regs
    (∀ r ∈ floatRows H (.v 0) (.v 1) (.k 63) .rdn true true .nan, s.passes .next ((needV (.v 0) (r.srcs.map plain) r.noBit).guarded .always) true) ∧
    (∀ r ∈ floatRows H (.k 0) (.k 2) (.imm 5) .rup false false .eq, s.passes .next ((needU (.k 0) (r.srcs.map plain) r.noBit).guarded .always) true) ∧
    (∀ r ∈ floatRows H (.v 8) (.v 1) (.v 2) .rup false false .eq,
      s.agent.firstFault s.mayPriv ((needV (.v 8) (r.srcs.map plain) r.noBit).guarded .always) true = some 0x0E) := by
  decide +kernel

/-- Numbers that are a code, tie between two, lie above a tie, and overflow, in E5M2 (R98). -/
theorem witness_Float_rounding :
    Fmt.e5m2 ∈ formats ∧ 0x40 < Fmt.e5m2.most ∧ magOf .e5m2 0x40 = |2| ∧ magOf .e5m2 0x41 = |5 / 2| ∧
    magOf .e5m2 0x40 + magOf .e5m2 (0x40 + 1) = 2 * |9 / 4| ∧ magOf .e5m2 0x40 + magOf .e5m2 (0x40 + 1) < 2 * |(-19) / 8| ∧
    Fmt.e5m2.most = 0x7B ∧ magOf .e5m2 0x7B ≤ |60000| ∧ |60000| < magOf .e5m2 (0x7B + 1) ∧ magOf .e5m2 (0x7B + 1) ≤ |65536| ∧
    magOf .fp32 1 = 1 / 2 ^ 149 ∧ numOf .fp32 0xBF800000 = -1 ∧ rounded .rne (5 / 2) 2 ∧ rounded .rz (-5 / 2) (-2) := by
  refine ⟨by decide, by decide, ?_, ?_, ?_, ?_, by decide, ?_, ?_, ?_, ?_, ?_, ?_, ?_⟩ <;>
    norm_num [magOf, numOf, Fmt.e5m2, Fmt.fp32, Fmt.bias, rounded, abs_of_pos, abs_of_neg, Int.ceil_eq_iff]

/-- Patterns of every kind (R98): NaNs, infinities, zeros, a subnormal and normal ones. -/
theorem witness_Float_patterns :
    let f : Fmt := .fp32
    f.isNan 0x7F800001 = true ∧ f.isNan 0xFFC00000 = true ∧ f.val 0x7F800000 = .inf false ∧ f.val 0xFF800000 = .inf true ∧
    f.val 0 = .fin false 0 (-149) ∧ f.val 0x80000000 = .fin true 0 (-149) ∧ f.val 1 = .fin false 1 (-149) ∧
    f.val 0x3F800000 = .fin false 0x800000 (-23) ∧ Fmt.e4m3.isNan 0x7F = true ∧ Fmt.e4m3.isNan 0x7E = false ∧
    ({ pc := 0x10000, t := 5, v := true } : Origin).t < 32 := by
  decide +kernel

/-- BF16 operands of every case of a restored element (R144, R145): a NaN, zero times infinity, opposed infinities, an infinite product with
a finite term, zeros of one sign and of both, a finite sum, and the halves below and above under CLMP. -/
theorem witness_RowArithmetic :
    let f : Fmt := .bf16
    f ∈ [Fmt.fp32, Fmt.bf16] ∧ f.isNan 0x7FC1 = true ∧ f.val 0x7F80 = .inf false ∧ f.val 0xFF80 = .inf true ∧ f.val 0x8000 = .fin true 0 (-133) ∧
    f.val 0x3F80 = .fin false 0x80 (-7) ∧ f.bias.toNat * 2 ^ f.fw = 0x3F80 ∧ f.fw ≠ 23 ∧ 0x4F < 0x50 ∧
    (∀ z ∈ [0x7FC1, 0x7F80, 0xFF80, 0x8000], z < 2 ^ (f.ew + f.fw + 1)) ∧
    floatOp f .fmac 7 0x7F80 0 0x8000 0x3F80 = 0x7FC0 ∧ floatOp f .addc 7 0x8000 0 0x8000 0 = 0x8000 ∧
    floatOp f .clmp 7 0x8000 0 0 0x3F80 = 0 ∧ (restoredInt 16 .addc true 0x7FFF 0 1 0).2 = true := by
  decide +kernel

theorem witness_ConversionAndRandom :
    let s := at_ regs
    good s ((needV (.p 1) [plain (.v 1)]).guarded .always) ∧ good s (needU (.k 0) [plain (.k 1), plain (.imm 3)]) ∧
    stops s (needU (.v 0) [plain (.k 1)]) 0x02 ∧
    good s { needV (.v 0) [plain (.v 0), { o := .a 2, aff := true }, { o := .k 4, n := 2, al := 2 }] with bad2 := false } ∧
    s.agent.oSet (.a 2) = true ∧ s.agent.execSet .always ≠ 0 ∧
    stops s { needV (.v 0) [plain (.v 0), { o := .a 2, aff := true }, { o := .k 5, n := 2, al := 2 }] with bad2 := false } 0x0E ∧
    good s (needU (.k 0) [plain (.k 0), plain (.k 1), { o := .k 4, n := 2, al := 2 }]) := by
  decide +kernel

theorem witness_CarryAndSelect :
    let s := at_ regs
    good s { needV (.v 3) [plain (.v 1), plain (.v 2)] true with reads := [.p 7] } ∧ stops s (needV (.p 3) [plain (.v 1)] true) 0x0E ∧
    good s (needU (.k 3) [plain (.k 1), plain (.k 2)] true) ∧ good s (needU (.b 3) [plain (.k 1), plain (.imm 2)]) := by
  decide +kernel

theorem witness_AffineWords :
    let s := at_ regs
    good s (needA (.a 31) [shaped (.a 1), shaped (.imm 2)] false) ∧ stops s (needA (.a 0) [shaped (.a 1), shaped (.a 2)] true) 0x02 ∧
    good s { needU (.k 3) [shaped (.a 1)] false false with bad2 := false } ∧
    (let n := { needV (.v 3) [shaped (.a 2)] true with bad1 := false, bad2 := false }
     s.passes .next n true ∧ s.agent.oSet (.a 2) = true ∧ s.agent.execSet .always ≠ 0) ∧
    (let n := { needV (.v 3) [shaped (.a 1)] true with bad1 := false, bad2 := false }
     s.passes .next n true ∧ ¬(s.agent.oSet (.a 1) = true)) := by
  decide +kernel

theorem witness_CrossThread :
    let s := at_ regs
    let t := at_ (fun a => { regs a with exm := 0xFFFFFFFE, live := 0xFFFFFFFE })
    good s { needV (.v 3) [plain (.v 1), plain (.k 2)] with bad1 := false, badE := false } ∧
    stops s { needV (.v 3) [plain (.v 1), plain (.k 2)] with bad1 := true } 0x01 ∧
    good s { needV (.p 3) [plain (.v 1), plain (.k 2)] with badE := false } ∧
    good s { needV (.v 3) [plain (.k 1), plain (.imm 31)] with badE := false } ∧
    (let n := { needU (.k 3) [{ o := .v 1, vary := true, pred := true }, plain (.imm 0)] false false with badE := false }
     s.passes .next n true ∧ mbit (s.agent.poisonOf (.v 1)) 0) ∧
    (let n := { needU (.k 3) [{ o := .v 1, vary := true, pred := true }, plain (.imm 1)] false false with badE := false }
     s.passes .next n true ∧ ¬mbit (s.agent.poisonOf (.v 1)) 1) ∧
    (let n := { needU (.k 3) [{ o := .v 1, vary := true }, plain (.imm 0)] false false with badE := false }
     s.passes .next n true ∧ s.agent.poisonOf (.v 1) &&& s.agent.exm ≠ 0) ∧
    (let n := { needU (.k 3) [{ o := .v 1, vary := true }, plain (.imm 0)] false false with badE := false }
     t.passes .next n true ∧ t.agent.poisonOf (.v 1) &&& t.agent.exm = 0) ∧
    good s { needU (.k 3) [{ o := .p 0, pred := true }] false false with badE := false } ∧
    stops s { needU (.b 3) [{ o := .p 0, pred := true }] false false with badE := true } 0x0E := by
  decide +kernel

theorem witness_PairedWords :
    let s := at_ regs
    let x : PSlot := ⟨.iadd, .always, .v 1, .v 2⟩
    let y : PSlot := ⟨.iadd, .on0, .k 1, .imm 2⟩
    let z : PSlot := ⟨.dot4, .always, .v 0, .v 1⟩
    let w : PSlot := ⟨.mov, .always, .v 8, .v 1⟩
    let go (x y : PSlot) : Prop := s.pairCause x y = none ∧ s.frameFault ((slotTyped x).need.srcs ++ (slotTyped y).need.srcs) = none ∧
      s.agent.nasBad .next s.npc = none
    s.pairCause x w = some 0x0E ∧ s.pairCause x x = some 0x01 ∧ go x y ∧ x.op.sop.isSome ∧ y.op.sop.isSome ∧ go x z := by
  decide +kernel

theorem witness_Operands :
    (31 < 32) ∧ (at_ regs).lane .int (.v 1) 31 = 5 ∧ mbit (at_ regs).agent.exm 31 = true ∧
    mbit ((at_ regs).agent.execSet (.on 0 false)) 4 = false := by decide +kernel

theorem witness_NextAddress :
    let s := at_ id
    let full : Agent := { s.agent with link := List.replicate 8 0 }
    let lp : Agent := { s.agent with loops := [⟨0, 8⟩, ⟨0x10000, 0x10000⟩], lc := [(1, 1)] }
    s.agent.link.length < 8 ∧ 8 ≤ full.link.length ∧ full.link = 0 :: List.replicate 7 0 ∧ s.agent.link = [] ∧
    lp.loops = [⟨0, 8⟩] ++ [⟨0x10000, 0x10000⟩] ∧ lp.pc = 0x10000 ∧ aget lp.lc 0 1 - 1 = 0 ∧
    s.agent.loops.getLast? = none ∧ (s.agent.kind == .seq) = false ∧
    ({ s.agent with kind := .seq }.kind == .seq) = true := by
  decide +kernel

theorem witness_MaskWords :
    let s := at_ regs
    let t := at_ (fun a => { a with msk := List.replicate 16 ⟨1, 1⟩ })
    good s (needX true) ∧ good s (needMask (.p 0)) ∧ good s needX ∧ stops s (needMask (.v 1)) 0x0E ∧
    s.agent.msk.length < 16 ∧ s.agent.msk.length = 0 ∧ s.agent.msk.length < 0 + 1 ∧
    good t (needMask (.p 0)) ∧ 16 ≤ t.agent.msk.length ∧ ¬t.agent.msk.length = 0 ∧ ¬t.agent.msk.length < 15 + 1 := by
  decide +kernel

theorem witness_JumpAndLoop :
    let s := at_ regs
    let t := at_ (fun a => { a with loops := [⟨0, 0x10100⟩] })
    let n : Need := { needX true [plain (.imm 1)] with badE := false }
    let z : Need := { needX true [plain (.k 0)] with badE := false }
    good s (needX true) ∧ stops s { needX true [plain (.imm 0xFF)] with badE := true } 0x0E ∧
    (s.agent.firstFault s.mayPriv n true = none ∧ s.frameFault n.srcs = none ∧ s.agent.loops = [] ∧ s.uval .int (.imm 1) ≠ 0) ∧
    (s.agent.firstFault s.mayPriv z true = none ∧ s.uval .int (.k 0) = 0 ∧ s.agent.nasBad .next (s.agent.pc + 16) = none) ∧
    (t.agent.firstFault t.mayPriv n true = none ∧ t.agent.loops.length ≤ 3 ∧ t.agent.loops.getLast? = some ⟨0, 0x10100⟩ ∧
      ¬(t.agent.pc + 8 * (31 + 1)) % 2 ^ 48 < 0x10100) := by
  decide +kernel

/-- A word in flight in slot 2 that no thread has acted for. -/
def flying (i : Instr) (d : List Reg) : Inflight := { (at_ id).inflight0 2 15 i with dests := d }

/-- A load in flight in slot 2. -/
def ldFly : Inflight :=
  { flying (.ldV (L 2 15) (.v 6) (.v 1) (.k 8) .g .b32 false false false) [.v 6] with
    base := 0x20000, av := (List.range 32).map (fun t => BitVec.ofNat 32 (4 * t)), e := fullMask }

/-- A warp with a word in flight in slot 2. -/
def flew (f : Inflight) (a : Agent) : Agent := { regs a with inflight := [f], cbm := [(2, 0)] }

theorem witness_WaitsAndTime :
    let s := at_ regs
    let t := at_ (flew ldFly)
    good t (needX true) ∧ (inMask 4 2 = true ∧ t.agent.cbmOf 2 ≠ fullMask) ∧ t.mirrorFlt (inMask 4) = none ∧
    good s (needX true) ∧ (∀ i : Fin 8, ¬(inMask 0xFF i.val = true ∧ s.agent.cbmOf i.val ≠ fullMask)) ∧
    (good t needX ∧ ∀ f ∈ t.agent.inflight, (!f.finished && onPath .c f.instr) = false ∨ 8 ≤ f.slot) ∧
    (good s needX ∧ ∀ x ∈ s.mirrors, x.ag ≠ s.agent.id ∨ x.copy ≠ none) ∧
    good s { needX with dst := some (.k 62), dn := 2, dal := 2 } ∧ stops s { needX with dst := some (.k 61), dn := 2, dal := 2 } 0x0E ∧
    (good s (needX false [{ o := .k 0, n := 2, al := 2 }]) ∧ s.agent.pairOf (.k 0) ≤ s.time) ∧ s.time < s.agent.pairOf (.k 20) ∧
    (good s (needX false [{ o := .k 20, n := 2, al := 2 }, plain (.imm 127)]) ∧ ¬127 < (s.uval .int (.imm 127)).toNat) ∧
    127 < (s.uval .int (.imm 128)).toNat := by
  decide +kernel

theorem witness_WaitsAndTime_holds :
    let t := at_ (flew ldFly)
    let s := at_ regs
    let m (bad : Bool) : Mirror := { id := 9, ag := 1, va := 0x20000, module := 0, buddy := 0, bytes := [], copy := none, failed := bad }
    let u (bad : Bool) : State := { s with mirrors := [m bad] }
    (good t needX ∧ t.agent.guardU .always = true ∧ t.mirrorFlt (inMask 4) = none ∧ t.mirrorBad = none ∧ onPath .v ldFly.instr = true ∧
      ldFly.finished = false ∧ fenced .ar ldFly.instr = true ∧ ∀ i : Fin 8, (4#8).getLsbD i.val = true ↔ ∃ f ∈ t.agent.inflight, f.slot = i.val) ∧
    (good (u false) needX ∧ (u false).mirrorBad = none ∧ (u false).agent.inflight = [] ∧ wideScope .mod = true ∧
      ∃ x ∈ (u false).mirrors, x.ag = (u false).agent.id ∧ x.copy = none) ∧
    (good (u true) needX ∧ (u true).mirrorBad.isSome = true) := by
  decide +kernel

/-- The memory words of one class pass their checks. -/
def memGood (s : State) (unif : Bool) (l : List MemRow) : Bool :=
  l.all (fun r => match memOp r.i with
    | none => false
    | some m => m.unif != unif || decide (s.passes .next ((m.need r.d r.a r.b).guarded .always) true))

theorem witness_MemoryAndPermuteIssue :
    let s := at_ regs
    let t := at_ (flew ldFly)
    memGood s false (memoryRows (L 2 0) (.v 6) (.a 2) (.k 8) .g .b32 .add .x false false true false false) = true ∧
    memGood s true (memoryRows (L 2 0) (.k 6) (.imm 8) (.k 8) .s .b64 .add .x false false false true true) = true ∧
    memGood s false (memoryRows (L 2 0) (.k 6) (.v 1) (.k 8) .g .b32 .add .x false false false false false) = false ∧
    s.agent.oSet (.a 2) = true ∧ s.agent.execSet .always ≠ 0 ∧ s.agent.cbmOf 2 = fullMask ∧
    t.agent.cbmOf 2 ≠ fullMask ∧ t.mirrorFlt (fun i => i == 2) = none ∧ t.agent.guardU .always = true ∧
    good s ((vpermNeed (.v 3) (.v 1) (.v 2)).guarded .always) := by
  decide +kernel

theorem witness_ThreadAddress :
    let ag := { (at_ regs).agent with phwm := 2048, pw := 0 }
    let m : MemOp := { MemOp.base with load := true }
    let va (base : Nat) (off : Word) : Nat := (((base : Int) + off.toInt) % 2 ^ 64).toNat
    (m.buf = none ∧ m.spc = .g ∧ 2 ^ 56 ≤ va (2 ^ 56) 0 ∧ va (2 ^ 56) (-4) < 2 ^ 56 ∧ m.pft = false ∧ va 0 2 % tySize m.ty ≠ 0 ∧
      va 0 4 % tySize m.ty = 0) ∧
    (let m := { m with spc := .p }
     m.buf = none ∧ m.spc = .p ∧ m.pft = false ∧ 2046 % tySize m.ty ≠ 0 ∧ 2044 % tySize m.ty = 0 ∧ 2044 + 4 ≤ 2048 * 2 ^ ag.pw ∧
       2044 + 4 ≤ ag.phwm.toNat ∧ 2048 * 2 ^ ag.pw < 2048 + 4) ∧
    (let ag := { ag with pw := 1 }
     2048 + 4 ≤ 2048 * 2 ^ ag.pw ∧ ag.phwm.toNat < 2048 + 4) := by
  decide +kernel

/-- The page of `withFetchWord` that holds a low address. -/
def page (pa : Nat) : Xl := { pa := pa, leaf := { desc := 31, level := 2, at_ := 0x3000 }, place := .stack 0 }

/-- A word in flight in slot 2 with its operands. -/
def fly (i : Instr) (d : List Reg) : Inflight :=
  { flying i d with base := 0x20000, av := (List.range 32).map (fun t => BitVec.ofNat 32 (4 * t)), dv := [List.replicate 32 9, List.replicate 32 8] }

/-- The fields of `Acts` at the warp of `at_`. -/
abbrev acts (s : State) (t : Nat) (f : Inflight) (m : MemOp) : Prop :=
  s.agentOf 1 = some s.agent ∧ s.agent.inSlot 2 = some f ∧ memOp f.instr = some m ∧ mbit (s.agent.cbmOf 2) t = false ∧
    mbit f.fmask t = false ∧ t < 32 ∧ f.dests.Nodup

theorem acts_Acts {s t f m} (h : acts s t f m) : Acts s 1 2 t s.agent f m :=
  ⟨h.1, h.2.1, h.2.2.1, h.2.2.2.1, h.2.2.2.2.1, h.2.2.2.2.2.1, h.2.2.2.2.2.2⟩

/-- The target of thread `t` of a word of that warp. -/
abbrev targets (s : State) (m : MemOp) (f : Inflight) (t : Nat) (tg : Target) (a : Nat) : Prop :=
  let r := s.agent.target m f.base.toNat (f.av.getD t 0) t
  gives r.1 tg = true ∧ r.2 = a

/-- The reach of the warp of `at_` to a low address. -/
abbrev reaches (s : State) (acc : Acc) (va n : Nat) : Prop :=
  gives (s.translate s.agent.ctx s.agent.die va acc) (page va) = true ∧ (page va).leaf.swept = false ∧ va % n = 0

theorem reaches_reachable {s acc va n} (h : reaches s acc va n) : s.reachable s.agent acc (.glob va false) n (page va) :=
  ⟨(gives_iff _ _).1 h.1, by simp [page], fun d _ hs => absurd (h.2.1.symm.trans hs) (by simp)⟩

theorem witness_ThreadAccess_loads :
    let f := fly (.ldV (L 2 15) (.v 6) (.v 1) (.k 8) .g .b32 false false false) [.v 6]
    let u := fly (.ldU (L 2 15) (.k 6) (.v 1) (.k 8) .g .b64 false false false) [.k 6, .k 7]
    let m : MemOp := { MemOp.base with load := true }
    let s := at_ (flew f)
    let t : State := { at_ (flew u) with memPoison := [0x1000] }
    (acts s 31 f m ∧ s.isDet s.agent = false ∧ mbit f.pa 31 = false ∧
      targets s m f 31 (.glob 0x2007C false) 0x2007C ∧ reaches s .read 0x2007C 4 ∧ m.unif = false ∧ f.got = []) ∧
    (acts t 0 u { m with ty := .b64, unif := true } ∧ t.isDet t.agent = false ∧ mbit u.pa 0 = false ∧
      targets t { m with ty := .b64, unif := true } u 0 (.glob 0x20000 false) 0x20000 ∧
      reaches t .read 0x20000 8 ∧ t.agent.kind = .warp ∧ t.memPoison = [0x1000] ∧ 0x20000 < 32 * 0x1000 + 32 ∧ 32 * 0x1000 < 0x20000 + 8) := by
  decide +kernel

theorem witness_ThreadAccess_stores :
    let f := fly (.stV (L 2 15) (.v 6) (.v 1) (.k 8) .g .b32 false false) []
    let b := { fly (.bst (L 2 15) (.v 6) (.v 1) .x .b32) [] with av := [1020] }
    let w := { fly (.stV (L 2 15) (.v 6) (.v 1) (.v 0) .s .b32 false false) [] with av := [1020], pd := 1 }
    let s := at_ (flew f)
    let bf : Bufs := { Bufs.empty with xsize := 1024 }
    let t : State := { at_ (flew b) with bufs := [bf] }
    let v : State := { at_ (flew w) with scratches := [(0, ⟨1024, [], []⟩)] }
    let m : MemOp := { MemOp.base with store := true }
    (acts s 31 f m ∧ s.isDet s.agent = false ∧ mbit f.pa 31 = false ∧
      targets s m f 31 (.glob 0x2007C false) 0x2007C ∧ reaches s .write 0x2007C 4 ∧ f.part = 0 ∧ f.page = none) ∧
    (acts t 0 b { m with buf := some .x } ∧ t.isDet t.agent = false ∧
      targets t { m with buf := some .x } b 0 (.buf .x 1020) 1020 ∧
      1020 + 4 ≤ (t.bufsOf t.agent.launch t.agent.die t.agent.core).size .x) ∧
    (acts v 0 w { m with spc := .s } ∧ v.isDet v.agent = false ∧
      targets v { m with spc := .s } w 0 (.scr 1020) 1020 ∧
      1020 + 4 ≤ (v.scratch v.agent.scratch).size) := by
  decide +kernel

/-- Eight threads whose stores together cover a codeword. -/
theorem witness_ThreadAccess_covered :
    let f := fly (.stV (L 2 15) (.v 6) (.v 1) (.k 8) .g .b32 false false) []
    let s := (at_ (flew f)).me (fun a => { a with cbm := [(2, 0x7F)] })
    let m : MemOp := { MemOp.base with store := true }
    acts s 7 f m ∧ (∀ t : Fin 8, (f.e.getLsbD t.val = true ∧ (t.val = 7 ∨ mbit (s.agent.cbmOf 2) t.val = true)) ∧ mbit f.pa t.val = false ∧
      mbit f.pd t.val = false ∧ targets s m f t.val (.glob (0x20000 + 4 * t.val) false) (0x20000 + 4 * t.val)) := by
  decide +kernel

/-- A store of four elements of which one has been written. -/
theorem witness_ThreadAccess_parts :
    let f : Inflight := { fly (.stV (L 2 15) (.v 6) (.v 1) (.k 8) .g .b128 false false) [] with av := [16], part := 2 }
    let m : MemOp := { MemOp.base with store := true, ty := .b128 }
    let s := at_ (flew f)
    let x : Xl := { page 0x20010 with leaf := { (page 0).leaf with desc := 15 } }
    let t : State := { s with mem := Memory.write s.mem 0x3000 (leBytes 8 0x0F) }
    acts t 0 f m ∧ t.isDet t.agent = false ∧ mbit f.pa 0 = false ∧ targets t m f 0 (.glob 0x20010 false) 0x20010 ∧
    gives (t.translate t.agent.ctx t.agent.die 0x20010 .write) x = true ∧ x.place ≠ .remote ∧ x.leaf.swept = false ∧ bit x.leaf.desc 4 = false ∧
    f.page = none ∧ 3 < m.elements ∧ popcount 4 f.part.toNat < 3 ∧ f.part.getLsbD 0 = false := by
  decide +kernel

/-- A load of two elements of the X-buffer of which one has been read. -/
theorem witness_ThreadAccess_reads :
    let f : Inflight := { fly (.bld (L 2 15) (.v 6) (.v 1) .x .b64) [.v 6, .v 7] with av := [1016], part := 2, got := [(1, [1, 2, 3, 4], false)] }
    let m : MemOp := { MemOp.base with load := true, buf := some .x, ty := .b64 }
    let bf : Bufs := { Bufs.empty with xsize := 1024 }
    let s : State := { at_ (flew f) with bufs := [bf] }
    acts s 0 f m ∧ s.isDet s.agent = false ∧ mbit f.pa 0 = false ∧ targets s m f 0 (.buf .x 1016) 1016 ∧
    1016 + 8 ≤ (s.bufsOf s.agent.launch s.agent.die s.agent.core).size .x ∧
    popcount 4 f.part.toNat < 2 ∧ 2 ≤ m.elements ∧ f.part.getLsbD 0 = false ∧ ∀ e ∈ f.got, e.2.1.length = 4 := by
  decide +kernel

theorem witness_ThreadAccess_atomics :
    let f := fly (.atomV (L 2 15) (.v 6) (.v 1) (.k 8) false .add false false) [.v 6]
    let c := fly (.atomU (L 2 15) (.k 6) (.v 1) (.k 8) false .cas false false) [.k 6]
    let m : MemOp := { MemOp.base with atom := some .add }
    let n : MemOp := { MemOp.base with atom := some .cas, unif := true }
    let s := at_ (flew f)
    let t := at_ (flew c)
    (acts s 31 f m ∧ m.buf = none ∧ m.pft = false ∧ s.isDet s.agent = false ∧ m.ty = .b32 ∧ mbit f.pa 31 = false ∧
      targets s m f 31 (.glob 0x2007C false) 0x2007C ∧ reaches s .both 0x2007C 4 ∧
      s.memPoison = [] ∧ (atomicNew (n := 32) .add ⟨true, 31, f.pc⟩ 0 (f.data 0 31) (f.data 1 31)).isSome) ∧
    (acts t 0 c n ∧ t.isDet t.agent = false ∧ mbit c.pa 0 = false ∧
      targets t n c 0 (.glob 0x20000 false) 0x20000 ∧ reaches t .both 0x20000 4 ∧
      atomicNew (n := 32) .cas ⟨false, 0, c.pc⟩ 0 (c.data 0 0) (c.data 1 0) = none ∧ n.unif = true ∧ n.red = false ∧ t.agent.kind = .warp) ∧
    (let p : State := { t with memPoison := [0x1000] }
     acts p 0 c n ∧ reaches p .both 0x20000 4 ∧ 0x20000 < 32 * 0x1000 + 32 ∧ 32 * 0x1000 < 0x20000 + 4) := by
  decide +kernel

theorem witness_ThreadStops :
    let f := { fly (.ldV (L 2 15) (.v 6) (.v 1) (.k 8) .g .b32 false false false) [.v 6] with pa := 1, av := [0, 2, 0x7FFFFFFC] }
    let g := fly (.pftV (L 2 15) (.v 1) (.k 8) .g .b32 false false) []
    let m : MemOp := { MemOp.base with load := true }
    let s := at_ (flew f)
    let t := at_ (flew g)
    (acts s 0 f m ∧ mbit f.pa 0 = true) ∧
    (acts t 31 g { MemOp.base with pft := true } ∧ mbit g.pa 31 = false) ∧
    (acts s 1 f m ∧ mbit f.pa 1 = false ∧ s.agent.kind = .warp ∧ fails (s.agent.target m f.base.toNat (f.av.getD 1 0) 1).1 0x09 = true) ∧
    (acts s 2 f m ∧ mbit f.pa 2 = false ∧ s.isDet s.agent = false ∧
      targets s m f 2 (.glob 0x8001FFFC false) 0x8001FFFC ∧
      f.page = none ∧ f.got = [] ∧ f.part = 0 ∧ fails (s.translate s.agent.ctx s.agent.die 0x8001FFFC .read) 0x07 = true) := by
  decide +kernel

/-- Accesses out of the allocation of scratch memory and of a typed buffer. -/
theorem witness_ThreadStops_outside :
    let f := { fly (.ldV (L 2 15) (.v 6) (.v 1) (.v 0) .s .b32 false false false) [.v 6] with av := [1024] }
    let b := { fly (.bld (L 2 15) (.v 6) (.v 1) .x .b32) [.v 6] with av := [1024] }
    let m : MemOp := { MemOp.base with load := true }
    let s : State := { at_ (flew f) with scratches := [(0, ⟨1024, [], []⟩)] }
    let t : State := { at_ (flew b) with bufs := [{ Bufs.empty with xsize := 1024 }] }
    (acts s 0 f { m with spc := .s } ∧ targets s { m with spc := .s } f 0 (.scr 1024) 1024 ∧ s.agent.kind = .warp ∧ s.isDet s.agent = false ∧
      (s.scratch s.agent.scratch).size < 1024 + tySize .b32) ∧
    (acts t 0 b { m with buf := some .x } ∧ targets t { m with buf := some .x } b 0 (.buf .x 1024) 1024 ∧ b.part = 0 ∧ b.got = [] ∧
      (t.bufsOf t.agent.launch t.agent.die t.agent.core).size .x < 1024 + tySize .b32) := by
  decide +kernel

theorem witness_ThreadStops_waits :
    let f := { fly (.ldV (L 2 15) (.v 6) (.v 1) (.k 8) .g .b32 false false false) [.v 6] with av := [0x7FFFFFFC] }
    let b := { fly (.bld (L 2 15) (.v 6) (.v 1) .w .b32) [.v 6] with av := [2], pa := 1 }
    let m : MemOp := { MemOp.base with load := true }
    let s := at_ (flew f)
    let u : State := { s with dies := [(0, { s.die 0 with faults := (List.range 512).map (fun i => (1, i + 50000)) })] }
    let t := at_ (flew b)
    (acts u 0 f m ∧ targets u m f 0 (.glob 0x8001FFFC false) 0x8001FFFC ∧ fails (u.translate 1 0 0x8001FFFC .read) 0x07 = true ∧
      u.pageWait 0 1 0x8001FFFC = true ∧ s.pageWait 0 1 0x8001FFFC = false) ∧
    (acts t 0 b { m with buf := some .w } ∧ t.agent.kind = .warp) := by
  decide +kernel

theorem witness_SlotCompletion :
    let f := fly (.ldV (L 2 15) (.v 6) (.v 1) (.k 8) .g .b32 false false false) [.v 6]
    let g : Inflight := { f with pwNo := 1 }
    let p : Inflight := { flying (.vperm (L 2 0) (.v 6) (.v 1) (.v 2)) [.v 6] with la := 0, av := [1], bv := [0] }
    let s := at_ (flew f)
    let t := at_ (flew g)
    let u := at_ (flew p)
    (s.agentOf 1 = some s.agent ∧ (s.ctx s.agent.ctx).resident = true ∧ s.agent.inSlot 2 = some f ∧ (memOp f.instr).isSome ∧
      s.headV s.agent 2 = true ∧ f.pwNo = 0 ∧ (s.die s.agent.die).runs = true) ∧ (State.reset.die 0).runs = false ∧
    (t.agent.inSlot 2 = some g ∧ (memOp g.instr).isSome ∧ ¬(g.pwNo = 0 ∨ g.alone = true)) ∧
    (u.agent.inSlot 2 = some p ∧ p.slot = 2 ∧ p.dests = regRun (.v 6) 1 ∧ u.agent.cbmOf 2 = ~~~p.e ∧ p.la ≠ 15 ∧ u.agent.hold = .none ∧
      p.pwNo = 0 ∧ p.detached = false ∧ u.agent.inflight = [p]) := by
  decide +kernel

/-- A launch of two warps with one group. -/
def launch0 : Launch :=
  { record := 0x40, ctx := 1, vf := 0, code := 0x10000, args := 0x9000, prio := 3, queuePrio := 3, spread := false, nx := 2, ny := 1, nz := 1
    det := false, pre := true, pair := false, qn := 0, vn := 8, pw := 0, priv := 0, scr := 0, wneed := 0, xneed := 0, cneed := 0, scnt := 0
    succ := 0, cword := 0x9100, groups := [{ fd := true, pair := true, cor := false, drain := false, gang := true, clasp := 0x20100, members := [0, 1] }]
    admitted := [0, 1], exited := [], triggered := [], released := false, ended := false, commits := 0, wdStart := 0, wdFired := false
    dispatched := 0 }

/-- The warp of `at_` as member 0 of group 0 of a launch. -/
def team (x : Launch) (f : Agent → Agent) : State :=
  let s := at_ (fun a => f { regs a with launch := 5, gm := [0], nw := 2 })
  { s with launches := [(5, x)] }

/-- Member 1 of the group. -/
def mate (a : Agent) : Agent := { a with id := 2, wid := 1, core := 1, gm := [0] }

/-- Both members, the second changed. -/
def both (x : Launch) (f g : Agent → Agent) : State :=
  let s := team x f
  { s with others := [g (mate s.agent)] }

theorem witness_MemoryAndPermuteIssue_pair :
    let x := { launch0 with pair := true }
    let g (n : Nat) : Inflight := { ldFly with slot := 3, pwNo := n, finished := true, pc := 0x10008 }
    let s := both x (fun a => { a with exm := 0 }) (fun a => { a with inflight := [g 1] })
    (s.partner s.agent).isSome = true ∧ s.agent.execSet .always = 0 ∧ s.agent.pwCount = 0 ∧
    (s.partner s.agent).bind (fun p => (p.inflight.find? (fun g => g.pwNo == 1 && g.finished)).map (fun g => (p.id, g.pc))) = some (2, 0x10008) := by
  decide +kernel

theorem witness_Bindings_words :
    let s := at_ (fun a => { regs a with k := [(8, 0x20000), (10, 4), (20, 0x20040), (30, 2), (32, 0x20010), (34, 6)] })
    let n : Need := { needX false [{ o := .k 8, n := 3, al := 2 }, pairSrc (.k 20)] with badE := false }
    let m : Need := { needX false [pairSrc (.k 8)] with badE := false }
    good s n ∧ good s m ∧ good s { needX with badE := false } ∧ stops s { needX false [plain (.v 1)] with badE := false } 0x02 ∧
    s.agent.pairOf (.k 8) % 4 = 0 ∧ (s.agent.kreg 10).toNat ≠ 0 ∧ s.agent.pairOf (.k 20) % 8 = 0 ∧ s.agent.binds = [] ∧
    (s.agent.kreg 22).toNat = 0 ∧ s.agent.kpair 30 % 4 ≠ 0 ∧ (s.agent.kreg 34).toNat % 4 ≠ 0 := by
  decide +kernel

theorem witness_Bindings_objects :
    let s : State := { at_ regs with scratches := [(0, ⟨1024, [(20, 1)], []⟩)] }
    0x20001 % 8 ≠ 0 ∧ 1024 % 8 = 0 ∧ (s.scratch s.agent.scratch).size < 1024 + 8 ∧ 1016 + 8 ≤ (s.scratch s.agent.scratch).size ∧
    leNat (Memory.read (s.scratch s.agent.scratch).bytes 16 8) / 2 ^ 32 % 2 ^ 31 ≠ 0 ∧
    fails (s.translate s.agent.ctx s.agent.die 0x80000000 .both) 0x07 = true ∧
    gives (s.translate s.agent.ctx s.agent.die 0x20000 .both) (page 0x20000) = true := by
  decide +kernel

theorem witness_AcquireAndRelease :
    let s := team launch0 id
    let o : Held := { scr := false, addr := 0x20000, shared := false }
    let n : Need := { needX false [pairSrc (.k 8)] with badE := false }
    let k : ObjKey := .mem 0x20000
    let t := team launch0 (fun a => { a with held := [o], binds := [{ rs := false, base := 0x20000, len := 128, obj := .global 0x20000 }] })
    let u : State := { s with mem := Memory.write s.mem 0x20000 (leBytes 8 (2 ^ 63)) }
    let d := t.me (flew (fly (.stV (L 2 15) (.v 6) (.v 1) (.k 8) .g .b32 false false) []) ∘ (fun a => { a with held := [o], launch := 5 }))
    (s.agent.status ≠ .vacant ∧ good s n ∧ s.agent.pairOf (.k 8) = 0x20000 ∧ gives (s.objCheck o) (k, 0) = true ∧ s.isDet s.agent = false ∧
      s.waiters = [] ∧ s.agent.held = [] ∧ s.agent.inflight = []) ∧
    stops s { needX false [pairSrc (.k 8)] with badE := true } 0x0E ∧
    fails (s.objCheck { o with addr := 0x20004 }) (Flt.at 0x09 0x20004) = true ∧
    (good u n ∧ gives (u.objCheck o) (k, 2 ^ 63) = true ∧ u.isDet u.agent = false ∧ u.agent.inflight = []) ∧
    (good t n ∧ t.agent.held.any (fun x => x.scr == false && x.addr == o.addr) = true ∧ t.agent.held.find? (fun x => x.scr == false && x.addr == 0x20000) = some o ∧
      t.mirrorBad = none ∧ t.relHold t.agent o none = none) ∧
    (let m : State := { t with mirrors := [{ id := 9, ag := 1, va := 0x20000, module := 0, buddy := 0, bytes := [], copy := none, failed := false }] }
     m.mirrorBad = none ∧ m.relHold m.agent o none = some .mirror) ∧
    (let m : State := { t with mirrors := [{ id := 9, ag := 1, va := 0x20000, module := 0, buddy := 0, bytes := [], copy := none, failed := true }] }
     m.mirrorBad.isSome) ∧ d.agent.held = [o] := by
  decide +kernel

/-- A store to an object's word, and a word on a typed buffer, which an acquire of the object comes after. -/
theorem witness_AcquireAndRelease_first :
    let o : Held := { scr := false, addr := 0x20000, shared := false }
    let f := fly (.stV (L 2 15) (.v 6) (.v 1) (.k 8) .g .b32 false false) []
    let b : Inflight := { fly (.bst (L 2 15) (.v 6) (.v 1) .x .b32) [] with slot := 3 }
    let s := team launch0 (fun a => { flew f a with launch := 5, inflight := [f, b] })
    let n : Need := { needX false [pairSrc (.k 8)] with badE := false }
    (good s n ∧ gives (s.objCheck o) (.mem 0x20000, 0) = true ∧ s.agent.held = [] ∧ s.agent.inflight = [f, b]) ∧
    comesFirst s.agent o f ∧ comesFirst s.agent o b ∧ (f.slot = 2 ∧ b.slot = 3 ∧ (12 : BitVec 8) ≠ 0) := by
  refine ⟨by decide +kernel, ⟨rfl, { MemOp.base with store := true }, rfl, .inr ⟨rfl, 0x20000, ⟨0, by decide +kernel, .inr ⟨rfl, false, by rfl⟩⟩,
    by decide, by decide⟩⟩, ⟨rfl, { MemOp.base with store := true, buf := some .x }, rfl, .inl rfl⟩, by decide⟩

theorem witness_AcquireAndRelease_waits :
    let o : Held := { scr := false, addr := 0x20000, shared := false }
    let f := fly (.stV (L 2 15) (.v 6) (.v 1) (.k 8) .g .b32 false false) []
    let x : Binding := { rs := false, base := 0x20000, len := 128, obj := .global 0x20000 }
    let s := team launch0 (fun a => { flew f a with held := [o], past := [(x, f.no + 1)] })
    let n : Need := { needX false [pairSrc (.k 8)] with badE := false }
    good s n ∧ s.mirrorBad = none ∧ s.relHold s.agent o none = some (.slots 4) ∧ (x, f.no + 1) ∈ s.agent.past ∧ f.no < f.no + 1 := by
  decide +kernel

theorem witness_ClaspWords :
    let s := both launch0 id id
    let n := claspNeed (.imm 0)
    let gr := launch0.groups[0]
    let r := both launch0 (fun a => { a with arrived := [0] }) id
    let p : State := { r with rounds := [{ launch := 5, g := 0, arrived := [], passing := [0], waiting := [] }] }
    (s.agent.status ≠ .vacant ∧ good s n ∧ gives (s.claspCheck 0 0) gr = true ∧ gives (s.claspCheck 1 0) gr = true ∧
      s.agent.arrPending = false ∧ s.isDet s.agent = false ∧ s.mirrorBad = none ∧ s.relHold s.agent (claspObj gr) (some 0) = none) ∧
    stops s (claspNeed (.imm 0xFF)) 0x0E ∧ fails (s.claspCheck 2 0) (s.agent.flt 0x0A) = true ∧
    (good p n ∧ gives (p.claspCheck 2 0) gr = true ∧ p.groupOf 5 0 = some gr ∧ (∀ x ∈ p.agents, x.launch = 5 → 0 ∉ x.arriving) ∧
      (p.round 5 0).arrived = [] ∧ (p.round 5 0).waiting = [] ∧ gives (p.keyOf p.agent (claspObj gr)) (.mem 0x20100) = true ∧
      p.agent.wid.toNat ∈ (p.round 5 0).passing ∧ bit (p.obj (.mem 0x20100)) 63 = false) ∧
    (gives (r.claspCheck 2 0) gr = true ∧ (r.round 5 0).arrived = [] ∧ r.agent.wid.toNat ∉ (r.round 5 0).passing) ∧
    s.agent.inflight = [] ∧ p.agent.inflight = [] ∧ r.agent.inflight = [] ∧
    (let b := fly (.bst (L 2 15) (.v 6) (.v 1) .x .b32) []
     let w := both launch0 (fun a => { flew b a with launch := 5, arrived := [0], gm := [0], inflight := [b] }) (fun a => { a with inflight := [] })
     good w n ∧ gives (w.claspCheck 2 0) gr = true ∧ b.finished = false ∧ b.slot = 2 ∧ (memOp b.instr).any (fun m => m.buf.isSome) = true) ∧
    (let q := both launch0 (fun a => { a with arrived := [0], arrPending := true }) id
     gives (q.claspCheck 0 0) gr = true ∧ q.agent.arrPending = true) := by
  decide +kernel

theorem witness_ClaspWords_arrival :
    let gr := launch0.groups[0]
    let o : Held := { scr := false, addr := 0x20100, shared := true }
    let s := both launch0 id id
    let r := both launch0 (fun a => { a with held := [o] }) id
    let d := both { launch0 with det := true } id id
    let e := both { launch0 with det := true } (fun a => { a with held := [o] }) id
    let p := both launch0 (fun a => { a with arriving := [0] }) (fun a => { a with arriving := [] })
    let f := fly (.stV (L 2 15) (.v 6) (.v 1) (.k 8) .g .b32 false false) []
    let x : Binding := { rs := false, base := 0x20000, len := 128, obj := .clasp 0 }
    let w := both launch0 (fun a => { flew f a with arriving := [0], launch := 5, binds := [x], inflight := [f] }) (fun a => { a with inflight := [], arriving := [], binds := [] })
    (s.agentOf 1 = some s.agent ∧ s.groupOf 5 0 = some gr ∧ s.isDet s.agent = false ∧ s.agent.held = []) ∧
    (r.agent.held.find? (fun x => x.scr == false && x.addr == gr.clasp) = some o ∧ gives (r.keyOf r.agent o) (.mem 0x20100) = true) ∧
    d.isDet d.agent = true ∧ (e.isDet e.agent = true ∧ e.agent.held = [o]) ∧
    (s.agents.filter (fun a => a.launch == 5 && a.arriving.contains 0)) = [] ∧
    ((p.agents.filter (fun a => a.launch == 5 && a.arriving.contains 0)) = [p.agent] ∧ p.relHold p.agent (claspObj gr) (some 0) = none) ∧
    ((w.agents.filter (fun a => a.launch == 5 && a.arriving.contains 0)) = [w.agent] ∧ w.relHold w.agent (claspObj gr) (some 0) = some (.slots 4)) := by
  decide +kernel

theorem witness_MailboxWords :
    let s := at_ regs
    let f : Inflight := { flying (.mbxr (L 2 0) (.k 6) (.imm 7)) [.k 6, .k 7] with detached := true, la := 0, av := [7] }
    let t := at_ (flew f)
    good s { needX false [plain (.imm 7), pairSrc (.k 8)] with badE := false } ∧ ¬7 < (s.uval .int (.imm 7)).toNat ∧
    7 < (s.uval .int (.imm 8)).toNat ∧ s.isDet s.agent = false ∧ s.agent.inflight = [] ∧
    good s { pairDst (needX true [plain (.imm 7)]) (.k 6) with badE := false } ∧ stops s { pairDst (needX true [plain (.imm 7)]) (.k 7) with badE := false } 0x0E ∧
    (t.agent.status ≠ .vacant ∧ (t.ctx t.agent.ctx).resident = true ∧ t.agent.inSlot 2 = some f ∧ f.dests = [.k 6, .k (6 + 1)] ∧
      t.headV t.agent 2 = true ∧ t.isDet t.agent = false) := by
  decide +kernel

/-- A tensor identifier entry: base, rows, columns, format (R129). -/
def entry0 : List Word := [2, 128, 128, 128, 256, 0, 0x20000, 0, 0, 0, 0, 0, 0, 0, 0, 0]

theorem witness_DeterminateWaits :
    let x : Launch := { launch0 with det := true }
    let s := both x (fun a => { a with lclk := 5, k := [(4, 0x20000), (8, 0x20000), (20, 64)] }) (fun a => { a with lclk := 4 })
    let r := both x (fun a => { a with lclk := 5, arrived := [0] }) (fun a => { a with lclk := 4 })
    let o : Held := { scr := false, addr := 0x20000, shared := false }
    (s.isDet s.agent = true ∧ s.detReady s.agent s.agent.lclk = false) ∧
    (good s { needX false [pairSrc (.k 8)] with badE := false } ∧ gives (s.objCheck o) (.mem 0x20000, 0) = true ∧ s.agent.holds o = false ∧
      s.agent.held.length < 16 ∧ s.agent.inflight = [] ∧ r.agent.inflight = []) ∧
    (good s (claspNeed (.imm 0)) ∧ gives (s.claspCheck 0 0) launch0.groups[0] = true ∧ s.agent.arrPending = false) ∧
    (r.isDet r.agent = true ∧ r.detReady r.agent r.agent.lclk = false ∧ good r (claspNeed (.imm 0)) ∧
      gives (r.claspCheck 2 0) launch0.groups[0] = true) ∧
    (good s { needX false [plain (.imm 7), pairSrc (.k 8)] with badE := false } ∧ (s.uval .int (.imm 7)).toNat ≤ 7) ∧
    s.agent.cbmOf 2 = fullMask ∧
    good s { needX false [pairSrc (.k 8), { o := .k 20, n := 8, al := 2 }] with badE := false } ∧ s.agent.pairOf (.k 8) % 1024 = 0 ∧
    good s { needX false [pairSrc (.k 8), pairSrc (.k 20)] with dst := some (.k 1), badE := false } ∧
    (let t : State := { (s.setCtx 1 { fetchCtx with tids := [(1, entry0)] }).me (fun a => { a with k := [(0, 0x01000000)] }) with
       bufs := [{ Bufs.empty with launch := 5, xsize := 65536, csize := 65536 }] }
     t.isDet t.agent = true ∧ t.detReady t.agent t.agent.lclk = false ∧
     good t { needX true [plain (.k 0), plain (.imm 0)] with bad1 := false, badE := isSp (.k 0) } ∧ t.uval .int (.k 0) = 0x01000000 ∧
     t.tid 1 1 = entry0 ∧ owBad 0x01000000 = false ∧ shapeBad entry0 false = false ∧ tFmt entry0 = 2 ∧
     ¬(tCols entry0 + fmtKs 2 - 1) / fmtKs 2 < owKo 0x01000000 + 0 + 1 ∧
     1024 * (owOff 0x01000000 + chunkKib entry0 * (0 + 1)) ≤ (t.bufsOf 5 0 0).xsize ∧
     good t { needX true [plain (.imm 1)] with bad1 := false } ∧ (t.uval .int (.imm 1)).toNat = 1 ∧ tRows entry0 ≤ 128 ∧
     tSparse entry0 = 0 ∧ tSeed entry0 = 0 ∧ 65536 * (0 + 1) ≤ (t.bufsOf 5 0 0).csize) := by
  decide +kernel

theorem witness_RangeWords :
    let s := at_ (fun a => { regs a with k := [(8, 100), (9, 4), (10, 8)] })
    let f : Inflight := { flying (.rget (L 2 0) (.k 6) (.imm 63)) [.k 6, .k 7] with detached := true, la := 0, av := [63] }
    let t := (at_ (flew f)).setCtx 1 { fetchCtx with ranges := [(63, ⟨0, 100, 4, 8⟩)] }
    good s { needX false [plain (.imm 63), { o := .k 8, n := 3 }] with badE := false } ∧
    ¬(63 < (s.uval .int (.imm 63)).toNat ∨ s.agent.kreg 9 = 0 ∨ s.agent.kreg 10 = 0) ∧ 63 < (s.uval .int (.imm 64)).toNat ∧
    good s (pairDst (needX false [plain (.imm 63)]) (.k 62)) ∧
    (t.agentOf 1 = some t.agent ∧ t.agent.inSlot 2 = some f ∧ f.dests = [.k 6, .k (6 + 1)] ∧ (t.ctx t.agent.ctx).residency = .active ∧
      t.isDet t.agent = false ∧ aget? (t.ctx t.agent.ctx).ranges (f.av.getD 0 0).toNat = some ⟨0, 100, 4, 8⟩) ∧
    (let d := both { launch0 with det := true } (fun a => { flew { f with aux := 3 } a with launch := 5, inflight := [{ f with aux := 3 }] })
       (fun a => { a with inflight := [], lclk := 4 })
     d.isDet d.agent = true ∧ d.detReady d.agent 3 = true ∧ d.turnFirst d.agent { f with aux := 3 } = true) := by
  decide +kernel

theorem witness_TaskWords :
    let s := at_ regs
    let p := (at_ regs).me (fun a => { a with handler := true })
    good s { needX false [pairSrc (.k 8)] with badE := false } ∧ s.agent.pairOf (.k 8) % 64 = 0 ∧ s.submitted 0 0x20000 = false ∧
    s.vfHome 0 = some (0, 1) ∧ { s with queue := [⟨0x20000, 0, none, true, 0, 0⟩] }.submitted 0 0x20000 = true ∧
    good p { needX false [plain (.imm 0), pairSrc (.k 8)] with priv := true, badE := false } ∧
    stops s { needX false [plain (.imm 0), pairSrc (.k 8)] with priv := true, badE := false } 0x0D ∧
    255 < (s.uval .int (.imm 0xFF)).toNat := by
  decide +kernel

/-- A program forked by the warp of `team`, changed. -/
def prog (a : Agent) : Agent :=
  { Agent.vacant with id := 7, kind := .seq, status := .live, ctx := 1, launch := 5, pc := 0x10000, k := a.k, parties := [0, 1], forker := 1, lclk := 9 }

/-- A warp, its program changed. -/
def forked (f g : Agent → Agent) : State :=
  let s := team launch0 f
  { s with others := [g (prog s.agent)] }

theorem witness_ProgramWords :
    let s := team launch0 id
    let t := forked id id
    good s { needX false [pairSrc (.k 8), { o := .k 20, n := 8, al := 2 }] with badE := false } ∧ s.agent.cbmOf 2 = fullMask ∧
    s.isDet s.agent = false ∧ s.agent.pairOf (.k 8) % 8 = 0 ∧ s.agent.gm.getD 1 0xFFFFFFFF = 0xFFFFFFFF ∧
    good s (needX true [plain (.imm 3)]) ∧ s.progOf s.agent = none ∧
    (t.progOf t.agent = some (prog t.agent) ∧ t.agentOf 7 = some (prog t.agent) ∧ t.agent.status ≠ .vacant ∧
      gives (t.agent.nasNext .next t.npc) { t.agent with pc := t.npc } = true ∧ (prog t.agent).rdvs = []) ∧
    ¬{ s.agent with k := [(8, 4)] }.pairOf (.k 8) % 8 = 0 ∧ t.savedAgents = [] := by
  decide +kernel

/-- The image of a context on another die that holds some agents. -/
def imageOn (l : List Agent) (s : State) : State :=
  let x : Ctx := { fetchCtx with die := 1, residency := .saved, imageNo := some 4 }
  { s.setCtx 2 x with images := [{ no := 4, ctx := x, agents := l, regions := [], copies := [], scratches := [], bufs := [], parks := [], queue := []
                                   reqs := [], grid := [] }] }

/-- A program that a saved image holds. -/
theorem witness_ProgramWords_saved :
    let s := imageOn [prog (team launch0 id).agent] (team launch0 id)
    ∀ p ∈ s.savedAgents, s.savedAgents = [p] ∧ s.progOf s.agent = some p ∧ p.id = 7 ∧ (∀ x ∈ s.agents, x.id ≠ 7) ∧ p.rdvs = [] ∧ s.agent.id ≠ 7 ∧
      s.agent.guardU .always = true ∧ s.agent.cbmOf 2 = fullMask ∧ good s (needX true [plain (.imm 3)]) := by
  decide +kernel

theorem witness_GlazeWords :
    let s := at_ regs
    good s (needX false [plain (.imm 63)]) ∧ ¬63 < (s.uval .int (.imm 63)).toNat ∧ 63 < (s.uval .int (.imm 64)).toNat ∧
    good s { pairDst (needX false [pairSrc (.k 8)]) (.k 6) with badE := false } ∧ s.isDet s.agent = false ∧ s.agent.cbmOf 2 = fullMask ∧
    good s { needX false [pairSrc (.k 8), pairSrc (.k 20)] with dst := some (.k 1), badE := false } ∧ s.agent.pairOf (.k 8) % 1024 = 0 ∧
    ¬s.agent.pairOf (.k 20) % 1024 = 0 := by
  decide +kernel

theorem witness_Copies :
    let s := at_ regs
    let n : Need := { needX false [pairSrc (.k 8)] with badE := false }
    let m : Need := { n with dst := some (.k 1) }
    let t := at_ (flew (fly (.stV (L 3 15) (.v 6) (.v 1) (.k 8) .g .b32 false false) []))
    let p : State := { s with memPoison := [0x1001] }
    let u : State := { s with mem := Memory.write s.mem 0x20000 (leBytes 8 0x30000 ++ leBytes 8 0x31000 ++ leBytes 8 64) }
    let w : State := at_ (fun a => { regs a with k := [(8, 0x80000000)] })
    (s.agent.status ≠ .vacant ∧ s.agent.kind = .warp ∧ s.agent.inSlot 2 = none ∧ good s n ∧ good s m ∧ s.agent.cbmOf 2 = fullMask ∧
      s.agent.pairOf (.k 8) % 64 = 0 ∧ s.isDet s.agent = false ∧ s.storesOver 0x20000 64 = 0 ∧ reaches s .read 0x20000 32 ∧
      reaches s .read 0x20000 64 ∧ s.memPoison = []) ∧
    (0x20020 % 64 ≠ 0 ∧ t.storesOver 0x20000 64 ≠ 0 ∧ good t n) ∧
    (p.memPoison = [0x1001] ∧ 0x20000 < 32 * 0x1001 + 32 ∧ 32 * 0x1001 < 0x20000 + 64 ∧ reaches p .read 0x20000 64) ∧
    (fails (s.copyDesc { s.copy0 (L 2 0) .cpy with srcSp := .w } 0) 0x13 = true) ∧
    (reaches u .read 0x20000 32 ∧ (u.copyDesc (u.copy0 (L 2 0) .cpy) (leNat (Memory.read u.mem 0x20000 32))).isOk) ∧
    fails (s.copyDesc (s.copy0 (L 2 0) .cpy) (2 ^ 192)) 0x0E = true ∧
    fails (w.translate 1 0 0x80000000 .read) 0x07 = true ∧ w.storesOver 0x80000000 64 = 0 := by
  decide +kernel

theorem witness_TensorWords :
    let s := (team launch0 (fun a => { a with k := [(0, 0x01000000)] })).setCtx 1 { fetchCtx with tids := [(1, entry0)] }
    let t : State := { s with bufs := [{ Bufs.empty with launch := 5, wsize := 32768, csize := 65536 }] }
    good s { needX false [plain (.imm 1), { o := .k 16, n := 16, al := 16 }] with badE := false } ∧ ¬255 < (s.uval .int (.k 63)).toNat ∧
    tidBad ((List.range 16).map (fun m => s.agent.kreg (16 + m))) = true ∧ tidBad entry0 = false ∧
    (good s { needX false [plain (.imm 1), plain (.imm 15)] with dst := some (.k 63) } ∧ (s.uval .int (.imm 15)).toNat = 15) ∧
    15 < (s.uval .int (.imm 16)).toNat ∧
    (good t { needX true [plain (.k 0), plain (.k 1)] with bad1 := false, badE := false } ∧ t.isDet t.agent = false ∧ t.agent.cbmOf 2 = fullMask ∧
      owBad (t.uval .int (.k 0)) = false ∧ shapeBad (t.tid 1 1) false = false ∧ owKo (t.uval .int (.k 0)) = 0 ∧
      1024 * (owOff (t.uval .int (.k 0)) + chunkKib (t.tid 1 1) * (0 + 1)) = (t.bufsOf 5 0 0).wsize) ∧
    (good t { needX true [plain (.imm 1)] with bad1 := false } ∧ (t.uval .int (.imm 1)).toNat = 1 ∧ tRows entry0 = 128 ∧ tFmt entry0 = 2 ∧
      tSparse entry0 = 0 ∧ tSeed entry0 = 0 ∧ (t.bufsOf 5 0 0).csize = 65536 * (0 + 1)) ∧
    shapeBad (s.tid 1 2) false = true ∧ (s.bufsOf 5 0 0).csize < 65536 * (0 + 1) := by
  decide +kernel

/-- A sequencer program that acts, in the launch of `team`. -/
def seqAt (f : Agent → Agent) : State :=
  let s := team launch0 id
  { s with agent := f (prog s.agent), others := [s.agent] }

theorem witness_MatrixIssue :
    let s := seqAt (fun a => { a with k := [(0, 0x01000000)] })
    let t : State := { s with mops := List.replicate 4 { id := 1, ag := 7, slot := 1, pc := 0, instr := .mzero (M 1 1), die := 0, cluster := 0, cm := 1, launch := 5, ctx := 1, words := [], entries := [], started := false, pair := none } }
    (∀ r ∈ matrixRows (M 2 1) 1 0 (.k 0) (.k 2) false false false false false 0 0 s,
      good s { cls := .x, seq := true, warp := false, srcs := r.srcs, badE := r.badE } ∧ r.ws.any owBad = false) ∧
    (∀ r ∈ matrixRows (M 2 1) 0 0 (.imm 5) (.imm 5) false false false false true 7 3 s, r.badE = false → (r.bad [entry0]).isSome = true →
      r.i = .mqnt (M 2 1) (.imm 5) false true 3) ∧
    s.mops = [] ∧ s.agent.cbmOf 2 = fullMask ∧ s.agent.guardU .always = true ∧
    ((at_ regs).agent.firstFault false { cls := .x, seq := true, warp := false } true = some 0x0C) ∧
    (¬(t.mops.filter (fun o => o.die == 0 && o.cluster == 0 && o.cm.getLsbD 0)).length < 4 ∧ t.agent.cbmOf 2 = fullMask ∧
      good t { cls := .x, seq := true, warp := false }) := by
  decide +kernel

/-- Runs of bytes can be written. -/
def canWrite (r : Except Nat State) : Bool := r.isOk

theorem witness_TrapEntered :
    let s := team launch0 (flew ldFly ∘ fun a => { a with launch := 5, gm := [0] })
    let t : Trap := { cause := 0x1A, mask := 0, addr := 0, fpc := 0x10000, rpc := 0x10008 }
    let u := s.setCtx 1 { fetchCtx with desc := { fetchCtx.desc with ta := 0x80000000 } }
    let ag := { (team launch0 id).agent with
      msk := List.replicate 16 ⟨1, 2⟩, link := List.replicate 8 3, loops := List.replicate 3 ⟨4, 5⟩, inflight := List.replicate 8 ldFly }
    (s.agent.hold = .none ∧ s.agent.wait = .none ∧ s.agent.status ≠ .vacant ∧ t.cause ≠ 0x07 ∧
      canWrite ((s.me (fun _ => { s.agent with hold := .none })).writeRuns 1 0 1 0x2000000 (s.agent.frameRuns t)) = true) ∧
    (u.agent.status ≠ .vacant ∧ fails ((u.me (fun _ => { u.agent with hold := .none })).writeRuns 1 0 1 0x80000000 (u.agent.frameRuns t)) 0x07 = true) ∧
    (t.cause < 32 ∧ ag.msk.length ≤ 16 ∧ ag.link.length ≤ 8 ∧ ag.loops.length ≤ 3 ∧ ag.capturedWords.length ≤ 8 ∧
      ag.capturedWords[7]? = some ldFly ∧ ldFly.ecause < 32 ∧ ldFly.slot < 8 ∧ ag.msk.reverse[15]? = some ⟨1, 2⟩ ∧
      ag.link.reverse[7]? = some 3 ∧ ag.loops[2]? = some ⟨4, 5⟩) := by
  decide +kernel

theorem witness_Faults :
    let s := at_ regs
    let h := at_ (fun a => { a with handler := true })
    let f : Inflight := { ldFly with fmask := 1, ecause := 0x09 }
    let r : Recorded := { cause := 0x17, mask := 1, addr := 0, fpc := 0, rpc := none, hnd := false }
    let g : Report := { mask := 1, addr := 0, fpc := 0, hnd := true, no := 0 }
    let a := { s.agent with inflight := [{ ldFly with finished := true }, f] }
    (s.agent.kind = .warp ∧ s.agent.handler = false ∧ h.agent.handler = true ∧ (seqAt id).agent.kind = .seq ∧ s.agentOf 1 = some s.agent) ∧
    (a.inflight = [{ ldFly with finished := true }] ++ f :: [] ∧ f.finished = false ∧ f.fmask ≠ 0 ∧
      ∀ g ∈ [{ ldFly with finished := true }], g.finished = true ∨ g.fmask = 0) ∧
    (let b := { s.agent with recorded := [r] }
     (∀ f ∈ b.inflight, f.finished = true ∨ f.fmask = 0) ∧ b.recorded = [] ++ r :: [] ∧ (!b.handler || r.hnd) = true) ∧
    (let b := { s.agent with report := some g, handler := true, recorded := [r] }
     (∀ q ∈ b.recorded, (!b.handler || q.hnd) = false) ∧ b.report = some g ∧ (!b.handler || g.hnd) = true) ∧
    (let b := { s.agent with handler := true, delivered := [r] }
     b.inflight = [] ∧ b.recorded = [] ∧ b.report = none ∧ b.handler = true) ∧
    (let b := { s.agent with delivered := [r] }
     b.handler = false ∧ b.delivered = r :: []) ∧
    (let b := { s.agent with wdSignal := true }
     b.delivered = [] ∧ b.wdSignal = true) ∧
    (let b := { s.agent with fdSignal := some ⟨0x0B, 3⟩ }
     b.delivered = [] ∧ b.wdSignal = false ∧ b.fdSignal = some ⟨0x0B, 3⟩) ∧
    (s.agent.delivered = [] ∧ s.agent.wdSignal = false ∧ s.agent.fdSignal = none) := by
  decide +kernel

theorem witness_TrapsAndReturns :
    let s := team launch0 id
    let h := team launch0 (fun a => { a with handler := true, tframe := 0x2000000 })
    let b := team launch0 (fun a => { a with handler := true, tframe := 0x80000000 })
    good s (needX false [plain (.imm 127)]) ∧ (s.uval .int (.imm 127)).toNat = 127 ∧ 127 < (s.uval .int (.imm 128)).toNat ∧ good s needX ∧
    (good h { needX false [plain (.imm 0)] with priv := true } ∧ h.agent.inGroup (h.uval .int (.imm 0)) = true ∧
      h.agent.inGroup (h.uval .int (.imm 1)) = false) ∧
    stops s { needX with handlerOnly := true } 0x0D ∧ good h { needX with handlerOnly := true } ∧ h.frameAt.isOk = true ∧
    fails b.frameAt (Flt.at 0x07 0x80000000) = true ∧
    (good h { needX false [pairSrc (.k 8)] with priv := true, badE := false } ∧ h.agent.inflight = [] ∧ h.mirrors = [] ∧
      h.agent.pairOf (.k 8) % 64 = 0 ∧ h.runFault 1 0 0x20000 (0x2700 + h.agent.regImage.length) = none) ∧
    (s.agent.status ≠ .vacant ∧ s.agent.wait = .none) := by
  decide +kernel

theorem witness_WriteSpecial :
    let h := team launch0 (fun a => { a with handler := true, tframe := 0x2000000, k := [(0, 2048)], link := [1, 2], loops := [⟨0, 0x10000⟩] })
    (∀ i ∈ [0x0D, 0x0E, 0x18, 0x1A, 0x1B, 0x1C, 0x1D, 0x20, 0x30, 0x35, 0x36, 0x37], good h (wrsNeed (.sp i) (.k 0))) ∧
    stops (at_ regs) (wrsNeed (.sp 0x36) (.k 0)) 0x0D ∧ stops h (wrsNeed (.sp 0) (.k 0)) 0x0E ∧
    (2048 % 2048 = 0 ∧ 2048 ≤ 2048 * 2 ^ h.agent.pw) ∧ (0 < h.agent.loops.length ∧ ¬2 < h.agent.loops.length) ∧
    (2 ≤ h.agent.link.length ∧ h.agent.link.length < 3 ∧ 8 < 9) ∧ h.agent.msk.length < 1 ∧ ¬h.agent.msk.length < 0 ∧
    (∀ off ∈ [0x00, 0x04, 0x08, 0x0C, 0x10, 0x14], gives (h.translate 1 0 (0x2000000 + off) .write) (page (0x2000000 + off)) = true ∧
      (0x2000000 + off) % 64 ≤ 60 ∧ bit (page 0).leaf.desc 7 = false) ∧ (page 0).place ≠ .remote := by
  decide +kernel

theorem witness_SystemWords :
    let h := team launch0 (fun a => { a with handler := true, k := [(8, 0x20000)] })
    let s : State := { h with ctxs := (2, { fetchCtx with desc := { fetchCtx.desc with vf := 1, root := 0x1000 } }) :: h.ctxs }
    let n : Need := { needX false [plain (.imm 1), pairSrc (.k 8)] with priv := true, badE := false }
    let p (c : Nat) : Pctl := { id := 3, kind := .reset, vf := c, die := 0, ctx := 1, ag := 1, block := 0, image := none }
    good h { needX false [pairSrc (.k 8), plain (.imm 1)] with priv := true, badE := false } ∧
    good h { needX false [pairSrc (.k 8)] with priv := true, badE := false } ∧ h.agent.pairOf (.k 8) % 64 = 0 ∧ ¬0x20020 % 64 = 0 ∧
    good h { pairDst (needX false [plain (.imm 0)]) (.k 6) with priv := true, badE := false } ∧
    stops (at_ regs) { needX false with priv := true } 0x0D ∧ ¬16383 < (h.uval .int (.imm 0)).toNat ∧ 16383 < (h.uval .int (.imm 0xFF)).toNat ∧
    (good s n ∧ s.ctxOn 5 0 = none ∧ s.ctxOn 1 0 = some 2 ∧ s.pctls = [] ∧ 2 ≠ s.agent.ctx ∧ s.resumable 2 0 0x20000 1 = none ∧
      s.runFault 1 0 0x20000 64 = none ∧ (s.ctx 2).residency = .active ∧ ∃ q ∈ { s with pctls := [p 1] }.pctls, q.vf = 1 ∧ q.die = 0) := by
  decide +kernel

theorem witness_DieEvents :
    let s := at_ id
    let d := s.die 0
    let r : State := { State.reset with boot := .running }
    (d.released = true ∧ d.power = .run ∧ ¬d.cores < 32 ∧ aget d.ramp 0 31 < 128 ∧ 31 < d.cores) ∧
    (r.boot = .running ∧ (23 < 24) ∧ (r.die 0).released = false ∧ ¬∀ e : Fin 24, e.val < 23 → (r.die e.val).released = true) ∧
    (State.reset.boot = .unverified ∧ r.standby = false ∧ { r with standby := true }.standby = true) ∧
    ({ s with dies := [(0, { d with power := .off, cores := 0 })] }.die 0).power = .off := by
  decide +kernel

theorem witness_FirmwareAndOutside_firmware :
    let s := at_ id
    let x := { fetchCtx with desc := { fetchCtx.desc with noticeBase := 0x20000, noticeSize := 4 }, noticeWait := [⟨3, 1, 5, some 1⟩], noticeUsed := 3 }
    let t := (s.me (fun a => { a with hold := .notice })).setCtx 1 x
    let w := s.me (fun a => { a with hold := .sleep 100 })
    (23 < 24 ∧ 15 < 16 ∧ 16 ≤ 31 ∧ 31 < 32) ∧ (s.ctx 1).residency ≠ .absent ∧ (s.ctx 2).residency = .absent ∧
    (∀ e ∈ s.ctxs, (s.ctx e.1).desc.traceMask.getLsbD 8 = false) ∧ (w.agentOf 1 = some w.agent ∧ w.agent.hold = .sleep 100) ∧
    (0 < x.noticeUsed ∧ x.noticeWait = ⟨3, 1, 5, some 1⟩ :: [] ∧ x.noticeUsed < x.desc.noticeSize) ∧
    (gives (t.translate 1 x.die (x.desc.noticeBase + 16 * (x.noticeTail % x.desc.noticeSize)) .write) (page 0x20000) = true ∧
      (page 0).place ≠ .remote ∧ 0x20000 % 64 ≤ 48 ∧ bit (page 0).leaf.desc 7 = false ∧ t.agentOf 1 = some t.agent ∧ t.agent.hold = .notice) ∧
    (let u := t.me (fun a => { a with hold := .none, wait := .notice })
     u.agentOf 1 = some u.agent ∧ u.agent.hold ≠ .notice ∧ u.agent.wait = .notice) := by
  decide +kernel

theorem witness_FirmwareAndOutside_outside :
    let z : Bezel := { peer := 3, link := 3, rmod := 1, wins := [(0, ⟨0, 2 ^ 36 + 0xFFF, true, true, true⟩)] }
    let s0 := at_ id
    let s : State := { s0 with dies := [(0, { s0.die 0 with bezel := z }), (1, { s0.die 0 with bezel := z })] }
    gives (placeOf false (2 ^ 36)) (.stack 1) = true ∧ gives (placeOf false (2 ^ 36 - 1)) (.stack 0) = true ∧ s.reqs = [] ∧
    ((s.die 0).bezel.peer.getLsbD 1 && (s.die 1).bezel.peer.getLsbD 0) = true ∧ (s.die 0).bezel.link.getLsbD 0 = true ∧
    (s.die 0).bezel.rmod.getLsbD 0 = true ∧ (s0.die 0).bezel.wins = [] ∧ s.ctxIn 0 .active = some 1 ∧ s.ctxIn 1 .active = none := by
  decide +kernel

theorem witness_SyncEvents :
    let o : Held := { scr := false, addr := 0x20000, shared := true }
    let k : ObjKey := .mem 0x20000
    let s0 := team launch0 (fun a => { a with hold := .acq k o .next })
    let s : State := { s0 with waiters := [⟨1, k, true⟩], mem := Memory.write s0.mem 0x20000 (leBytes 8 (2 ^ 16 + 65534)) }
    let t : State := { s with mem := Memory.write s.mem 0x20000 (leBytes 8 (2 ^ 16 + 65535)) }
    let r := both launch0 id id
    let gr := launch0.groups[0]
    let m : Mirror := { id := 9, ag := 1, va := 0x20000, module := 0, buddy := 0, bytes := [], copy := none, failed := false }
    (s.agentOf 1 = some s.agent ∧ s.isDet s.agent = false ∧ s.agent.hold = .acq k o .next ∧
      s.waiters.find? (fun x => x.ag == 1) = some ⟨1, k, true⟩ ∧ s.waiters.find? (fun x => x.key == k) = some ⟨1, k, true⟩ ∧
      (∀ x ∈ s.waiters, x.key.here = true) ∧ bit (s.obj k) 63 = false ∧ s.obj k % 2 ^ 16 < 65535) ∧
    (let u : State := { s0 with waiters := [⟨1, .away 1 0x20000, true⟩] }
     (ObjKey.away 1 0x20000).here = false ∧ u.agentOf 1 = some u.agent ∧ u.agent.hold = .acq k o .next ∧ gives (u.keyOf u.agent o) k = true) ∧ ¬t.obj k % 2 ^ 16 < 65535 ∧
    (r.launchOf 5 = some launch0 ∧ launch0.det = false ∧ r.groupOf 5 0 = some gr ∧ (∀ a ∈ r.agents, a.launch = 5 → 0 ∉ a.arriving) ∧
      (r.round 5 0).waiting = [] ∧ (r.round 5 0).arrived = []) ∧
    (let u := r.setRound { launch := 5, g := 0, arrived := [0, 1], passing := [], waiting := [] }
     (u.round 5 0).waiting = [] ∧ (u.round 5 0).arrived ≠ [] ∧ ∀ w ∈ gr.members, w ∈ (u.round 5 0).arrived) ∧
    (let u : State := { r with mirrors := [m] }
     u.mirrors.find? (fun x => x.id == 9) = some m ∧ u.agentOf m.ag = some u.agent ∧ u.agent.kind = .warp) ∧
    s.agent.nasBad .next s.npc = none := by
  decide +kernel

theorem witness_PairLoads :
    let f : Inflight := { fly (.ldV (L 2 15) (.v 6) (.v 1) (.k 8) .g .b32 true false false) [.v 6] with pwNo := 1 }
    let fl (f : Inflight) (a : Agent) : Agent := { a with inflight := [f], cbm := [(2, 0)], pwCount := 1 }
    let one := team launch0 (fl f)
    let s := both launch0 (fl f) id
    let dead := both launch0 (fl f) (fun a => { a with live := 0 })
    let far := both launch0 (fl f) (fun a => { a with pwCount := 0, inflight := [] })
    let div := both launch0 (fl f) (fl { f with pc := 8 })
    (one.agentOf 1 = some one.agent ∧ (one.ctx one.agent.ctx).resident = true ∧ one.agent.inSlot 2 = some f ∧ f.pwNo ≠ 0 ∧
      one.agent.hold = .none ∧ one.partner one.agent = none) ∧
    (∀ x ∈ [s, dead, far, div], ∃ p ∈ x.others, x.partner x.agent = some p ∧ x.agentOf p.id = some p ∧ p.id ≠ 1 ∧ p.hold = .none) ∧
    (∀ p ∈ dead.others, p.alive = false) ∧ (∀ p ∈ far.others, p.alive = true ∧ p.pwCount < f.pwNo) ∧
    (∀ p ∈ s.others, p.alive = true ∧ f.pwNo ≤ p.pwCount ∧ p.inflight.find? (fun g => g.pwNo == f.pwNo) = some f ∧
      (memOp f.instr).isSome ∧ s.headV s.agent 2 = true ∧ s.headV p f.slot = true) ∧
    (∀ p ∈ div.others, p.inflight.find? (fun g => g.pwNo == f.pwNo) = some { f with pc := 8 }) := by
  decide +kernel

/-- What an access answered: it waits, faults, or is done. -/
def answered (r : Did) : Nat :=
  match r with
  | .wait => 0
  | .fault .. => 1
  | .done .. => 2

/-- Two matched loads: of one address, done, faulting or waiting; of a determinate launch; in two quanta. -/
theorem witness_PairLoads_thread :
    let f : Inflight := { fly (.ldV (L 2 15) (.v 6) (.v 1) (.k 8) .g .b32 true false false) [.v 6] with pwNo := 1 }
    let m : MemOp := { MemOp.base with load := true }
    let fl (f : Inflight) (a : Agent) : Agent := { a with inflight := [f], cbm := [(2, 0)], pwCount := 1 }
    let s := both launch0 (fl f) (fl f)
    let bad : Inflight := { f with base := 0x80000000 }
    let far := both launch0 (fl bad) (fl bad)
    let full : State := { far with dies := [(0, { far.die 0 with faults := (List.range 512).map (fun i => (1, i + 50000)) })] }
    let x : Launch := { launch0 with det := true }
    let d := both x (fl f) (fl f)
    let late : Inflight := { f with aux := 1024 }
    let q := both x (fl f) (fl late)
    (∀ p ∈ s.others, s.agentOf 1 = some s.agent ∧ s.agentOf 2 = some p ∧ mbit f.e 31 = true ∧ mbit f.pa 31 = false ∧
      (s.agent.target m f.base.toNat (f.av.getD 31 0) 31).2 = (p.target m f.base.toNat (f.av.getD 31 0) 31).2 ∧
      ¬(mbit (s.agent.cbmOf 2) 31 = true ∨ mbit f.fmask 31 = true) ∧ answered (s.threadAccess s.agent f m 31) = 2 ∧ s.isDet s.agent = false) ∧
    (answered (far.threadAccess far.agent bad m 31) = 1 ∧ (far.threadFails 1 bad false 31 0x07 0x8000007C).isSome = true) ∧
    (answered (full.threadAccess full.agent bad m 31) = 1 ∧ (full.threadFails 1 bad false 31 0x07 0x8000007C).isNone = true) ∧
    (∀ p ∈ d.others, d.isDet d.agent = true ∧ d.isDet p = true ∧ d.quantaApart d.agent f f = false ∧
      answered (d.threadAccess { d.agent with detBuf := [] } f m 31) = 2 ∧
      gives (d.agent.target m f.base.toNat (f.av.getD 31 0) 31).1 (.glob 0x2007C false) = true) ∧
    (q.quantaApart q.agent f late = true ∧ ∀ p ∈ q.others, answered (q.threadAccess p late m 31) = 0) := by
  decide +kernel

/-- A task record at 0x40 with its grid: kernel at 0x10000, arguments at 0x9000, eight registers, completion word at 0x9100. -/
def posted (nx ny nz : Nat) : State :=
  let s := at_ id
  { s with
    mem := Memory.write (Memory.write (Memory.write (Memory.write (Memory.write s.mem 0x40 (leBytes 8 0x10000)) 0x48 (leBytes 7 0x9000)) 0x50
      (leBytes 2 nx ++ leBytes 2 ny ++ leBytes 2 nz)) 0x57 [1]) 0x78 (leBytes 8 0x9100)
    queue := [{ record := 0x40, vf := 0, poster := none, ready := true, prio := 0, since := 0 }] }

/-- What the scheduler takes is a launch that `p` admits. -/
def takenAs (t : Taken) (p : Launch → Bool) : Bool :=
  match t with
  | .launch _ x => p x
  | _ => false

theorem witness_Queues_events :
    let s := posted 1 1 1
    let q := s.queue[0]
    let r : State := { s with queue := [], mem := s.mem }
    let u := s.absorb.openReady 0 (s.absorb.readyRecs 0)
    let d : Launch := { launch0 with exited := [0, 1] }
    let t : State := { at_ id with launches := [(5, d)] }
    let g : State := { t with launches := [(5, { d with triggered := [0] })] }
    ({ s with ctxs := [] }.vfHome 0 = none ∧ s.vfHome 0 = some (0, 1)) ∧ (0x48 % 64 ≠ 0 ∧ s.submitted 0 0x40 = true) ∧
    (∀ e ∈ s.ctxs, (s.ctx e.1).landed = []) ∧ (r.submitted 0 0x40 = false ∧ (r.readNum 1 0 0x40 64).isOk = true ∧ (r.readNum 1 0 0x80000000 64).isOk = false) ∧
    ((u.readyRecs 0).find? u.placeable = some q ∧ u.dispatchStopped 0 = false ∧ u.outranked 0 q.prio = false) ∧
    ((r.absorb.openReady 0 []).readyRecs 0).find? r.absorb.placeable = none ∧ t.launchOf 5 = some d ∧ t.launchDone 5 d = true ∧
    (team launch0 id).launchDone 5 launch0 = false ∧
    (g.launchOf 5 = some { d with triggered := [0] } ∧ ({ d with triggered := [0] } : Launch).next = none ∧
      ∀ w : Fin 2, g.letGo 5 w.val { d with triggered := [0] } = true) ∧ ({ d with triggered := [0] } : Launch).warps = 2 := by
  decide +kernel

/-- Records of which the oldest starved one goes first. -/
theorem witness_Queues_starved :
    let q (a p t : Nat) : QRec := { record := a, vf := 0, poster := none, ready := true, prio := p, since := t }
    let s : State := { at_ id with queue := [q 0x40 7 1000000, q 0x80 7 0, q 0xC0 2 0], time := 2000000 }
    let u : State := { s with time := 999999, queue := [q 0x40 7 1000000, q 0x80 7 0, q 0xC0 2 0] }
    (∀ p ∈ s.queue, p.prio ≤ 7) ∧ 1000000 + 1000000 ≤ s.time ∧ (s.readyRecs 0).map (·.record) = [0x80] ∧
    (∀ p ∈ u.queue, ¬(p.prio = 7 ∧ p.since + 1000000 ≤ u.time)) := by
  decide +kernel

/-- Records that can be read: one whose completion word lies badly, one that breaks a condition, one whose successor list cannot be read, a
copy, and launches with a group of two. -/
theorem witness_Queues_checks :
    let s := posted 2 1 1
    let q := s.queue[0]
    let put (l : List (Nat × List Byte)) : State := { s with mem := l.foldl (fun m e => Memory.write m (0x40 + e.1) e.2) s.mem }
    let table (m : List Host.Cell) : List Host.Cell := Memory.write (Memory.write m 0x9200 [0x03]) 0x9210 (leBytes 8 (2 ^ 32))
    let g : State := { put [(0x18, [1]), (0x28, leBytes 8 0x9200)] with mem := table (put [(0x18, [1]), (0x28, leBytes 8 0x9200)]).mem }
    let pairRec : State := { g with mem := Memory.write g.mem 0x56 [0x08] }
    let is (t : Taken) : Nat := match t with
      | .gone => 0
      | .bad _ => 1
      | .node .. => 2
      | .launch .. => 3
    (s.vfHome 0 = some (0, 1) ∧ (s.readNum 1 0 0x40 64).isOk = true ∧ is (s.takeRecord q) = 3) ∧
    is ((put [(0x38, [1])]).takeRecord q) = 0 ∧ is ((put [(0x38, leBytes 8 0x80000000)]).takeRecord q) = 0 ∧ is ((put [(0x0F, [16])]).takeRecord q) = 1 ∧
    is ((put [(0x1A, [1]), (0x30, leBytes 8 0x80000000)]).takeRecord q) = 1 ∧
    is ((put [(0x00, leBytes 6 0), (0x10, leBytes 6 0), (0x16, [4]), (0x17, [0])]).takeRecord q) = 2 ∧
    (is (g.takeRecord q) = 1 ∧ (g.readNum 1 0 0x9200 48).isOk = true) ∧ is (pairRec.takeRecord q) = 3 ∧
    (g.readGroup 1 0 0x9200 2).isSome = true ∧ (g.readGroup 1 0 0x9200 1).isNone = true ∧
    (let b : State := { g with mem := Memory.write (Memory.write g.mem 0x9201 [1]) 0x9218 (leBytes 8 (2 ^ 33)) }
     (b.readGroup 1 0 0x9200 2).isNone = true ∧ (b.readNum 1 0 (2 ^ 32) 1).isOk = false) ∧
    (let b : State := { g with mem := Memory.write (Memory.write (Memory.write g.mem 0x9201 [1]) 0x9210 (leBytes 8 0x9300)) 0x9218 (leBytes 8 (2 ^ 33)) }
     (b.readGroup 1 0 0x9200 2).isSome = true ∧ (b.readNum 1 0 0x9300 1).isOk = true) := by
  decide +kernel

/-- An arrival that waits for its arming warp's store, one that need not wait, and one whose record cannot be read. -/
theorem witness_Queues_landing :
    let r (a no : Nat) : Arrival := { record := a, tag := 1, by_ := (1, { no := no, clock := 0 }) }
    let f := fly (.stV (L 2 15) (.v 6) (.v 1) (.k 8) .g .b32 false false) []
    let s (r : Arrival) : State := { (posted 1 1 1).setCtx 1 { fetchCtx with landed := [(r, 5)] } with agent := flew f (posted 1 1 1).agent }
    let early := s (r 0x40 f.no)
    let late := s (r 0x40 (f.no + 1))
    let far := s (r 0x80000000 0)
    ((early.ctx 1).landed = [(r 0x40 f.no, 5)] ∧ early.wroteBefore 1 { no := f.no, clock := 0 } = true) ∧
    late.wroteBefore 1 { no := f.no + 1, clock := 0 } = false ∧
    gives (early.readNum 1 0 0x48 7) 0x9000 = true ∧ (early.readNum 1 0 0x80000008 7).isOk = false ∧
    (early.writeRun 1 0 0 0x9000 (leBytes 8 5)).isOk = true ∧ (early.writeRun 1 0 0 0x80000000 (leBytes 8 5)).isOk = false ∧ far.agent = early.agent ∧
    (match (posted 1 1 1).readNum 1 0 0x40 64 with
      | .ok n => !bit n (8 * 0x16 + 2) && n / 2 ^ 192 % 512 == 0
      | .error _ => false) = true := by
  decide +kernel

theorem witness_Queues_dispatch :
    let s := posted 1 1 1
    let q := s.queue[0]
    let b : State := { s with mem := Memory.write s.mem 0x57 [33] }
    s.vfHome 0 = some (0, 1) ∧ takenAs (s.takeRecord q) (fun x => decide (x.warps ≠ 0)) = true ∧
    (match b.takeRecord q with
      | .bad n => (b.writeRun 1 0 0 (n / 2 ^ 448 % 2 ^ 64) (leBytes 8 (2 ^ 63 + 2 ^ 60))).isOk
      | _ => false) = true ∧
    (match s.takeRecord { q with record := 0x80000000 } with
      | .gone => true
      | _ => false) = true := by
  decide +kernel

theorem witness_EmptyLaunch :
    (posted 0 1 1).vfHome 0 = some (0, 1) ∧
    ∀ s ∈ [posted 0 1 1, posted 1 0 1, posted 1 1 0], ∀ q ∈ s.queue, takenAs (s.takeRecord q) (fun x =>
      (x.nx == 0 || x.ny == 0 || x.nz == 0) && (s.writeRun x.ctx 0 0 x.cword (leBytes 8 (2 ^ 63))).isOk) = true := by
  decide +kernel

/-- A launch with no group that has admitted nothing. -/
def launch1 : Launch := { launch0 with groups := [], admitted := [], pair := false }

theorem witness_WarpAdmit :
    let s : State := { at_ id with launches := [(5, launch1)] }
    s.launchOf 5 = some launch1 ∧ s.ctxOn launch1.vf 0 = some 1 ∧ (s.ctx 1).stopped = false ∧ s.evictedOf 5 = [] ∧ s.readyRecs 0 = [] ∧
    launch1.next = some 0 ∧ launch1.unitOf 0 = [0] ∧ launch1.det = false ∧ launch1.corOf 0 = none ∧ (0, 1) ∈ s.coresFor launch1 [0] ∧
    s.fits 5 launch1 0 1 1 1 = true ∧ launch1.blocks 1 [0] = [[0]] := by
  decide +kernel

theorem witness_WarpAdmit_order :
    let e := team launch1 (fun a => { a with status := .evicted })
    let p : State := { posted 1 1 1 with launches := [(5, { launch1 with queuePrio := 0 })], queue := [⟨0x40, 0, none, true, 1, 0⟩] }
    (e.launchOf 5 = some launch1 ∧ e.agents = [e.agent] ∧ e.agent.launch = 5 ∧ e.agent.status = .evicted ∧ e.partner e.agent = none) ∧
    (p.readyRecs 0 = p.queue ∧ 0 < 1 ∧ ∀ q ∈ p.queue, q.prio = 1 ∧ p.placeable q = true) ∧ (∀ w : Fin 2, w.val ∈ launch0.admitted) := by
  decide +kernel

theorem witness_ProgramEvents :
    let f (g h : Agent → Agent) := forked g h
    let e := at_ (fun a => { a with status := .exiting })
    let p := f id (fun a => { a with status := .exiting })
    let q := f id (fun a => { a with status := .queued, ridx := 1 })
    let r : Recorded := { cause := 0x0E, mask := 0, addr := 0, fpc := 0, rpc := none, hnd := false }
    let bad (a : Agent) : Agent := { a with status := .faulted, seqFault := some r }
    let x := f id bad
    let y := f (fun a => { a with live := 0 }) bad
    let z : State := { both launch0 (fun a => { a with live := 0 }) id with
      others := [mate (team launch0 id).agent, bad (prog (team launch0 id).agent)] }
    let v : Rdv := { ag := 7, k := 0, n := 3, slot := 2, pc := 0, next := 8, clock := 0 }
    let m := f (fun a => { a with live := 0 }) (fun a => { a with rdvs := [v], parties := [0] })
    (e.agentOf 1 = some e.agent ∧ e.agent.status = .exiting ∧ e.agent.trapDue = false ∧ e.agent.inflight = [] ∧ e.agent.kind = .warp) ∧
    (∀ a ∈ p.others, p.agentOf 7 = some a ∧ a.status = .exiting ∧ a.trapDue = false ∧ a.inflight = [] ∧ a.kind = .seq) ∧
    ¬(at_ id).agent.status = .exiting ∧
    (∀ a ∈ q.others, q.agentOf 7 = some a ∧ a.status = .queued ∧ q.agentOf a.forker = some q.agent ∧
      q.agent.doneBefore a.lclk pathVCG = true ∧ q.powered a = true ∧
      q.agents.filter (fun b => b.kind == .seq && b.die == a.die && b.core / 4 == a.core / 4 && b.ctx == a.ctx &&
        (b.status == .queued || b.status == .live || b.status == .exiting || b.status == .faulted)) = [a]) ∧
    (∀ a ∈ x.others, a.status = .faulted ∧ a.seqFault = some r ∧ x.agentOf a.forker = some x.agent ∧ x.agent.alive = true) ∧
    (∀ a ∈ y.others, a.status = .faulted ∧ y.agentOf a.forker = some y.agent ∧ y.agent.alive = false ∧ y.warpOf 5 1 = none) ∧
    (z.agent.alive = false ∧ ∃ a ∈ z.others, z.warpOf 5 1 = some a ∧ a.alive = true) ∧
    (∀ a ∈ m.others, m.agentOf 7 = some a ∧ a.rdvs = [v] ∧ v.ag = 7 ∧ m.reached a 0 0 = true ∧ m.clearBefore v = true) ∧
    (let n := f id (fun a => { a with rdvs := [v] })
     ∀ a ∈ n.others, n.reached a 0 0 = false) := by
  decide +kernel

/-- Warps that retire: with two objects held, the higher one first in the list; with a mirrored write that is awaited, or that failed. -/
theorem witness_ProgramEvents_ends :
    let o (a : Nat) : Held := { scr := false, addr := a, shared := false }
    let f : Inflight := { ldFly with fmask := fullMask, ecause := 0x09 }
    let s := team launch0 (fun a => { a with status := .exiting, held := [o 0x20040, o 0x20000] })
    let m (bad : Bool) : Mirror := { id := 9, ag := 1, va := 0x20000, module := 0, buddy := 0, bytes := [], copy := none, failed := bad }
    let w (bad : Bool) : State := { s with mirrors := [m bad] }
    let d := team launch0 (fun a => { flew f a with status := .exiting, live := 0 })
    (s.agentOf 1 = some s.agent ∧ (∀ a ∈ s.others, a.id = 1 → a.status ≠ .vacant) ∧ s.agent.hold = .none ∧ s.agent.wait = .none ∧
      s.agent.inflight = [] ∧ s.isDet s.agent = false ∧ s.mirrors = [] ∧ [o 0x20000, o 0x20040].Perm s.agent.held ∧
      [o 0x20000, o 0x20040].Pairwise (fun a b => a.addr < b.addr) ∧ gives (s.keyOf s.agent (o 0x20000)) (.mem 0x20000) = true) ∧
    (∃ x ∈ (w false).mirrors, x.ag = 1 ∧ x.copy = none ∧ x.failed = false) ∧ (∀ x ∈ (w true).mirrors, x.failed = true) ∧
    (d.agent.live = 0 ∧ f.finished = false ∧ memOp f.instr = some { MemOp.base with load := true } ∧
      ∀ t ∈ f.yetToAct { MemOp.base with load := true } (d.agent.cbmOf 2), mbit f.fmask t = true) := by
  decide +kernel

theorem witness_QuantumCommit :
    let x : Launch := { launch0 with det := true }
    let at1 (c : Nat) (op : DetOp) : DetEntry := { clock := c, op := op }
    let buf := [at1 1023 (.store false 0x20000 [1] false), at1 5 (.atom false 0x20010 [2, 0, 0, 0] false), at1 1024 (.arrive 0)]
    let s := both x (fun a => { a with lclk := 1024, detBuf := buf }) (fun a => { a with lclk := 1024, detBuf := [] })
    let t := both x (fun a => { a with lclk := 1023 }) (fun a => { a with lclk := 1024 })
    let ws := s.agents
    let ats : List DetAt := [{ wid := 0, scratch := s.agent.scratch, entry := at1 5 (.atom false 0x20010 [2, 0, 0, 0] false) }]
    let lim := (x.commits + 1) * (if x.qn = 0 then 1024 else 2 ^ (x.qn + 7))
    s.launchOf 5 = some x ∧ x.det = true ∧ lim = 1024 ∧ s.commitReady 5 x = true ∧ t.commitReady 5 x = false ∧
    (let u := both x (fun a => { a with lclk := 1024 }) (fun a => { a with lclk := 1024 })
     u.commitReady 5 x = true ∧ ∀ a ∈ u.agents, a.detBuf = []) ∧
    (ws.Perm (s.agents.filter (fun a => a.kind == .warp && a.launch == 5)) ∧ ws.Pairwise (fun a b => a.wid.toNat < b.wid.toNat) ∧
      ats.Pairwise (fun y z => ¬(z.entry.clock < y.entry.clock ∨ (y.entry.clock = z.entry.clock ∧ z.wid < y.wid))) ∧
      (∀ y ∈ ats, ∃ a ∈ ws, y.wid = a.wid.toNat) ∧ ∀ a ∈ ws, (a.detBuf.filter (fun e => decide (e.clock < lim))).filter (fun e => match e.op with
        | .atom .. => true
        | _ => false) = (ats.filter (fun y => y.wid == a.wid.toNat)).map (·.entry)) := by
  decide +kernel

/-- The sleeping warps of a launch in order of clock, one of them in a saved image. -/
theorem witness_QuantumCommit_grants :
    let x : Launch := { launch0 with det := true }
    let o : Held := { scr := false, addr := 0x20000, shared := false }
    let late := team x (fun a => { a with lclk := 7, hold := .acq (.mem 0x20000) o .next })
    let s := imageOn [{ mate (team x id).agent with lclk := 5, hold := .clasp 0 false .next }] late
    ∀ p ∈ s.savedAgents, let ws := [p, s.agent]
      s.savedAgents = [p] ∧ s.savedAgents ≠ [] ∧ late.savedAgents = [] ∧ ws.Nodup ∧ (s.agents ++ s.savedAgents).Nodup ∧ p.lclk < s.agent.lclk ∧
      (∀ a ∈ s.agents ++ s.savedAgents, a.kind = .warp ∧ a.launch = 5 ∧ a.status ≠ .retired ∧ a ∈ ws) ∧
      s.images.all s.holdsImage = true := by
  decide +kernel

theorem witness_QuantumCommit_entries :
    let s : State := { both { launch0 with det := true } id id with scratches := [(0, ⟨1024, [], [31]⟩)] }
    let a := s.agent
    let p : State := { s with memPoison := [0x1000] }
    let o : Held := { scr := false, addr := 0x20000, shared := true }
    gives (s.translate a.ctx a.die 0x20000 .write) (page 0x20000) = true ∧ gives (s.translate a.ctx a.die 0x20000 .read) (page 0x20000) = true ∧
    s.poisonedAt (page 0x20000) 8 = false ∧ p.poisonedAt (page 0x20000) 4 = true ∧
    atomResult .add 64 ⟨true, 31, 8⟩ 0 5 0 = some 5 ∧ atomResult .cas 32 ⟨true, 31, 8⟩ 0 5 0 = none ∧ 1016 % 8 = 0 ∧
    1016 / 32 ∈ (s.scratch a.scratch).poison ∧ 0 / 32 ∉ (s.scratch a.scratch).poison ∧ (page 0x20000).place ≠ .remote ∧
    gives (s.keyOf a o) (.mem 0x20000) = true := by
  decide +kernel

/-- The module with the second GiB mapped by a SWEPT page of 64 KiB on die 0, at physical address 0x40000. -/
def swept (s : State) : State :=
  { s with mem := Memory.write (Memory.write (Memory.write s.mem 0x3008 (leBytes 8 0x4001)) 0x4000 (leBytes 8 0x5001)) 0x5000 (leBytes 8 0x4003F) }

/-- What that page is to an access. -/
def sweptPage : Xl := { pa := 0x40000, leaf := { desc := 0x4003F, level := 4, at_ := 0x5000 }, place := .stack 0 }

/-- A part of a copy moved. -/
def went {α : Type} (m : Moved α) : Nat :=
  match m with
  | .fault .. => 0
  | .wait _ => 1
  | .ok .. => 2

/-- A module with a copy of one block in flight. -/
def copying (f : Copy → Copy) : State :=
  let s := team launch0 id
  { s with copies := [f { s.copy0 (L 2 0) .cpy with id := 8, ag := 1, slot := 2, src := 0x30000, dst := 0x31000, blocks := 1 }] }

theorem witness_EngineEvents_copies :
    let s := copying id
    let m : Mirror := { id := 9, ag := 1, va := 0, module := 0, buddy := 0, bytes := [], copy := some 8, failed := false }
    let u : State := { s with mirrors := [m] }
    let off : State := { s with dies := [(0, { s.die 0 with power := .off })] }
    ∀ c ∈ s.copies,
      let far : Copy := { c with src := 0x80000000, dst := 0x80000000 }
      let full : Copy := { c with got := (List.range 16).map (fun i => (i, ([1, 2, 3, 4], [false]))) }
      let two : State := { s with copies := [{ c with id := 7, dst := 0x30000, src := 0x31000 }, c] }
      let w : Copy := { c with srcSp := .s, src := 0, dstSp := .s, dst := 64 }
      let x : Copy := { c with dstSp := .x, dst := 64 }
      let t : State := { s with bufs := [{ Bufs.empty with launch := 5, xsize := 1024 }] }
      let z : State := { s with scratches := [(c.scratch, ⟨1024, [], []⟩)] }
      s.copies.find? (fun y => y.id == 8) = some c ∧ s.copyFirst c = true ∧ (s.die c.die).released = true ∧ (s.die c.die).power = .run ∧
      two.copyFirst c = false ∧ (off.die c.die).power = .off ∧ c.done < c.units ∧ (∀ k ∈ s.mirrors, k.copy ≠ some c.id) ∧
      (∃ k ∈ u.mirrors, k.copy = some c.id ∧ k.failed = false) ∧ c.kind = .cpy ∧
      (c.dstSp = .g ∧ c.srcSp = .g ∧ bit (page 0x31000).leaf.desc 4 = true ∧ s.copyGrain c = 8 ∧ s.copyGrain w = 4 ∧
        (swept s).copyGrain { c with src := 0x40000000 } = 64) ∧
      (∀ p : Fin 16, went (s.srcRead c (4 * p) 4) = 2 ∧ went (s.srcRead far (4 * p) 4) = 0 ∧ went (s.dstWrite full (4 * p) [1, 2, 3, 4] [false]) = 2 ∧
        went (s.dstWrite { full with dst := 0x80000000 } (4 * p) [1, 2, 3, 4] [false]) = 0) ∧
      (List.range 16).filter (fun p => (aget? full.got p).isNone) = [] ∧
      (w.srcSp = .s ∧ w.dstSp = .s ∧ went (z.srcRead w 4 4) = 2 ∧ went (z.dstWrite w 4 [1, 2, 3, 4] [false]) = 2) ∧
      (t.bufsOf x.launch x.die x.core ∈ t.bufs ∧ (t.bufsOf x.launch x.die x.core).launch = x.launch) ∧
      went (s.copyReach c c.src 4 c.src .read) = 2 ∧ fails (s.translate c.ctx c.die 0x80000000 .read) 0x07 = true ∧
      s.pageWait c.die c.ctx 0x80000000 = false ∧ (s.ctx c.ctx).desc.traceMask.getLsbD 2 = false ∧ ∀ a ∈ s.agent :: s.others, a.id = c.ag → a.report = none := by
  decide +kernel

theorem witness_EngineEvents_tensors :
    let x := (copying (fun c => { c with kind := .tstor, entry := entry0 })).copies
    let a : MArg := { w := 0x01000000, e := entry0, x := true, t := false, n := 1 }
    (tFmt entry0 = 2 ∧ tSparse entry0 = 0 ∧ tSwz entry0 = 0 ∧ tSeed entry0 = 0) ∧ (∀ c ∈ x, c.kind = .tstor ∧ c.transposed = false) ∧
    gives ((copying id).translate 1 0 0x20000 .read) (page 0x20000) = true ∧ a.k0 = 0 ∧ tKb entry0 = 128 ∧
    termNan 3 (⟨.nan, 1⟩, .zero) = some 1 ∧ termNan 3 (.zero, .zero) = none ∧
    (match sumVals 3 [(El.int 5 0).v] with
      | .ok v => decide (v.plus (El.int (-5) 0).v = some (El.int 0 0).v ∧ v = (El.int 5 0).v)
      | .error _ => false) = true ∧
    (match sumVals 3 [.inf true] with
      | .ok v => decide (v.plus (.inf false) = none)
      | .error _ => false) = true ∧
    Fmt.fp32.firstNan [0x7FC00001, 0x7FC00002] = some 0x7FC00001 ∧ Fmt.fp32.firstNan [0x3F800000, 0] = none := by
  decide +kernel

theorem witness_EngineEvents_matrix :
    let o : MOp := { id := 9, ag := 7, slot := 1, pc := 0, instr := .mzero (M 1 1), die := 0, cluster := 0, cm := 1, launch := 5, ctx := 1, words := [], entries := [], started := false, pair := none }
    let m : State := { forked id id with mops := [o], bufs := [{ Bufs.empty with launch := 5, csize := 65536 }] }
    let n : State := { m with bufs := [] }
    let off : State := { m with dies := [(0, { m.die 0 with power := .off })] }
    let mac : MOp := { o with instr := .mmac (M 1 1) (.k 0) (.k 1) false 0 false 0, words := [0x01000000, 0x01000000], entries := [entry0, entry0] }
    (m.mops.find? (fun o => o.id == 9) = some o ∧ (m.die 0).released = true ∧ (m.die 0).power = .run ∧ o.ksteps = 0 ∧ o.started = false ∧
      m.mops.filter (fun p => decide (p.id < 9)) = [] ∧ o.cores.findSome? (m.checkCore o) = none) ∧
    (o.cores.findSome? (n.checkCore o)).isSome = true ∧ (off.die 0).power = .off ∧ 0 < mac.ksteps ∧
    (let r : State := { m with mops := [{ o with started := true }] }
     ∀ i ∈ o.cores, r.mbufs o i ∈ r.bufs ∧ (r.mbufs o i).launch = o.launch ∧ (r.mbufs o i).die = o.die ∧ (r.mbufs o i).core = 4 * o.cluster + i) ∧
    (let r : State := { m with mops := [{ mac with started := true }] }
     r.mops.find? (fun o => o.id == 9) = some { mac with started := true } ∧ (r.die 0).withheldM ≤ r.time ∧ ∀ i ∈ mac.cores, r.mbufs mac i ∈ r.bufs) := by
  decide +kernel

/-- A row request of the warp of `at_`, for row 256 of bank 0. -/
def req0 : Req :=
  { id := 4, die := 0, bank := 0, row := 256, op := .addc, elt := .i32, sat := false, now := true, c0 := 1, c1 := 0, ctx := 1, ag := 1, slot := 2
    va := 0x40000000, accepted := false, entry := 0, time := 0 }

/-- That request accepted, in the slot in which its row's restore falls. -/
def due0 : State := { swept (at_ id) with reqs := [{ req0 with accepted := true }], time := 125000 }

theorem witness_SweepEvents_slots :
    let e : Late := { bank := 0, row := 256, visit := 64000000, wrap := 0 }
    let h : State := { due0 with dies := [(0, { due0.die 0 with slot := (due0.die 0).slotAt 125000, demands := 32 })] }
    let o := due0.opened 0
    let u : State := { due0 with dies := [(0, { due0.die 0 with late := [e] })] }
    due0.nextRestore 0 = some e ∧ o.late = [e] ∧ (due0.die 0).slot ≠ (due0.die 0).slotAt due0.time ∧ due0.nextDemand 0 = some (0, 256) ∧
    (at_ id).nextRestore 0 = none ∧ h.nextDemand 0 = none ∧ (u.opened 0).late.find? (fun l => l.bank == 0) = some e ∧
    ((at_ id).opened 0).late = [] ∧ (let r := (at_ id).time * 512 / 250000; r < 65536 ∧ r * 250000 ≤ (at_ id).time * 512 ∧ (at_ id).time * 512 < r * 250000 + 250000) ∧
    125000 * 512 < ((due0.die 0).sweep.start + 65536 * 250000) ∧
    ({ due0 with dies := [(0, { due0.die 0 with sweep := ⟨0, false, none⟩ })], time := 32000001 }).time * 512 ≥ 65536 * 250000 := by
  decide +kernel

theorem witness_SweepEvents_activation :
    let ok : Req := { req0 with accepted := true }
    let two : State := { due0 with reqs := [ok, { ok with id := 5, entry := 1 }] }
    let late : State := { due0 with dies := [(0, { due0.die 0 with slot := (due0.die 0).slotAt 125000, demands := 32 })] }
    due0.reqs.filter (fun q => q.accepted && q.die == 0 && q.bank == 0 && q.row == 256) = [ok] ∧ (due0.ctx 1).desc.traceMask.getLsbD 4 = false ∧
    (two.reqs.filter (fun q => q.accepted && q.die == 0 && q.bank == 0 && q.row == 256)).length = 2 ∧ (two.reqs.map (·.id)).Nodup ∧
    due0.nextDemand 0 ≠ some (0, 257) ∧ due0.rowWait 0 0 256 = false ∧ late.rowWait 0 0 256 = true ∧
    (at_ id).reqs = [] ∧ bit 0x4003F 7 = false ∧ bit 0xBF 7 = true ∧
    (match due0.leafFor 1 0 0x40000000 with
      | .ok l => decide (l.pa 0x40000000 = 0x40000)
      | .error _ => false) = true := by
  decide +kernel

/-- A region of one row, row 256 of bank 0, each sweep from the start. -/
def glaze0 : Region :=
  { ctx := 1, op := .addc, elt := .i32, sat := false, per := 1, c0 := 1, c1 := 0, nrows := 1, pages := [0x40000], first := 0, delta := 0
    base := 0x40000000, desc := 0x20000, t0 := 0, win0 := 0, holds := [], applied := [] }

theorem witness_SweepEvents_glaze :
    let with_ (g : Region) : State := { swept (at_ id) with dies := [(0, { (at_ id).die 0 with regions := [(3, g)] })], time := 125000 }
    let off : Region := { glaze0 with holds := [(100, true)] }
    let free : Region := { glaze0 with holds := [(200, false), (100, true)] }
    let done : Region := { glaze0 with applied := [(0, 1)] }
    let two : Region := { glaze0 with op := .axpby, delta := 1 }
    let ok : Req := { req0 with accepted := true }
    (glaze0.due 0 64000000 = true ∧ off.due 0 64000000 = false ∧ off.due 0 99 = true ∧ free.due 0 64000000 = true ∧
      done.due 0 64000000 = false ∧ done.due 0 (32000000 * 512) = true ∧ { glaze0 with t0 := 64000001 }.due 0 64000000 = false) ∧
    ((with_ glaze0).die 0).regionAt (rowPa 0 0 256) = some (3, glaze0, 0) ∧ ((with_ glaze0).die 0).regionAt (rowPa 0 0 257) = none ∧
    (with_ glaze0).weightOf 0 0 256 64000000 64000000 = 1 ∧ (with_ two).weightOf 0 0 256 64000000 64000000 = 2 ∧
    (with_ done).weightOf 0 0 256 64000000 64000000 = 0 ∧ (with_ done).weightOf 0 0 257 64000000 64000000 = 0 ∧
    ({ with_ done with reqs := [ok] } : State).weightOf 0 0 256 64000000 64000000 = 1 ∧
    (∃ q ∈ ({ with_ done with reqs := [ok] } : State).reqs, q.accepted = true ∧ q.die = 0 ∧ q.bank = 0 ∧ q.row = 256 ∧ q.time * 512 ≤ 64000000) ∧
    (∀ e ∈ (with_ glaze0).ctxs, e.2.desc.traceMask.getLsbD 3 = false ∧ e.2.desc.traceMask.getLsbD 4 = false) ∧
    glaze0.op ≠ .axpby ∧ two.op = .axpby := by
  decide +kernel

theorem witness_SweepEvents_accept :
    let f : Inflight := { flying (.gzreq (L 2 0) (.k 1) (.k 8) (.k 20) .addc .i32 false true) [.k 1] with detached := true }
    let s0 := swept (at_ (flew f))
    let s : State := { s0 with reqs := [req0] }
    let ok : Req := { req0 with accepted := true }
    let early : State := { swept (at_ fun a => { flew f a with inflight := [{ ldFly with slot := 3 }, { f with no := 1 }] }) with reqs := [req0] }
    let full : State := { s with reqs := req0 :: (List.range 16).map (fun i => { ok with id := i + 5, entry := i }) }
    (s.agentOf 1 = some s.agent ∧ s.reqs.find? (fun q => q.ag == 1 && q.slot == 2 && !q.accepted) = some req0 ∧ s.agent.inSlot 2 = some f ∧
      s.agent.reachedAfter f = true ∧ s.agent.posFirst f = true ∧ gives (s.pageAt 1 0 0x40000000 .both) sweptPage = true ∧ sweptPage.leaf.swept = true ∧
      sweptPage.place = .stack 0 ∧ rowOf sweptPage.pa = (0, 0, 256) ∧ s.load 0 256 < 896) ∧
    (early.agent.inSlot 2 = some { f with no := 1 } ∧ early.agent.reachedAfter { f with no := 1 } = false) ∧
    (let p : Inflight := { flying (.gzpos (L 3 0) (.k 6) (.k 8)) [.k 6, .k 7] with slot := 3, detached := true }
     let g := { f with no := 1 }
     let a : Agent := { flew f s.agent with inflight := [p, g] }
     a.inSlot 2 = some g ∧ a.reachedAfter g = true ∧ a.posFirst g = false) ∧
    fails (s.pageAt 1 0 0x80000000 .both) 0x07 = true ∧ s.pageWait 0 1 0x80000000 = false ∧
    ({ s with dies := [(0, { s.die 0 with faults := (List.range 512).map (fun i => (1, i + 40000)) })] } : State).pageWait 0 1 0x80000000 = true ∧
    gives (s.pageAt 1 0 0 .both) (page 0) = true ∧ (page 0).leaf.swept = false ∧
    (∀ i : Fin 16, ∃ p ∈ full.reqs, p.accepted = true ∧ p.die = 0 ∧ p.bank = 0 ∧ p.entry = i.val) ∧ badClamp .i32 5 3 = true := by
  decide +kernel

theorem witness_SweepEvents_budget :
    let s0 := swept (at_ id)
    let s (n : Nat) : State := { s0 with reqs := req0 :: (List.range n).map (fun i => { req0 with accepted := true, id := i + 5, bank := 1 + i / 16, entry := i % 16 }) }
    (s 895).load 0 256 < 896 ∧ 896 ≤ (s 896).load 0 256 ∧ gives ((s 896).pageAt 1 0 0x40000000 .both) sweptPage = true ∧
    (∀ p ∈ (s 895).reqs, ¬(p.accepted = true ∧ p.die = 0 ∧ p.bank = 0 ∧ p.entry = 0)) := by
  decide +kernel

/-- The warp of `team` parked, with an image of zeros but for its length, record and register layout at 0x100000. -/
def parkedAt : State :=
  let s := team { launch0 with groups := [], pair := false } (fun a => { a with status := .parked, image := 0x100000, vn := 8 })
  let w (a : Nat) (b : List Byte) (m : List Host.Cell) := Memory.write m a b
  { s with mem := w 0x100000 (leBytes 4 0x29B0) (w 0x100008 (leBytes 4 0x40) (w 0x102986 (leBytes 4 8) (w 0x10298C (leBytes 4 32) s.mem))) }

theorem witness_PreemptionEvents_brought :
    let s := parkedAt
    (s.agentOf 1 = some s.agent ∧ s.agent.status ≠ .vacant ∧ (s.launchOf s.agent.launch).isSome = true ∧ s.agent.handler = false) ∧
    (match s.imageOf s.agent with
      | some p => decide (p.evict = false)
      | none => false) = true := by
  decide +kernel

theorem witness_PreemptionEvents :
    let x := { launch0 with groups := [], pair := false }
    let s := team x (fun a => { a with wdSignal := true })
    let p := team x (fun a => { a with status := .parked })
    let v : State := { posted 1 1 1 with launches := [(5, x)], agent := { (posted 1 1 1).agent with launch := 5 } }
    let q : QRec := { record := 0x40, vf := 0, poster := none, ready := true, prio := 7, since := 0 }
    let w (i : Nat) : Agent := { v.agent with id := i + 1, wid := BitVec.ofNat 32 i, nw := 16, ridx := i, vn := 256 }
    let full : State := { v with
      agent := w 0, others := (List.range 15).map (fun i => w (i + 1)), queue := [q], dies := [(0, { v.die 0 with cores := 1 })]
      launches := [(5, { x with nx := 16, vn := 256, admitted := List.range 16 })] }
    let e := team x (fun a => { a with status := .evicted })
    (s.agentOf 1 = some s.agent ∧ s.agent.status = .live ∧ s.agent.kind = .warp ∧ s.powered s.agent = true ∧ s.agent.trapDue = true) ∧
    (at_ id).agent.trapDue = false ∧ s.agent.due.isSome ∧
    (p.launchOf 5 = some x ∧ p.agent.status = .parked ∧ p.partner p.agent = none ∧ p.roomFor 5 x 0 0 [p.agent] = true) ∧
    ((full.readyRecs 0).head? = some q ∧ full.placeable q = false ∧ (full.ctx 1).stopped = false ∧
      (full.victims 0 7).length = 16 ∧ (∀ b ∈ full.victims 0 7, lexLt (full.victimRank b) (full.victimRank (w 15)) = false)) ∧
    ((e.evictOrder 5).map (·.id) = [1] ∧ (e.ctx 1).stopped = false ∧ e.readyRecs 0 = [] ∧
      (e.evictedOf 5).filter (fun a => [0].contains a.wid.toNat) = [e.agent] ∧ (List.range 32).find? (fun c => e.roomFor 5 x 0 c [e.agent]) = some 0) ∧
    ((p.bringBack 1 0).isNone = true ∧ p.imageOf p.agent = none ∧ (p.readRun 1 0 0 4).isOk = true ∧ fails (p.readRun 1 0 0x80000000 4) 0x07 = true ∧
      p.agent.readPark 0x40 (List.replicate 0x2700 0) = none) := by
  decide +kernel

/-- A module with a second context on its die, and an exchange requested. -/
def twoCtx : State :=
  let s := team launch0 id
  let x := s.ctx 1
  { s with ctxs := [(1, x), (2, { x with residency := .locket, desc := { x.desc with vf := 1 } })], dies := [(0, { s.die 0 with exchanging := true })] }

theorem witness_PartitionEvents_exchange :
    let s0 := team launch0 id
    let d := s0.die 0
    let x := s0.ctx 1
    let gone : State := { twoCtx with ctxs := [(1, { x with residency := .locket })] }
    let o : MOp := { id := 9, ag := 7, slot := 1, pc := 0, instr := .mzero (M 1 1), die := 0, cluster := 0, cm := 1, launch := 5, ctx := 1, words := [], entries := [], started := true, pair := none }
    d.released = true ∧ (State.reset.die 0).released = false ∧
    (twoCtx.ctxIn 0 .active = some 1 ∧ twoCtx.ctxIn 0 .locket = some 2 ∧ (twoCtx.die 0).exchanging = true ∧ twoCtx.mops = [] ∧ (twoCtx.die 0).power = .run) ∧
    (s0.ctxIn 0 .active = some 1 ∧ s0.ctxIn 0 .locket = none ∧ gone.ctxIn 0 .active = none ∧ gone.ctxIn 0 .locket = some 1) ∧
    (∃ m ∈ { twoCtx with mops := [o] }.mops, m.die = 0) ∧ twoCtx.reqs = [] ∧
    (∀ e ∈ twoCtx.dies, (twoCtx.die e.1).regions = [] ∧ (twoCtx.die e.1).late = []) ∧
    (State.reset.ctxIn 0 .active = none ∧ State.reset.ctxIn 0 .locket = none) ∧
    (let f : Inflight := { ldFly with finished := false, detached := false }
     let a := flew f s0.agent
     f.captured = true ∧ f.pwNo = 0 ∧ (∃ f ∈ a.inflight, f.captured = true ∧ f.slot < 8) ∧ (∀ f ∈ s0.agent.inflight, ¬f.captured = true) ∧ s0.agent.hold = .none) ∧
    (let c (n : Option Nat) : State := { s0 with dies := [(0, { d with cap := n })], ctxs := [(1, { x with desc := { x.desc with cap := 100 } })] }
     (c (some 50)).ctxIn 0 .active = some 1 ∧ (∃ was, ((c (some 50)).die 0).cap = some was ∧ was < min ((c (some 50)).ctx 1).desc.cap 270) ∧
     ((c none).die 0).cap = none ∧ ∃ was, ((c (some 100)).die 0).cap = some was ∧ min ((c (some 100)).ctx 1).desc.cap 270 ≤ was) := by
  decide +kernel

theorem witness_PartitionEvents_watchdog :
    let s0 := team launch0 id
    let x := s0.ctx 1
    let fired : State := { s0 with launches := [(5, { launch0 with wdFired := true })] }
    (s0.launchOf 5 = some launch0 ∧ launch0.wdFired = false ∧ s0.timerRuns 5 = true ∧ launch0.wdStart + 1000 * x.desc.watchdog ≤ s0.time) ∧
    ¬(s0.setCtx 1 { x with desc := { x.desc with watchdog := 1 } }).time ≥ 1000 * 1 ∧
    (fired.timerRuns 5 = true ∧ (∀ a ∈ fired.agents, a.launch = 5 → (fired.ctx a.ctx).suspect = false) ∧ launch0.ended = false) := by
  decide +kernel

theorem witness_PartitionEvents_saved :
    let s0 := team launch0 id
    let d := s0.die 0
    let x := s0.ctx 1
    let stop : State := s0.setCtx 1 { x with stopped := true }
    let go : State := { stop with dies := [(0, { d with exchanging := true })] }
    let p (k : PctlKind) (vf : Nat) : Pctl := { id := 3, kind := k, vf := vf, die := 0, ctx := 1, ag := 1, block := 0x20000, image := some (4, []) }
    let i : Image :=
      { no := 4, ctx := twoCtx.ctx 2, agents := [{ mate s0.agent with ctx := 2 }], regions := [], copies := [], scratches := [], bufs := []
        parks := [], queue := [], reqs := [], grid := [] }
    let saved : State := { twoCtx with ctxs := [(1, x), (2, { twoCtx.ctx 2 with residency := .saved })] }
    ((s0.ctx 2).residency ≠ .active ∧ x.residency = .active ∧ x.stopped = false) ∧
    ((stop.ctx 1).stopped = true ∧ (∀ e ∈ stop.launches, e.2.vf = 0 → e.2.pre = true) ∧ (stop.die 0).exchanging = false) ∧
    (∃ e ∈ { stop with launches := [(5, { launch0 with pre := false })] }.launches, e.2.vf = 0 ∧ e.2.pre = false) ∧
    ((go.die 0).exchanging = true ∧ go.mops = []) ∧
    (∀ k ∈ [PctlKind.stop, .resume, .reset],
      let u : State := { twoCtx with pctls := [p k 1], images := [i] }
      u.pctls.find? (fun q => q.id == 3) = some (p k 1) ∧ u.agentOf 1 = some u.agent ∧ u.ctxOn 1 0 = some 2 ∧
        u.images.find? (fun i => i.no == 4) = some i ∧ (u.ctx 2).residency = .locket ∧ u.canReside 2 = false ∧
        (u.die 0).released = true ∧ (u.die 0).power = .run) ∧
    (∃ e ∈ { go with traces := [(1, 0, [])] }.traces, e.1 = 1) ∧ (∀ e ∈ go.traces, e.1 ≠ 1) ∧
    (saved.restoreCtx 2 i []).isSome = true ∧ (saved.restoreCtx 2 { i with regions := [(0, { glaze0 with base := 0x80000000 })] } []).isNone = true ∧
    (saved.canReside 2 = true ∧ saved.ctxOn 1 0 = some 2 ∧ (saved.ctx 2).residency ≠ .active ∧ (saved.ctx 2).residency ≠ .locket ∧
      saved.ctxIn (saved.ctx 2).die .active = some 1 ∧ saved.images.find? (fun i => i.no == 4) = none) ∧
    (let u : State := { twoCtx.setCtx 1 { x with desc := { x.desc with save := 0x80000000 } } with pctls := [p .stop 0] }
     u.ctxOn 0 0 = some 1 ∧ (u.ctx 1).residency = .active ∧ (u.die 0).exchanging = true ∧ u.mops = [] ∧ u.flushRows 1 = [] ∧ u.traces = [] ∧
     (match u.stopCtx 1 with
       | none => false
       | some t => (t.writeRun 1 0 0 0x20008 (leBytes 8 64)).isOk) = true) ∧
    due0.flushRows 1 ≠ [] ∧
    (s0.ctxOn 0 0 = some 1 ∧ (s0.die 0).exchanging = false) ∧
    (∀ b ∈ i.agents, b.status ≠ .vacant ∧ (twoCtx.launchOf b.launch).isSome = true) := by
  decide +kernel

theorem witness_PartitionEvents_regions :
    let s := swept (at_ id)
    let full : State := { s with dies := [(0, { s.die 0 with regions := (List.range 64).map (fun i => (i, { glaze0 with pages := [0x80000 + 65536 * i] })) })] }
    let heavy : State := { s with reqs := (List.range 896).map (fun i => { req0 with accepted := true, id := i + 5, bank := 1 + i / 16, entry := i % 16 }) }
    (∃ r, s.reregister 1 glaze0 = some r ∧ s.budgetOk 0 r = true ∧ heavy.budgetOk 0 r = false) ∧ aget? (s.die (s.ctx 1).die).regions 0 = none ∧
    s.reregister 1 { glaze0 with base := 0x80000000 } = none ∧ (heavy.reregister 1 glaze0).isSome = true ∧ (full.reregister 1 glaze0).isSome = true ∧
    aget? (full.die (full.ctx 1).die).regions 0 ≠ none ∧ ∀ j : Fin 64, aget? (full.die (full.ctx 1).die).regions j.val ≠ none := by
  decide +kernel

theorem witness_DetachedCompletions :
    let fly (i : Instr) (d : List Reg) (va : DWord) (av : List Word) : Inflight := { flying i d with detached := true, base := va, av := av }
    let g : Region :=
      { ctx := 1, op := .addc, elt := .i32, sat := false, per := 1, c0 := 1, c1 := 0, nrows := 1, pages := [0x40000], first := 0, delta := 0
        base := 0x40000000, desc := 0x20000, t0 := 0, win0 := 0, holds := [], applied := [] }
    let at1 (f : Inflight) : State := swept (at_ (flew f))
    let del := fly (.gzdel (L 2 0) (.imm 63)) [] 0 [63]
    let s := at1 del
    let t : State := { s with dies := [(0, { s.die 0 with regions := [(63, g)] })] }
    let pos := at1 (fly (.gzpos (L 2 0) (.k 6) (.k 8)) [.k 6, .k 7] 0x40000000 [])
    let e : List Word := [0x00010001, 1, 0x40000000, 0, 5, 0, 0, 0, 0, 0, 0, 0, 0, 0, 0, 0]
    let reg := { fly (.gzreg (L 2 0) (.k 6) (.k 8)) [.k 6] 0x20000 [] with dv := [e] }
    let r := at1 reg
    let full : State := { r with dies := [(0, { r.die 0 with regions := (List.range 64).map (fun i => (i, { g with pages := [0x80000 + 65536 * i] })) })] }
    let taken : State := { r with dies := [(0, { r.die 0 with regions := [(0, g)] })] }
    let tab := at1 (fly (.dtld (L 2 0) (.k 8)) [] 0x20000 [])
    let fk := { forked (flew { fly (.fork (L 2 0) (.k 8) (.k 20) 0 false) [] 0 [] with aux := 7 } ∘ fun a => { a with launch := 5 }) (fun a => { a with status := .waiting }) with handles := 9 }
    (s.agentOf 1 = some s.agent ∧ (s.ctx 1).resident = true ∧ s.agent.hold = .none ∧ s.agent.inSlot 2 = some del ∧
      (s.die 0).released = true ∧ (s.die 0).power = .run ∧ s.agent.reachedAfter del = true ∧ aget? (s.die 0).regions (del.av.getD 0 0).toNat = none) ∧
    (aget? (t.die 0).regions (del.av.getD 0 0).toNat).filter (fun g => g.ctx == 1) = some g ∧
    (∀ f ∈ pos.agent.inflight, pos.agent.posFirst f = true) ∧
    (let f := fly (.gzpos (L 2 0) (.k 6) (.k 8)) [.k 6, .k 7] 0x40000000 []
     let g := { f with no := 1 }
     let a : Agent := { s.agent with inflight := [{ f with slot := 3 }, g] }
     a.inSlot 2 = some g ∧ a.reachedAfter g = true ∧ a.posFirst g = false) ∧
    (gives (pos.pageAt 1 0 0x40000000 .read) sweptPage = true ∧ sweptPage.place = .stack 0 ∧ fails (pos.pageAt 1 0 0x80000000 .read) 0x07 = true) ∧
    (gives (r.glazeCheck r.agent 0x20000 (entryNat e)) { g with c0 := 5 } = true ∧ (r.die 0).regions = [] ∧ r.budgetOk 0 { g with c0 := 5 } = true ∧
      (r.die 0).regionAt (g.rowAt 0) = none) ∧
    fails (r.glazeCheck r.agent 0x20000 0) (0x18, 0x20000) = true ∧ (∀ h : Fin 64, (aget? (full.die 0).regions h.val).isSome = true) ∧
    ((taken.die 0).regionAt (g.rowAt 0)).isSome = true ∧
    (tab.readRun 1 0 0x20000 2176).isOk = true ∧ fails (tab.readRun 1 0 0x80000000 2176) 0x07 = true ∧
    (∀ z ∈ fk.others, fk.agentOf 7 = some z ∧ z.status = .waiting ∧ (fk.queueOf z.die z.cluster z.ctx).length < 4) := by
  decide +kernel

theorem witness_DetachedCompletions_early :
    let f : Inflight := { flying (.gzdel (L 2 0) (.imm 63)) [] with detached := true, av := [63], no := 1 }
    let s := at_ fun a => { flew f a with inflight := [{ ldFly with slot := 3 }, f] }
    s.agentOf 1 = some s.agent ∧ s.agent.inSlot 2 = some f ∧
    ¬(∀ g ∈ s.agent.inflight, g.finished = true ∨ f.no ≤ g.no ∨ memOp g.instr = none) := by
  decide +kernel

theorem witness_TidgetWord :
    let s := (at_ regs).setCtx 1 { fetchCtx with tids := [(255, entry0)] }
    good s { needX false [plain (.k 0), plain (.imm 15)] with dst := some (.k 63) } ∧ ¬(255 < 255 ∨ 15 < (s.uval .int (.imm 15)).toNat) ∧
    15 < (s.uval .int (.imm 16)).toNat ∧ (s.tid 1 255).getD 6 0 = 0x20000 ∧ H.wf = true ∧ (Opnd.imm 15).wf = true ∧ (Opnd.k 0).wf = true := by
  decide +kernel

theorem witness_DecodeEncodeAgree : (Instr.iaddV H (.v 255) (.rsv 0x18C) (.imm 128) true).wf = true := by decide

theorem witness_EncodeDecodeAgree : decodeTableWord 64 0x00021C0180281000 = some (.iaddV H (.v 3) (.v 1) (.k 2) false) := by decide

theorem witness_StepRunsDecoded :
    let s := State.reset.withFetchWord 64 0x06001C0000000000
    ({ s with boot := .halted } : State).boot = .halted ∧ s.boot ≠ .halted ∧ s.events = [] ∧ s.sweepDue = none ∧ s.demandWait (page 0x10000) = false ∧ s.limited 0x06001C0000000000 = false ∧
    (match s.act with
      | .agent a => decide (a = s.agent)
      | _ => false) = true ∧
    s.agent.trapDue = false ∧ s.agent.inflight = [] ∧ s.agent.pc % 8 = 0 ∧
    gives (s.translate 1 0 s.agent.pc .fetch) (page 0x10000) = true ∧
    decodeTableWord 64 (leNat (s.bytesAt (page 0x10000) 8)) = some (.nop H) ∧
    (match (State.reset).act with
      | .idle => true
      | _ => false) = true := by
  decide +kernel

theorem witness_StepRunsDecoded_around :
    let s : State := { due0 with blocked := some (0, 0, 256) }
    let old : State := due0.setCtx 1 { due0.ctx 1 with stale := [(0x10000 / 8, [7])] }
    s.blocked = some (0, 0, 256) ∧ due0.blocked = none ∧ due0.traces = [] ∧ due0.agent.handler = false ∧
    aget (due0.ctx due0.agent.ctx).stale [] ((page 0x10000).pa / 8) = [] ∧ aget (old.ctx old.agent.ctx).stale [] ((page 0x10000).pa / 8) = [7] := by
  decide +kernel

theorem witness_StepRunsDecoded_waits :
    let s := State.reset.withFetchWord 64 0x00021C0180281000
    let l : State := { s with dies := [(0, { s.die 0 with withheldV := 1000000 })] }
    let b : State := { due0 with dies := [(0, { due0.die 0 with slot := (due0.die 0).slotAt 125000, demands := 32, weight := 128, late := [] })] }
    (l.limited 0x00021C0180281000 = true ∧ l.agent.trapDue = false ∧ l.sweepDue = none) ∧
    (match due0.sweepDue with
      | some i => decide (i = .rowRestore 0 0)
      | none => false) = true ∧
    b.demandWait sweptPage = true ∧ b.sweepDue = none := by
  decide +kernel

theorem witness_MemoryStaysCanonical : Memory.wf State.reset.mem = true ∧ Memory.wf (at_ id).mem = true := by decide +kernel

theorem witness_Privilege :
    (at_ regs).agent.handler = false ∧ ((at_ regs).ctx (at_ regs).agent.ctx).system = false ∧ (at_ regs).agent.slotBusy 2 = false := by
  decide +kernel

/-- Page tables that map the first GiB to a remote module. -/
def farMem : List Host.Cell :=
  Memory.write (Memory.write (Memory.write [] 0x1000 (leBytes 8 0x2001)) 0x2000 (leBytes 8 0x3001)) 0x3000 (leBytes 8 (2 ^ 51 + 15))

/-- The leaf that they give. -/
def farLeaf : Leaf := { desc := 2 ^ 51 + 15, level := 2, at_ := 0x3000 }

/-- A state whose context 1 reaches a remote module through those tables. -/
structure Far (s : State) : Prop where
  mem : s.mem = farMem
  root : (s.ctx 1).desc.root = 0x1000
  tlb : ∀ e ∈ (s.ctx 1).tlb, e.desc = BitVec.ofNat 64 (2 ^ 51 + 15) ∧ e.level = 2
  link : (s.die 0).bezel.link.getLsbD 0 = true

/-! A warp that is evicted: the place of its image is a free value, so its area is shown writable everywhere. -/

/-- The walk of a VA of the first GiB through tables at 0x1000, 0x2000 and 0x3000 whose leaf is `d`. -/
theorem gib_walk {get : Nat → Nat} {bad : Nat → Option Nat} {d : Nat} (k : bad 0x1000 = none ∧ bad 0x2000 = none ∧ bad 0x3000 = none)
    (hd : bit d 0 = true ∧ descOk 2 d = true ∧ bit d 1 = true)
    (e0 : get 0x1000 = 0x2001) (e1 : get 0x2000 = 0x3001) (e2 : get 0x3000 = d) {va : Nat} (h : va < 2 ^ 30) :
    walk get bad va 5 0 0x1000 = .ok { desc := d, level := 2, at_ := 0x3000 } := by
  have h0 : vaIndex va 0 = 0 := by simp [vaIndex, fld]; omega
  have h1 : vaIndex va 1 = 0 := by simp [vaIndex, fld]; omega
  have h2 : vaIndex va 2 = 0 := by simp [vaIndex, fld]; omega
  have f0 : fld 0x2001 8 44 * 256 = 0x2000 := by decide
  have f1 : fld 0x3001 8 44 * 256 = 0x3000 := by decide
  unfold walk; simp only [h0, Nat.mul_zero, Nat.add_zero, e0, f0, k.1]
  rw [if_neg (by decide), if_neg (by decide), if_neg (by decide)]
  unfold walk; simp only [h1, Nat.mul_zero, Nat.add_zero, Nat.zero_add, e1, f1, k.2.1]
  rw [if_neg (by decide), if_neg (by decide), if_neg (by decide)]
  unfold walk; simp only [h2, Nat.mul_zero, Nat.add_zero, Nat.reduceAdd, e2, k.2.2, hd.1, hd.2.1, hd.2.2]
  rfl

theorem far_desc {s : State} (f : Far s) : s.descAt 0x1000 = 0x2001 ∧ s.descAt 0x2000 = 0x3001 ∧ s.descAt 0x3000 = 2 ^ 51 + 15 := by
  have h : Memory.readNat farMem 0x1000 8 = 0x2001 ∧ Memory.readNat farMem 0x2000 8 = 0x3001 ∧
      Memory.readNat farMem 0x3000 8 = 2 ^ 51 + 15 := by decide +kernel
  have g (a : Nat) (ha : bit a 51 = false) : s.descAt a = Memory.readNat farMem a 8 := by simp [State.descAt, ha, f.mem]
  rw [g _ (by decide), g _ (by decide), g _ (by decide)]; exact h

theorem far_page {s : State} (f : Far s) {va : Nat} (h : va < 2 ^ 30) :
    s.translate 1 0 va .write = .ok ⟨farLeaf.pa va, farLeaf, .remote⟩ := by
  have hl : s.leafFor 1 0 va = .ok farLeaf := by
    obtain ⟨e0, e1, e2⟩ := far_desc f
    have hw : s.walkOf 1 0 va = .ok farLeaf := by
      unfold State.walkOf; rw [f.root]; exact gib_walk ⟨rfl, rfl, rfl⟩ (by decide) e0 e1 e2 h
    simp only [State.leafFor, hw]
    split
    · rfl
    · next e he =>
      obtain ⟨h1, h2⟩ := f.tlb e (List.mem_of_find?_eq_some he)
      rw [if_pos]; rw [h1, h2]; decide
  have hp : placeOf (s.ctx 1).system (farLeaf.pa va) = .ok .remote := by
    have : bit (farLeaf.pa va) 51 = true := by
      have e : farLeaf.pa va = 2 ^ 51 + va := by
        simp [Leaf.pa, farLeaf, fld, pageBits]; omega
      rw [e]; simp [bit, fld]; omega
    simp [placeOf, this]
  have hk : leafOk .write farLeaf = .ok farLeaf := by decide
  have hm : s.mayMark 1 0 farLeaf = true := by
    have : bit farLeaf.desc 7 = false := by decide
    simp [State.mayMark, this]
  simp only [State.translate, State.pageAt, hl, hk, hp]
  rw [if_neg (by omega)]
  simp [State.bezelPasses, f.link, hm]

theorem far_setCtx {s : State} (f : Far s) {x : Ctx} (hr : x.desc.root = 0x1000)
    (ht : ∀ e ∈ x.tlb, e.desc = BitVec.ofNat 64 (2 ^ 51 + 15) ∧ e.level = 2) : Far (s.setCtx 1 x) := by
  refine ⟨f.mem, ?_, ?_, f.link⟩ <;> simpa [State.ctx_setCtx]

theorem far_count {s : State} (f : Far s) {i n : Nat} : Far (s.count 1 i n) := by
  unfold State.count
  split
  · exact f
  · exact far_setCtx f f.root f.tlb

theorem far_countWalk {s : State} (f : Far s) {va : Nat} : Far (s.countWalk 1 va) := by
  unfold State.countWalk; exact far_count (far_count f)

theorem far_cache {s : State} (f : Far s) (va : Nat) : Far (s.cache 1 va farLeaf) := by
  by_cases h : (s.ctx 1).tlb.any (fun e => e.page == va / 2 ^ 16 && e.desc.toNat == farLeaf.desc && e.level == farLeaf.level) = true
  · have : s.cache 1 va farLeaf = s := by simp only [State.cache]; rw [if_pos h]
    rw [this]; exact f
  · simp only [State.cache]; rw [if_neg h]
    apply far_countWalk
    apply far_setCtx f
    · exact f.root
    intro e he
    rcases List.mem_cons.1 he with rfl | he
    · exact ⟨rfl, rfl⟩
    · exact f.tlb e (List.mem_of_mem_filter he)

theorem far_writeAt {s : State} (f : Far s) {va ag : Nat} {bs : List Byte} :
    Far (s.writeAt ⟨farLeaf.pa va, farLeaf, .remote⟩ 1 ag va none bs false) := by
  have h7 : bit farLeaf.desc 7 = false := by decide
  have h6 : bit farLeaf.desc 6 = false := by decide
  have h4 : bit farLeaf.desc 4 = false := by decide
  simp only [State.writeAt, State.noteCode, h4, Bool.false_and, State.writePlace, State.markDirty, State.mirror, h7, h6, Bool.false_eq_true, if_false]
  exact ⟨f.mem, f.root, f.tlb, f.link⟩

theorem far_writeVa {s : State} (f : Far s) {va ag : Nat} (bs : List Byte) (h : va < 2 ^ 30) :
    ∃ t, s.writeVa 1 0 ag va bs = .ok t ∧ Far t :=
  ⟨_, by simp only [State.writeVa, State.writeVaBy, far_page f h]; rfl,
    far_cache (s := (s.writeAt ⟨farLeaf.pa va, farLeaf, .remote⟩ 1 ag va none bs false).count 1 11 bs.length)
      (far_count (far_writeAt f)) va⟩

theorem far_writeBlocks {ag : Nat} (l : List (Nat × Nat)) (h : ∀ r ∈ l, r.1 < 2 ^ 30) : ∀ {s : State} (_ : Far s) (bs : List Byte),
    ∃ t, s.writeBlocks 1 0 ag l bs = .ok t ∧ Far t := by
  induction l with
  | nil => intro s f bs; exact ⟨s, rfl, f⟩
  | cons r l ih =>
    intro s f bs
    obtain ⟨t, e, ft⟩ := far_writeVa f (ag := ag) (bs.take r.2) (h r (by simp))
    obtain ⟨u, e', fu⟩ := ih (fun x hx => h x (by simp [hx])) ft (bs.drop r.2)
    exact ⟨u, by simp only [State.writeBlocks, e]; exact e', fu⟩

theorem blocks_lt (fuel : Nat) : ∀ va n, ∀ r ∈ blocks fuel va n, r.1 < va + n := by
  induction fuel with
  | zero => intro va n r h; simp [blocks] at h
  | succ k ih =>
    intro va n r h
    simp only [blocks] at h
    split at h
    · simp at h
    · rcases List.mem_cons.1 h with rfl | h
      · simp; omega
      · have := ih _ _ r h; omega

theorem far_writeRuns {ag va : Nat} (l : List (Nat × List Byte)) (h : ∀ r ∈ l, va + r.1 + r.2.length ≤ 2 ^ 30) : ∀ {s : State} (_ : Far s),
    ∃ t, s.writeRuns 1 0 ag va l = .ok t := by
  induction l with
  | nil => intro s f; exact ⟨s, rfl⟩
  | cons r l ih =>
    intro s f
    have := h r (by simp)
    obtain ⟨t, e, ft⟩ := far_writeBlocks (ag := ag) (blocks (r.2.length + 1) (va + r.1) r.2.length)
      (fun x hx => by have := blocks_lt _ _ _ x hx; omega) f r.2
    obtain ⟨u, e'⟩ := ih (fun x hx => h x (by simp [hx])) ft
    exact ⟨u, by obtain ⟨o, bs⟩ := r; simp only [State.writeRuns, State.writeRun, e]; exact e'⟩

/-- A warp of launch 5 whose eviction area lies in a remote module. -/
def farState : State :=
  let s := at_ (fun ag => { ag with launch := 5 })
  { s with mem := farMem, launches := [(5, launch0)]
           dies := [(0, { s.die 0 with bezel := { Bezel.closed with link := 1 } })] }

/-- An eviction that is done, wherever its image goes. -/
theorem witness_PreemptionEvents_evicted : ∃ t, farState.evictWarp 1 = some t := by
  have ha : farState.agentOf 1 = some farState.agent := by decide +kernel
  have hv : farState.evictVa 1 = some (65536 * (Config.evictSlot 0 % 4096)) := by
    have hn : ∀ va, (!farState.agents.any (fun a => a.status == .evicted && a.ctx == 1 && a.image == va)) = true := by
      intro va
      have : farState.agents = [farState.agent] := by decide +kernel
      have h2 : (farState.agent.status == .evicted) = false := by decide +kernel
      rw [this]; simp [h2]
    have h1 : (farState.ctx 1).desc.evict = 0 := by decide +kernel
    have h3 : farState.fresh = 0 := by decide +kernel
    unfold State.evictVa
    rw [List.range_succ_eq_map]; dsimp only; rw [List.map_cons, List.find?_cons, hn, h1, h3]
    simp
  have hl : farState.launchOf farState.agent.launch = some launch0 := by decide +kernel
  have hu : ((farState.unhold1 1).upd 1 (fun a => { a.uncounted with wait := .none })).agentOf 1 = some farState.agent := by decide +kernel
  have hd : farState.agent.ctx = 1 ∧ farState.agent.die = 0 ∧ farState.agent.hold = .none ∧ farState.agent.wait = .none := by decide +kernel
  have hf : Far ((farState.unhold1 1).upd 1 (fun a => { a.uncounted with wait := .none })) :=
    ⟨by decide +kernel, by decide +kernel, by decide +kernel, by decide +kernel⟩
  let r := farState.agent.imageRuns launch0.record true
    (farState.agent.frameRuns { cause := 0, mask := 0, addr := 0, fpc := farState.agent.pc, rpc := farState.agent.pc })
  have hb : ∀ x ∈ r, x.1 + x.2.length ≤ 2 ^ 20 := by decide +kernel
  obtain ⟨t, ht⟩ := far_writeRuns (ag := farState.agent.id) (va := 65536 * (Config.evictSlot 0 % 4096)) r
    (fun x hx => by have := hb x hx; have := Nat.mod_lt (Config.evictSlot 0) (show 0 < 4096 by decide); omega) hf
  have hw : farState.wholeStores 1 = farState := by decide +kernel
  unfold State.evictWarp
  simp only [hw, ha, hl, hd.2.2.1, hd.2.2.2, hu, hd.1, hd.2.1, hv]
  rw [show State.writeRuns _ 1 0 farState.agent.id (65536 * (Config.evictSlot 0 % 4096)) _ = .ok t from ht]
  exact ⟨_, rfl⟩

/-! An image in its save area: what the spec does not lay out of its bytes is free, so that it is found is shown of them all. -/

/-- Page tables that map the first GiB to itself. -/
def nearMem : List Host.Cell :=
  Memory.write (Memory.write (Memory.write [] 0x1000 (leBytes 8 0x2001)) 0x2000 (leBytes 8 0x3001)) 0x3000 (leBytes 8 0x1F)

/-- An image with one warp. -/
def image0 : Image :=
  { no := 4, ctx := twoCtx.ctx 2, agents := [{ mate twoCtx.agent with ctx := 2 }], regions := [], copies := [], scratches := [], bufs := []
    parks := [], queue := [], reqs := [], grid := [] }

/-- A module with that image, whose context 2 has its save area at 128 MiB. -/
def savedState (m : List Host.Cell) : State :=
  let x := twoCtx.ctx 1
  { twoCtx with
    mem := m, images := [image0]
    ctxs := [(1, x), (2, { x with residency := .saved, imageNo := some 4, desc := { x.desc with vf := 1, save := 0x8000000 } })] }

theorem near_page {m : List Host.Cell} (e0 : Memory.readNat m 0x1000 8 = 0x2001) (e1 : Memory.readNat m 0x2000 8 = 0x3001)
    (e2 : Memory.readNat m 0x3000 8 = 0x1F) {va : Nat} (h : va < 2 ^ 30) :
    (savedState m).translate 2 0 va .read = .ok ⟨va, { desc := 0x1F, level := 2, at_ := 0x3000 }, .stack 0⟩ := by
  have hx : ((savedState m).ctx 2).desc.root = 0x1000 ∧ ((savedState m).ctx 2).tlb = [] ∧ ((savedState m).ctx 2).system = false := ⟨rfl, rfl, rfl⟩
  have g (a : Nat) (ha : bit a 51 = false) : (savedState m).descAt a = Memory.readNat m a 8 := by simp [State.descAt, ha, savedState]
  have hw : (savedState m).walkOf 2 0 va = .ok { desc := 0x1F, level := 2, at_ := 0x3000 } := by
    unfold State.walkOf
    rw [hx.1]
    exact gib_walk ⟨rfl, rfl, rfl⟩ (by decide) (by rw [g _ (by decide), e0]) (by rw [g _ (by decide), e1]) (by rw [g _ (by decide), e2]) h
  have hl : (savedState m).leafFor 2 0 va = .ok { desc := 0x1F, level := 2, at_ := 0x3000 } := by
    simp only [State.leafFor, hx.2.1, List.find?_nil, hw]
  have hpa : ({ desc := 0x1F, level := 2, at_ := 0x3000 } : Leaf).pa va = va := by
    simp [Leaf.pa, fld, pageBits]; omega
  have hp : placeOf false va = .ok (.stack 0) := by
    have h51 : bit va 51 = false := by simp [bit, fld]; omega
    have h50 : bit va 50 = false := by simp [bit, fld]; omega
    have h41 : fld va 41 9 = 0 := by simp [fld]; omega
    have h36 : fld va 36 5 = 0 := by simp [fld]; omega
    simp [placeOf, h51, h50, h41, h36]
  have hk : leafOk .read { desc := 0x1F, level := 2, at_ := 0x3000 } = .ok { desc := 0x1F, level := 2, at_ := 0x3000 } := by decide
  simp only [State.translate, State.pageAt, hl, hk, hpa, hx.2.2, hp]
  rw [if_neg (by omega)]
  rfl

/-- A run of the first GiB reads as memory holds it. -/
theorem near_read {m : List Host.Cell} (e0 : Memory.readNat m 0x1000 8 = 0x2001) (e1 : Memory.readNat m 0x2000 8 = 0x3001)
    (e2 : Memory.readNat m 0x3000 8 = 0x1F) (fuel : Nat) : ∀ va n, n < fuel → va + n ≤ 2 ^ 30 →
    (savedState m).readBlocks 2 0 (blocks fuel va n) = .ok (Memory.read m va n) := by
  induction fuel with
  | zero => intro va n h; omega
  | succ f ih =>
    intro va n h hv
    simp only [blocks]
    split
    · next h0 => subst h0; rfl
    · have hk : 0 < min n (64 - va % 64) ∧ min n (64 - va % 64) ≤ n := by omega
      have e : (savedState m).readVa 2 0 va (min n (64 - va % 64)) = .ok (Memory.read m va (min n (64 - va % 64))) := by
        simp only [State.readVa, near_page e0 e1 e2 (show va < 2 ^ 30 by omega)]; rfl
      simp only [State.readBlocks, e, ih (va + min n (64 - va % 64)) (n - min n (64 - va % 64)) (by omega) (by omega)]
      congr 1
      obtain ⟨k, hk'⟩ : ∃ k, min n (64 - va % 64) = k := ⟨_, rfl⟩
      rw [hk'] at hk ⊢
      obtain ⟨j, rfl⟩ : ∃ j, n = k + j := ⟨n - k, by omega⟩
      simp only [Memory.read, Nat.add_sub_cancel_left, List.range_add, List.map_append, List.map_map]
      congr 2
      funext i; simp [Nat.add_assoc]

/-- A number below a run that is written reads as before. -/
theorem readNat_write_below (m : List Host.Cell) (a : Nat) (bs : List Byte) {p n : Nat} (h : p + n ≤ a) :
    Memory.readNat (Memory.write m a bs) p n = Memory.readNat m p n := by
  unfold Memory.readNat Memory.read
  congr 1
  refine List.map_congr_left (fun i hi => ?_)
  have := List.mem_range.1 hi
  rw [Memory.get_write, if_neg (by omega)]

theorem image0_len : image0.bytes.length = image0.len ∧ image0.len < 2 ^ 29 := by
  refine ⟨by simp [Image.bytes], ?_⟩
  have h1 : image0.warpSection.len = 0 := by decide +kernel
  have h2 : (Section.of ((List.range 8).flatMap image0.queueBytes ++ (List.range 256).flatMap image0.ctx.arrivalBytes)).len < 2 ^ 16 := by
    decide +kernel
  have h3 : (Section.of (image0.copies.flatMap image0.copyBytes)).len = 0 := by decide +kernel
  have h4 : (Section.of (image0.regions.flatMap (fun e => e.2.bytes))).len = 0 := by decide +kernel
  have h5 : (Section.of image0.ctx.tableBytes).len < 2 ^ 16 := by decide +kernel
  have h6 : (Section.of image0.ctx.counterBytes).len < 2 ^ 16 := by decide +kernel
  have h7 : (Section.of (image0.grid.flatMap (fun e => leBytes 8 e.1 ++ leBytes 8 e.2))).len = 0 := by decide +kernel
  have h8 := Nat.mod_lt (Config.imageUnits image0.no) (show 0 < 65536 by decide)
  rw [Image.len, Image.sections]
  simp only [List.map_cons, List.map_nil, total, List.foldl_cons, List.foldl_nil]
  generalize image0.warpSection.len = n1 at *
  generalize (Section.of ((List.range 8).flatMap image0.queueBytes ++ (List.range 256).flatMap image0.ctx.arrivalBytes)).len = n2 at *
  generalize (Section.of (image0.copies.flatMap image0.copyBytes)).len = n3 at *
  generalize (Section.of (image0.regions.flatMap (fun e => e.2.bytes))).len = n4 at *
  generalize (Section.of image0.ctx.tableBytes).len = n5 at *
  generalize (Section.of image0.ctx.counterBytes).len = n6 at *
  generalize (Section.of (image0.grid.flatMap (fun e => leBytes 8 e.1 ++ leBytes 8 e.2))).len = n7 at *
  generalize Config.imageUnits image0.no % 65536 = n8 at *
  unfold headerLen coreImage
  omega

/-- The image is found where its bytes stand, whatever they are. -/
theorem witness_PartitionEvents_image :
    (savedState (Memory.write nearMem 0x8000000 image0.bytes)).imageIn 2 = some (image0, image0.bytes) := by
  have hr : ∀ m, (savedState m).asWritten 2 = savedState m := fun m => rfl
  have ht : Memory.readNat nearMem 0x1000 8 = 0x2001 ∧ Memory.readNat nearMem 0x2000 8 = 0x3001 ∧ Memory.readNat nearMem 0x3000 8 = 0x1F := by
    decide +kernel
  obtain ⟨hl, hs⟩ := image0_len
  generalize hb : image0.bytes = bs at hl ⊢
  have e (p : Nat) (h : p + 8 ≤ 0x8000000) := readNat_write_below nearMem 0x8000000 bs h
  have hn := near_read ((e _ (by decide)).trans ht.1) ((e _ (by decide)).trans ht.2.1) ((e _ (by decide)).trans ht.2.2)
    (image0.len + 1) 0x8000000 image0.len (by omega) (by omega)
  rw [← hl, Memory.read_write] at hn
  have hk : image0.names bs = true := by simp [Image.names, hb]
  have hi : ∀ m, (savedState m).images = [image0] ∧ ((savedState m).ctx 2).die = 0 ∧ ((savedState m).ctx 2).desc.save = 0x8000000 := fun m => ⟨rfl, rfl, rfl⟩
  simp only [State.imageIn, hr, (hi _).1, (hi _).2.1, (hi _).2.2, State.readRun, List.findSome?_cons, ← hl, hn, hk, if_true]

end Sys2Proof.Tests
end

section
/-! Byte order (R4): the bytes of numbers in memory, the word that a fetch answers, and register pairs. -/

namespace Sys2Proof.Machine

/-! ## The bytes of a number -/

theorem leNat_cons (b : Byte) (bs : List Byte) : leNat (b :: bs) = 256 * leNat bs + b.toNat := rfl

theorem leNat_lt (bs : List Byte) : leNat bs < 256 ^ bs.length := by
  induction bs with
  | nil => simp [leNat]
  | cons b bs ih =>
    have hb : b.toNat < 256 := b.isLt
    rw [leNat_cons, List.length_cons, Nat.pow_succ']
    omega

/-- Byte `i` of a number, counted from the lowest, is byte `i` of its list. -/
theorem leNat_byte (bs : List Byte) (i : Nat) : leNat bs / 256 ^ i % 256 = (bs.getD i 0).toNat := by
  induction bs generalizing i with
  | nil => simp [leNat]
  | cons b bs ih =>
    have hb : b.toNat < 256 := b.isLt
    rw [leNat_cons]
    cases i with
    | zero =>
      rw [Nat.pow_zero, Nat.div_one, List.getD_cons_zero]
      omega
    | succ i =>
      have tail : (256 * leNat bs + b.toNat) / 256 = leNat bs := by omega
      rw [Nat.pow_succ', ← Nat.div_div_eq_div_mul, tail, ih, List.getD_cons_succ]

theorem leBytes_getD {n i : Nat} (w : Nat) (h : i < n) : (leBytes n w).getD i 0 = BitVec.ofNat 8 (w / 256 ^ i) := by
  simp [leBytes, h]

@[simp] theorem Memory.read_length (m : List Host.Cell) (a n : Nat) : (Memory.read m a n).length = n := by
  simp [Memory.read]

theorem Memory.read_getD (m : List Host.Cell) (a : Nat) {n i : Nat} (h : i < n) :
    (Memory.read m a n).getD i 0 = Memory.get m (a + i) := by
  simp [Memory.read, h]

/-- A number written in `n` bytes has byte `i` at the address `i` above its own. -/
theorem Memory.get_write_leBytes (m : List Host.Cell) (a w : Nat) {n i : Nat} (h : i < n) :
    Memory.get (Memory.write m a (leBytes n w)) (a + i) = BitVec.ofNat 8 (w / 256 ^ i) := by
  have inside : a ≤ a + i ∧ a + i < a + (leBytes n w).length := by rw [leBytes_length]; omega
  rw [Memory.get_write, if_pos inside, Nat.add_sub_cancel_left, leBytes_getD w h]

/-- Byte `i` of the bytes read at an address is the one at the address `i` above it. -/
theorem leNat_read_byte (m : List Host.Cell) (a : Nat) {n i : Nat} (h : i < n) :
    leNat (Memory.read m a n) / 256 ^ i % 256 = (Memory.get m (a + i)).toNat := by
  rw [leNat_byte, Memory.read_getD m a h]

/-! ## The word fetched -/

@[simp] theorem State.bytesAt_length (s : State) (x : Xl) (n : Nat) : (s.bytesAt x n).length = n := by
  unfold State.bytesAt
  split
  · simp
  · exact Memory.read_length _ _ _

theorem State.bytesAt_near (s : State) (x : Xl) (n : Nat) (h : x.place ≠ .remote) :
    s.bytesAt x n = Memory.read s.mem x.pa n := by
  unfold State.bytesAt
  split
  · next hr => exact absurd hr h
  · rfl

/-- Where no store has replaced the word since the last dispatch, the word fetched is memory's (R67). -/
theorem State.codeAt_unreplaced (s : State) (x : Xl) (h : aget (s.ctx s.agent.ctx).stale [] (x.pa / 8) = []) :
    s.codeAt x = leNat (s.bytesAt x 8) := by
  simp only [State.codeAt, h]

/-- The word fetched is memory's, or one of those that a store has replaced since the last dispatch (R67). -/
theorem State.codeAt_cases (s : State) (x : Xl) : s.codeAt x = leNat (s.bytesAt x 8) ∨
    ∃ v ∈ aget (s.ctx s.agent.ctx).stale [] (x.pa / 8), s.codeAt x = v.toNat := by
  unfold State.codeAt
  generalize aget (s.ctx s.agent.ctx).stale [] (x.pa / 8) = old
  dsimp only
  split
  · exact .inl rfl
  · generalize Config.staleWord s.fresh % (old.length + 1) = i
    cases i with
    | zero => exact .inl rfl
    | succ i =>
      rw [List.getD_cons_succ, List.getD_eq_getElem?_getD, List.getElem?_map]
      cases found : old[i]? with
      | none => exact .inl rfl
      | some v => exact .inr ⟨v, List.mem_of_getElem? found, rfl⟩

/-- An instruction word has 64 bits, whether it is memory's or one that a store has replaced. -/
theorem State.codeAt_lt (s : State) (x : Xl) : s.codeAt x < 2 ^ 64 := by
  obtain now | ⟨v, -, replaced⟩ := s.codeAt_cases x
  · have bytes := leNat_lt (s.bytesAt x 8)
    rw [State.bytesAt_length] at bytes
    rw [now]
    exact bytes
  · rw [replaced]
    exact v.isLt

/-- A fetch that answers had an aligned PC whose translation it found, and its word is the code there as the state after it has it. -/
theorem State.fetch_ok {s u : State} {w : Nat} (h : s.fetch = .ok (w, u)) :
    s.agent.pc % 8 = 0 ∧ ∃ x, s.translate s.agent.ctx s.agent.die s.agent.pc .fetch = .ok x ∧ w = u.codeAt x := by
  unfold State.fetch at h
  dsimp only at h
  split at h
  · cases h
  · split at h
    · cases h
    · next aligned =>
      split at h
      · cases h
      · next x translated =>
        cases h
        exact ⟨not_not.1 aligned, x, translated, rfl⟩

/-- A word that memory supplies has the byte at the physical address plus `i` as its byte `i`. -/
theorem State.codeAt_byte (s : State) (x : Xl) (near : x.place ≠ .remote)
    (unreplaced : aget (s.ctx s.agent.ctx).stale [] (x.pa / 8) = []) {i : Nat} (h : i < 8) :
    s.codeAt x / 256 ^ i % 256 = (Memory.get s.mem (x.pa + i)).toNat := by
  rw [s.codeAt_unreplaced x unreplaced, s.bytesAt_near x 8 near, leNat_read_byte s.mem x.pa h]

/-! ## Register pairs -/

theorem Agent.kpair_low (ag : Agent) (n : Nat) : ag.kpair n % 2 ^ 32 = (ag.kreg n).toNat := by
  rw [Agent.kpair, Nat.add_mul_mod_self_left, Nat.mod_eq_of_lt (ag.kreg n).isLt]

theorem Agent.kpair_high (ag : Agent) (n : Nat) : ag.kpair n / 2 ^ 32 = (ag.kreg (n + 1)).toNat := by
  rw [Agent.kpair, Nat.add_mul_div_left _ _ (by decide), Nat.div_eq_of_lt (ag.kreg n).isLt, Nat.zero_add]

theorem Agent.kreg_setPair (ag : Agent) (n w j : Nat) : (ag.setPair n w).kreg j =
    if j = n then BitVec.ofNat 32 w else if j = n + 1 then BitVec.ofNat 32 (w / 2 ^ 32) else ag.kreg j := by
  rw [Agent.setPair, Agent.kreg_setK, Agent.kreg_setK]
  by_cases low : j = n
  · subst low
    simp
  · simp only [low, if_false, eq_comm (b := j)]

/-- Settles O54: a number's bytes, a fetched word's bytes and a pair's halves each stand lowest first. -/
theorem littleEndian : Obligations.LittleEndian := by
  unfold Obligations.LittleEndian
  refine ⟨fun m a n w i => Memory.get_write_leBytes m a w, fun m a n i => leNat_read_byte m a, fun s u w h => ?_,
    fun ag n => ⟨ag.kpair_low n, ag.kpair_high n⟩, Agent.kreg_setPair⟩
  obtain ⟨aligned, x, translated, rfl⟩ := State.fetch_ok h
  exact ⟨aligned, u.codeAt_lt x, x, translated, fun near unreplaced i => u.codeAt_byte x near unreplaced⟩

end Sys2Proof.Machine
end

section
/-! Operand specifiers (R29): the rows that name a register or supply a constant, and the two ranges of reserved codes. -/

namespace Sys2Proof

/-- The codes between the flags' row and the affine registers' are reserved. -/
theorem opnd_reserved_afterFlags {n : Nat} (low : 0x18C ≤ n) (high : n ≤ 0x1FF) : opnd n = .rsv (BitVec.ofNat 10 n) := by
  unfold opnd
  iterate 5 rw [if_neg (by omega)]
  rw [if_pos (by omega)]

/-- The codes between a.lane and the immediates are reserved. -/
theorem opnd_reserved_afterLane {n : Nat} (low : 0x221 ≤ n) (high : n ≤ 0x2FF) : opnd n = .rsv (BitVec.ofNat 10 n) := by
  unfold opnd
  iterate 8 rw [if_neg (by omega)]
  rw [if_pos (by omega)]

end Sys2Proof

namespace Sys2Proof.Machine

/-- The value of an immediate in an integer operation is its signed byte (R31). -/
theorem State.uval_int_imm (s : State) (i : BitVec 8) : s.uval .int (.imm i) = BitVec.ofInt 32 i.toInt := rfl

/-- Settles O50: a row of a register or constant holds the codes of its operands, which decode to them; the rest is reserved. -/
theorem specifiers : Obligations.Specifiers := by
  unfold Obligations.Specifiers
  exact ⟨fun n => opnd_code (.v n) rfl, fun n => opnd_code (.k n) rfl, fun i => opnd_code (.sp i) rfl,
    fun n => opnd_code (.p n) rfl, fun n => opnd_code (.b n) rfl, fun _ => opnd_reserved_afterFlags,
    fun n => opnd_code (.a n) rfl, opnd_code .lane rfl, fun _ => opnd_reserved_afterLane,
    fun i => ⟨opnd_code (.imm i) rfl, fun s => s.uval_int_imm i⟩⟩

end Sys2Proof.Machine
end

section
/-! Words of class X whose effect is on their agent alone, and TIDGET (R130, R388): how it runs and how it is encoded. -/

namespace Sys2Proof

/-! ## The encoding -/

/-- The guard of a word of class U, A or X is the one that its fields name, where it is among those admitted (R59). -/
theorem Fields.guardS_of (f : Fields) (g : Guard) (wf : g.wf = true) (pred : f.pred = g.pred) (pn : f.pn = g.pn) :
    f.guardS = .ok g := by
  cases g with
  | always => simp [Fields.guardS, Fields.guard, pred, pn, Guard.pred, Guard.pn]
  | on n neg =>
    have admitted : n.val < 4 := of_decide_eq_true wf
    have named : n.val ≠ 7 := by omega
    cases neg <;> simp [Fields.guardS, Fields.guard, pred, pn, Guard.pred, Guard.pn, admitted, named]

/-- The head of a short word of class U, A or X comes back from the fields it is laid out in. -/
theorem headS_of (h : Head) (wf : h.wf = true) (op d a b x : Nat) :
    Fields.headS { nas := h.nas.code, op := op, la := 0, pred := h.g.pred, pn := h.g.pn, d := d, a := a, b := b, x := x } = .ok h := by
  unfold Fields.headS Fields.head
  rw [Fields.guardS_of _ h.g wf rfl rfl]
  simp [need0, check, bind, Except.bind]

/-- Operation 0x44 of class X is TIDGET, and its X field is reserved (R130). -/
theorem Fields.decodeX_tidget {f : Fields} {h : Head} (head : f.headS = .ok h) (x : f.x = 0) :
    f.decodeX 0x44 = .ok (.tidget h (opnd f.d) (opnd f.a) (opnd f.b)) := by
  simp [Fields.decodeX, head, x, fld, need0, check, bind, Except.bind]

/-- OP 0x344 is assigned to operation 0x44 of class X in the default table. -/
theorem decodeFull_tidget {f : Fields} (op : f.op = 0x344) : decodeFull none f = f.decodeX 0x44 := by
  have assigned : Table.opcode none 0x344 = some 0x344 := by decide
  unfold decodeFull
  rw [op, assigned]
  rfl

/-- The word of a TIDGET whose operands and guard are well-formed decodes to it. -/
theorem decode_tidget (h : Head) (d a b : Opnd) (hh : h.wf = true) (hd : d.wf = true) (ha : a.wf = true) (hb : b.wf = true) :
    decode none (wordOf h 0x344 d.code a.code b.code 0) = .ok (.tidget h d a b) := by
  rw [decode_wordOf h (by decide) d.code_lt a.code_lt b.code_lt (by decide), decodeFull_tidget rfl,
    Fields.decodeX_tidget (headS_of h hh ..) rfl, opnd_code d hd, opnd_code a ha, opnd_code b hb]

end Sys2Proof

namespace Sys2Proof.Machine

/-! ## Words of class X -/

/-- A word whose checks pass and whose own effect faults raises the fault. -/
theorem State.issue_bad {s : State} {nas : Nas} {need : Need} {body : State → Res} {f : Flt}
    (hp : s.passes nas need true) (hb : body s = .bad f) : s.issue nas need true body = s.raise f := by
  obtain ⟨unchecked, framed, -⟩ := hp
  simp only [State.issue, State.issueAfter, unchecked, framed, if_true, hb]

/-- How a word of class X runs whose own effect faults with `bad`, or makes `ag` of its agent and changes nothing in it that NAS checks. -/
theorem State.runsX_of {s : State} {i : Instr} {h : Head} {n : Need} {body : State → Res} {bad : Option Flt} {ag : Agent}
    (runs : exec i s = .next (s.xword h n body)) (faults : ∀ f, bad = some f → body s = .bad f)
    (acts : bad = none → body s = .ok { s with agent := ag } s.npc) (link : ag.link = s.agent.link)
    (loops : ag.loops = s.agent.loops) (pc : ag.pc = s.agent.pc) (kind : ag.kind = s.agent.kind) :
    s.runsX i h n bad (fun t => t = ag) := by
  unfold State.xword at runs
  refine ⟨fun c stop => ?_, fun hp taken f hf => ?_, fun hp free => ?_⟩
  · rw [runs, State.issue_stopped stop]
  · rw [taken] at runs hp
    rw [runs, State.issue_bad hp (faults f hf)]
  · rw [runs]
    cases taken : s.agent.guardU h.g with
    | true =>
      rw [taken] at hp
      obtain ⟨t, ht, issued⟩ := State.issue_issued (u := s) rfl hp (acts (free taken)) link loops pc kind
      exact ⟨t, ag, congrArg _ ht, issued, rfl⟩
    | false =>
      rw [taken] at hp
      obtain ⟨t, ht, issued⟩ := State.issue_issued (body := body) (u := s) rfl hp rfl rfl rfl rfl rfl
      exact ⟨t, s.agent, congrArg _ ht, issued, rfl⟩

/-- What is known of the agent that a word of class X makes may be said more weakly. -/
theorem State.runsX_imp {s : State} {i : Instr} {h : Head} {n : Need} {bad : Option Flt} {P Q : Agent → Prop}
    (runs : s.runsX i h n bad P) (weaker : ∀ ag, P ag → Q ag) : s.runsX i h n bad Q := by
  obtain ⟨stops, faults, issues⟩ := runs
  refine ⟨stops, faults, fun hp free => ?_⟩
  obtain ⟨t, ag, ht, issued, made⟩ := issues hp free
  refine ⟨t, ag, ht, issued, ?_⟩
  split_ifs at made ⊢
  · exact weaker ag made
  · exact made

/-! ## TIDGET -/

/-- The result of a uniform word whose value is not clamped goes to a k register whole. -/
theorem effU_k (n : Fin 64) (w : Word) (ag : Agent) : effU (.k n) { r := w } ag = ag.setK n w := rfl

/-- TIDGET raises 0x0E for an index of no entry and for a word index above 15; otherwise its destination gets the entry's word (R388). -/
theorem State.runsX_tidget (s : State) (h : Head) (d a b : Opnd) :
    let i := (s.uval .int a).toNat
    let j := (s.uval .int b).toNat
    s.runsX (.tidget h d a b) h { needX false [plain a, plain b] with dst := some d }
      (if 255 < i ∨ 15 < j then some (s.agent.flt 0x0E) else none)
      (fun t => t = effU d { r := (s.tid s.agent.ctx i).getD j 0 } s.agent) := by
  intro i j
  have frame := (effU_wrote s.agent d { r := (s.tid s.agent.ctx i).getD j 0 }).frame
  refine State.runsX_of rfl (fun f hf => ?_) (fun hf => ?_) (by rw [frame]) (by rw [frame]) (by rw [frame]) (by rw [frame])
  · obtain ⟨outside, ⟨⟩⟩ := Option.ite_none_right_eq_some.1 hf
    exact if_pos (by simpa using outside)
  · have inside : ¬(255 < i ∨ 15 < j) := fun outside => by simp [outside] at hf
    exact if_neg (by simpa using inside)

/-- Settles O51: TIDGET leaves a word of an entry in its k register, faults outside the entries and their words, and decodes from its
encoding. -/
theorem tidgetWord : Obligations.TidgetWord := by
  unfold Obligations.TidgetWord
  intro h n a b s i j
  refine ⟨State.runsX_imp (s.runsX_tidget h (.k n) a b) ?_, fun hh ha hb => decode_tidget h (.k n) a b hh rfl ha hb⟩
  rintro ag rfl
  refine ⟨rfl, fun m => ?_⟩
  rw [effU_k, Agent.kreg_setK]
  simp only [eq_comm (a := m), i, j]

end Sys2Proof.Machine
end

section
/-! The end of a launch (R206), and the launch with no warps (R208), which ends as it is dispatched. -/

namespace Sys2Proof.Machine

/-! ## What a dispatched record is made into -/

/-- A launch has no warps exactly where one of its dimensions is 0. -/
theorem Launch.warps_eq_zero (x : Launch) : x.warps = 0 ↔ x.nx = 0 ∨ x.ny = 0 ∨ x.nz = 0 := by
  rw [Launch.warps, Nat.mul_eq_zero, Nat.mul_eq_zero, or_assoc]

/-- A record taken as a launch is the launch of its fields and groups. -/
theorem State.takeRecord_launch {s : State} {q : QRec} {n : Nat} {x : Launch} (taken : s.takeRecord q = .launch n x) :
    ∃ c gs, x = launchOfRec n q.record c q.vf q.prio s.time gs := by
  unfold State.takeRecord at taken
  split at taken
  · cases taken
  · next _ c _ =>
    split at taken
    · cases taken
    · split_ifs at taken
      split at taken
      · cases taken
      · next gs _ =>
        split_ifs at taken
        obtain ⟨rfl, rfl⟩ := Taken.launch.inj taken
        exact ⟨c, gs, rfl⟩

/-- A launch just taken from its record has released no successors. -/
theorem State.takeRecord_unreleased {s : State} {q : QRec} {n : Nat} {x : Launch} (taken : s.takeRecord q = .launch n x) :
    x.released = false := by
  obtain ⟨c, gs, rfl⟩ := State.takeRecord_launch taken
  rfl

/-- The state after a record has left the queues as launch `x`: the launch has a handle of its own, and its virtual device's stale entries
are dropped. -/
def State.launched (s : State) (q : QRec) (x : Launch) : State :=
  { s with
    queue := s.queue.filter (fun y => !(y.vf == q.vf && y.record == q.record)), launches := aset s.launches (s.handles + 1) x
    handles := s.handles + 1
    ctxs := s.ctxs.map (fun e => if e.2.desc.vf = q.vf then (e.1, { e.2 with stale := [] }) else e) }

theorem State.launchOf_launched (s : State) (q : QRec) (x : Launch) : (s.launched q x).launchOf (s.handles + 1) = some x := by
  simp [State.launchOf, State.launched, aget?_aset]

/-- A record that is taken as a launch becomes one, which retires at once where it has no warps (R208). -/
theorem State.dispatch_launch {s : State} {q : QRec} {d c n : Nat} {x : Launch} (die : Nat) (home : s.vfHome q.vf = some (d, c))
    (taken : s.takeRecord q = .launch n x) :
    s.dispatch q die = if x.warps = 0 then (s.launched q x).retireLaunch (s.handles + 1) 0 else s.launched q x := by
  have home' : State.vfHome { s with queue := s.queue.filter (fun y => !(y.vf == q.vf && y.record == q.record)) } q.vf = some (d, c) :=
    home
  simp only [State.dispatch, taken, home', State.launched]

/-! ## The end of a launch -/

theorem aget?_adel_self {α : Type} (m : Assoc α) (k : Nat) : aget? (adel m k) k = none := by
  simp [aget?, adel, List.find?_eq_none]

/-- A completion word that can be written is written. -/
theorem State.putCompletion_written {s v : State} {c die a st : Nat}
    (written : s.writeRun c die 0 a (leBytes 8 (completionWord st s.time)) = .ok v) : s.putCompletion c die a st = v := by
  rw [State.putCompletion, written]

/-- The state without a launch: its entry, agents, scratch, buffers and rounds are gone (R206). -/
def State.dropLaunch (s : State) (l : Nat) : State :=
  let mine (a : Agent) : Bool := a.launch == l && !(a.status == .vacant)
  let scr := (s.agents.filter mine).map (·.scratch)
  { s with
    agent := if mine s.agent then Agent.vacant else s.agent, others := s.others.filter (fun a => !mine a)
    launches := adel s.launches l, bufs := s.bufs.filter (fun b => !(b.launch == l))
    scratches := s.scratches.filter (fun e => !scr.contains e.1), rounds := s.rounds.filter (fun r => !(r.launch == l)) }

/-- A launch that has released no successors retires: its completion word, then its successors, then nothing of it is left. -/
theorem State.retireLaunch_retired {s : State} {l : Nat} {x : Launch} (hx : s.launchOf l = some x) (unreleased : x.released = false) :
    s.retireLaunch l 0 = ((s.putCompletion x.ctx (s.ctx x.ctx).die x.cword 0).releaseSuccs x.ctx (s.ctx x.ctx).die x.vf x.succ
      x.scnt).dropLaunch l := by
  simp [State.retireLaunch, hx, unreleased, State.dropLaunch]

@[simp] theorem State.mem_dropLaunch (s : State) (l : Nat) : (s.dropLaunch l).mem = s.mem := rfl

@[simp] theorem State.queue_dropLaunch (s : State) (l : Nat) : (s.dropLaunch l).queue = s.queue := rfl

@[simp] theorem State.launchOf_dropLaunch_self (s : State) (l : Nat) : (s.dropLaunch l).launchOf l = none :=
  aget?_adel_self s.launches l

/-- No agent of a launch that is gone is left. -/
theorem State.launch_ne_of_mem_agents_dropLaunch {s : State} {l : Nat} {a : Agent} (there : a ∈ (s.dropLaunch l).agents) :
    a.launch ≠ l := by
  intro same
  obtain ⟨place, occupied⟩ := List.mem_filter.1 there
  rcases List.mem_cons.1 place with current | other
  · simp only [State.dropLaunch] at current
    split_ifs at current with mine
    · exact absurd occupied (by simp [current, Agent.vacant])
    · exact mine (by simpa [← current, same] using occupied)
  · exact absurd occupied (by simpa [same] using (List.mem_filter.1 other).2)

/-! ## The launch with no warps -/

/-- Settles O40: a launch with no warps is retired by its dispatch, its completion word carrying ST = 000. -/
theorem emptyLaunch : Obligations.EmptyLaunch := by
  unfold Obligations.EmptyLaunch
  intro s q die d c n x home taken empty l u home'
  have noWarps : x.warps = 0 := x.warps_eq_zero.2 empty
  refine ⟨noWarps, ?_⟩
  intro v written r t
  have entered : u.launchOf l = some x := s.launchOf_launched q x
  have word : u.putCompletion x.ctx home' x.cword 0 = v := State.putCompletion_written written
  have retired : t = r.dropLaunch l := calc
    t = u.retireLaunch l 0 := (State.dispatch_launch die home taken).trans (if_pos noWarps)
    _ = r.dropLaunch l := by rw [State.retireLaunch_retired entered (State.takeRecord_unreleased taken), word]
  rw [retired]
  exact ⟨r.mem_dropLaunch l, r.queue_dropLaunch l, r.launchOf_dropLaunch_self l,
    fun a => State.launch_ne_of_mem_agents_dropLaunch⟩

end Sys2Proof.Machine
end
